-- ==== Sys2Proof/Word.lean ====
section
/-! DEFINITION. The words of the machine: 64-bit scalars, 2,048-bit vector
registers (64 lanes of 32 bits), 64-byte lines, and the sparse tables the state is made of. -/

namespace Sys2Proof

/-- A scalar register, a lane mask or a control register (R21). -/
abbrev Word := BitVec 64
/-- A byte of memory. -/
abbrev Byte := BitVec 8
/-- A vector register: 64 lanes of 32 bits, lane 0 in the low bits (R21). -/
abbrev VReg := BitVec 2048
/-- A 64-byte line or pond word, byte 0 in the low bits. -/
abbrev Line := BitVec 512
/-- A pair of vector registers or the data of a block operation (R165). -/
abbrev VPair := BitVec 4096

/-- A sparse table: pairs of a key and a value in ascending key order, none of them the table's default
value. -/
abbrev Tab (α : Type) := List (Nat × α)

end Sys2Proof
end

