-- ==== Sys2Proof/Machine/Cipher.lean ====
section
/-! DEFINITION. The cipher of HBM (R121): AES-256-XTS over a 64-byte data unit. The spec names the cipher and gives its
key, its data unit and its tweak; what the cipher computes is taken from its published standards (PRESUMED, unsafe: log 6). Byte i of
a block is its bits [8i+7:8i]. -/

namespace Sys2Proof.Machine

open Sys2Proof

/-- A byte times x in the field of 256 elements. -/
def aesDouble (a : Byte) : Byte := (a <<< 1) ^^^ (if a.getLsbD 7 then 0x1B else 0)

/-- The product of two bytes in the field. -/
def aesMul (a b : Byte) : Byte :=
  ((List.range 8).foldl (fun (w : Byte × Byte) i => (if b.getLsbD i then w.1 ^^^ w.2 else w.1, aesDouble w.2)) (0, a)).1

/-- The inverse of a byte, a to the power 254; 0 for 0. -/
def aesInv (a : Byte) : Byte :=
  let a2 := aesMul a a
  let a3 := aesMul a2 a
  let a6 := aesMul a3 a3
  let a12 := aesMul a6 a6
  let a15 := aesMul a12 a3
  let a30 := aesMul a15 a15
  let a60 := aesMul a30 a30
  let a120 := aesMul a60 a60
  aesMul (aesMul (aesMul a120 a120) a12) a2

/-- The substitution of a byte, and its inverse. -/
def aesSub (b : Byte) : Byte :=
  let x := aesInv b
  x ^^^ x.rotateLeft 1 ^^^ x.rotateLeft 2 ^^^ x.rotateLeft 3 ^^^ x.rotateLeft 4 ^^^ 0x63
def aesUnsub (b : Byte) : Byte := aesInv (b.rotateLeft 1 ^^^ b.rotateLeft 3 ^^^ b.rotateLeft 6 ^^^ 0x05)

/-- The bytes of a block or key, and the block of 16 bytes. -/
def bytesOf (n : Nat) (x : Nat) : List Byte := (List.range n).map (fun i => BitVec.ofNat 8 (x / 2 ^ (8 * i)))
def blockOf (l : List Byte) : BitVec 128 := BitVec.ofNat 128 (l.foldr (fun b x => b.toNat + 256 * x) 0)

def xorBytes (a b : List Byte) : List Byte := a.zipWith (fun x y => x ^^^ y) b

/-- Byte i of a list. -/
def byteAt (l : List Byte) (i : Nat) : Byte := (l[i]?).getD 0

/-- The sixty 4-byte words of the expanded key. -/
def aesExpand (key : BitVec 256) : List (List Byte) :=
  (List.range 52).foldl (fun (w : List (List Byte)) j =>
    let i := j + 8
    let last := (w[i - 1]?).getD []
    let t := if i % 8 == 0 then
        let r := (last.drop 1 ++ last.take 1).map aesSub
        xorBytes r [BitVec.ofNat 8 (2 ^ (i / 8 - 1)), 0, 0, 0]
      else if i % 8 == 4 then last.map aesSub
      else last
    w ++ [xorBytes ((w[i - 8]?).getD []) t]) ((List.range 8).map (fun i => bytesOf 4 (key.toNat / 2 ^ (32 * i))))

/-- The key of a round. -/
def roundKey (w : List (List Byte)) (r : Nat) : List Byte := ((w.drop (4 * r)).take 4).flatten

/-- Row r of a block moves r columns, to the left or back. -/
def shiftRows (l : List Byte) : List Byte := (List.range 16).map (fun i => byteAt l (i % 4 + 4 * ((i / 4 + i % 4) % 4)))
def unshiftRows (l : List Byte) : List Byte := (List.range 16).map (fun i => byteAt l (i % 4 + 4 * ((i / 4 + 4 - i % 4) % 4)))

/-- Each column times the circulant matrix whose first row is given. -/
def mixColumns (m : List Byte) (l : List Byte) : List Byte :=
  (List.range 16).map (fun i => (List.range 4).foldl (fun x k =>
    x ^^^ aesMul (byteAt m ((k + 4 - i % 4) % 4)) (byteAt l (4 * (i / 4) + k))) 0)

/-- A block through the fourteen rounds of AES-256, and back. -/
def aesEncrypt (key : BitVec 256) (x : BitVec 128) : BitVec 128 :=
  let w := aesExpand key
  let s := (List.range 13).foldl (fun s r =>
    xorBytes (mixColumns [2, 3, 1, 1] (shiftRows (s.map aesSub))) (roundKey w (r + 1))) (xorBytes (bytesOf 16 x.toNat) (roundKey w 0))
  blockOf (xorBytes (shiftRows (s.map aesSub)) (roundKey w 14))
def aesDecrypt (key : BitVec 256) (x : BitVec 128) : BitVec 128 :=
  let w := aesExpand key
  let s := (List.range 13).foldl (fun s r =>
    mixColumns [14, 11, 13, 9] (xorBytes ((unshiftRows s).map aesUnsub) (roundKey w (13 - r)))) (xorBytes (bytesOf 16 x.toNat) (roundKey w 14))
  blockOf (xorBytes ((unshiftRows s).map aesUnsub) (roundKey w 0))

/-- The tweaks of the four blocks of a data unit: the encrypted tweak, then each times x in the field of 2^128 elements. -/
def xtsTweaks (key : BitVec 512) (tweak : Nat) : List (BitVec 128) :=
  let t := fun (x : BitVec 128) => (x <<< 1) ^^^ (if x.getLsbD 127 then 0x87 else 0)
  let t0 := aesEncrypt (key.extractLsb' 256 256) (BitVec.ofNat 128 tweak)
  [t0, t t0, t (t t0), t (t (t t0))]

/-- A line with each of its blocks, between two additions of its tweak, through a block cipher. -/
def xtsLine (f : BitVec 128 → BitVec 128) (ts : List (BitVec 128)) (x : Line) : Line :=
  BitVec.ofNat 512 (ts.zipIdx.foldr (fun tj a => a + (f (x.extractLsb' (128 * tj.2) 128 ^^^ tj.1) ^^^ tj.1).toNat * 2 ^ (128 * tj.2)) 0)

/-- A line encrypted and decrypted under a key and a tweak: the key of the data is bits [255:0], that of the tweak bits
[511:256]. -/
def xtsEncrypt (key : BitVec 512) (tweak : Nat) (x : Line) : Line := xtsLine (aesEncrypt (key.extractLsb' 0 256)) (xtsTweaks key tweak) x
def xtsDecrypt (key : BitVec 512) (tweak : Nat) (x : Line) : Line := xtsLine (aesDecrypt (key.extractLsb' 0 256)) (xtsTweaks key tweak) x

/-! AES-256-GCM, which protects the messages of a session (R352). A block is read here with its first byte highest. -/

/-- A number of 16 bytes with its bytes in the other order. -/
def flip16 (x : Nat) : Nat := (List.range 16).foldl (fun y i => y * 256 + x / 2 ^ (8 * i) % 256) 0

/-- The product of two blocks in the field of 2^128 elements, the highest bit first. -/
def ghashMul (x y : Nat) : Nat :=
  ((List.range 128).foldl (fun (zv : Nat × Nat) i =>
    (if x.testBit (127 - i) then zv.1 ^^^ zv.2 else zv.1, (zv.2 / 2) ^^^ (if zv.2.testBit 0 then 0xE1 * 2 ^ 120 else 0))) (0, y)).1

/-- A block through the cipher, its first byte highest. -/
def aesBlock (key : BitVec 256) (x : Nat) : Nat := flip16 (aesEncrypt key (BitVec.ofNat 128 (flip16 x))).toNat

/-- Block i of `n` bytes of text, byte 0 lowest; the last one is padded with zeros. -/
def textBlock (n text i : Nat) : Nat := flip16 (text % 2 ^ (8 * n) / 2 ^ (128 * i) % 2 ^ 128)

/-- The tag over `n` bytes of ciphertext, under a 96-bit initial value. -/
def gcmTag (key : BitVec 256) (iv n ct : Nat) : Nat :=
  let h := aesBlock key 0
  let s := (List.range ((n + 15) / 16)).foldl (fun y i => ghashMul (y ^^^ textBlock n ct i) h) 0
  ghashMul (s ^^^ (8 * n)) h ^^^ aesBlock key (iv % 2 ^ 96 * 2 ^ 32 + 1)

/-- `n` bytes of text, encrypted or decrypted in counter mode. -/
def gcmText (key : BitVec 256) (iv n text : Nat) : Nat :=
  ((List.range ((n + 15) / 16)).foldl (fun x i =>
    x + flip16 (textBlock n text i ^^^ aesBlock key (iv % 2 ^ 96 * 2 ^ 32 + i + 2)) * 2 ^ (128 * i)) 0) % 2 ^ (8 * n)

/-- The plaintext of a protected message; none where its tag does not match. DESIGN CHOICE, unsafe: log 125. -/
def gcmOpen (key : BitVec 256) (iv n ct tag : Nat) : Option Nat :=
  if gcmTag key iv n ct == tag % 2 ^ 128 then some (gcmText key iv n ct) else none

end Sys2Proof.Machine
end

