-- ==== Sys2Proof/Config.lean ====
section
/-! DEFINITION. What an implementation fixes: the values the spec leaves open, as constants without a body, so that
nothing can evaluate them and a statement holds whatever they are. Each is applied to a counter of the state. -/

namespace Sys2Proof.Config

open Sys2Proof

/-- Cycles an HBM fill takes beyond the 200 of R120. DESIGN CHOICE, safe: log 7. -/
opaque hbmExtra : Nat → Nat
/-- Cycles from a record's acceptance to the start of its tasks beyond one (R359). DESIGN CHOICE, safe: log 7. -/
opaque dispatchDelay : Nat → Nat
/-- Cycles firmware takes to forward a message beyond one (R371). DESIGN CHOICE, safe: log 7. -/
opaque firmwareDelay : Nat → Nat
/-- Cycles a fabric access or message takes beyond one (R284, R298, R315). DESIGN CHOICE, safe: log 7. -/
opaque fabricDelay : Nat → Nat
/-- Whether a host or peer mailbox bounces a message (R284). DESIGN CHOICE, safe: log 8. -/
opaque peerBounces : Nat → Bool
/-- What a fabric window access returns (R298). DESIGN CHOICE, safe: log 8. -/
opaque fabricData : Nat → BitVec 512
/-- A mill's measured energy in a window, in thousandths of its share (R366). DESIGN CHOICE, safe: log 9. -/
opaque millEnergy : Nat → Nat
/-- A die's thermal headroom in a window, in tenths of a degree (R366). DESIGN CHOICE, safe: log 9. -/
opaque thermalHeadroom : Nat → Nat
/-- Cycles a graph node takes beyond one (R406). DESIGN CHOICE, safe: log 7. -/
opaque nodeDelay : Nat → Nat
/-- Cycles the windrose takes to store a graph image beyond one (R409). DESIGN CHOICE, safe: log 7. -/
opaque imageDelay : Nat → Nat
/-- Whether a member of an in-switch group fails at the switch, and which members of other packages have contributed then (R415).
DESIGN CHOICE, safe: log 8. -/
opaque switchFails : Nat → Bool
/-- DESIGN CHOICE, safe: log 8. -/
opaque switchMask : Nat → BitVec 64
/-- An element or an accumulator that a windrose of another package sends (R405); whether it sends records, by the number of
the draw; and whether a rank of another package is a member of an in-switch group (R415). DESIGN CHOICE, safe: log 8. -/
opaque peerElement : Nat → Nat → BitVec 483
/-- DESIGN CHOICE, safe: log 8. -/
opaque peerSends : Nat → Bool
/-- DESIGN CHOICE, safe: log 8. -/
opaque peerMember : Nat → Nat → Bool
/-- Whether the switch of a node holds a rank for a member of the group of a channel before that rank has sent (R415). DESIGN CHOICE,
safe: log 58. -/
opaque switchGroup : Nat → Nat → Nat → Bool
/-- A status that the spec does not state. DESIGN CHOICE, safe: log 10. -/
opaque openStatus : Nat → BitVec 64
/-- A field of a snapshot that the spec fills with two numbers without saying how (R368). DESIGN CHOICE, safe: log 10. -/
opaque snapObject : Nat → Nat → BitVec 64
/-- The session key of a key exchange (R352). DESIGN CHOICE, safe: log 11. -/
opaque sessionKey : BitVec 12544 → BitVec 256
/-- The lines of a save image in device memory, and their bytes, by its number (R374). DESIGN CHOICE, unsafe: log 72. -/
opaque saveLines : Nat → Nat
/-- DESIGN CHOICE, unsafe: log 72. -/
opaque saveData : Nat → Nat → BitVec 512
/-- The initial value of a protected answer (R352). DESIGN CHOICE, safe: log 11. -/
opaque sessionIv : Nat → BitVec 96
/-- The part's half of a key exchange (R352). DESIGN CHOICE, safe: log 11. -/
opaque sessionHalf : BitVec 12544 → Nat
/-- Signatures with the device identity key, the attestation key and the manufacturing root (R352, R379). DESIGN CHOICE, safe: log 11. -/
opaque identitySign : Nat → Nat
/-- DESIGN CHOICE, safe: log 11. -/
opaque attestationSign : Nat → Nat
/-- DESIGN CHOICE, safe: log 11. -/
opaque rootSign : Nat → Nat
/-- The public keys of a part, by serial number (R379). DESIGN CHOICE, safe: log 11. -/
opaque identityKey : Nat → BitVec 512
/-- DESIGN CHOICE, safe: log 11. -/
opaque attestationKey : Nat → BitVec 384
/-- Cycles a flit that failed its check on a link of the millrace takes more, beyond one (R377). -/
opaque resendDelay : Nat → Nat
/-- The node and port at the far end of a fabric port (R292), and the port, among those of an I/O die, by which a node is
reached that is at no port's far end (R298). DEDUCED, unsafe: log 76. -/
opaque portPeer : Nat → BitVec 18
/-- DEDUCED, unsafe: log 81. -/
opaque portRoute : Nat → Nat
/-- The SHA3-256 digest of the running firmware image by release (R379). DESIGN CHOICE, safe: log 11. -/
opaque firmwareDigest : Nat → BitVec 256
/-- A context's tile descriptor table, whose place the spec does not give: context and index (R112). DESIGN CHOICE, unsafe: log 13. -/
opaque tileDescriptor : Nat → Nat → BitVec 512
/-- Which line of the LLC, in order of address, an access makes it write back to HBM and drop; none where the number
names no line (R121): the spec gives the LLC no replacement rule. DESIGN CHOICE, safe: log 12. -/
opaque llcVictim : Nat → Nat

end Sys2Proof.Config
end

