-- ==== Sys2Proof/Syntax.lean ====
section
/-! DEFINITION. The abstract syntax: the operands of an instruction word (R36, R41, R42) and the steps of the
part, one constructor of `Instr` for each row of the opcode table. -/

namespace Sys2Proof

/-- The register classes of R42. -/
inductive Cls where
  | s | v | p | k | a | c
  deriving DecidableEq, Repr

/-- A 24-bit operand field (R41). -/
inductive Operand where
  /-- kind 00: class, modifier bits [18:12], index -/
  | reg (cls : Cls) (m : BitVec 7) (idx : BitVec 12)
  /-- kind 01: a 22-bit immediate -/
  | imm (v : BitVec 22)
  /-- kind 10: one half of a 44-bit long immediate -/
  | limm (v : BitVec 22)
  /-- kind 11: none, with a modifier -/
  | none (m : BitVec 7)
  deriving DecidableEq, Repr

/-- Everything of an instruction word but OP and FN: the guard G, the hints J, D and BUD, and the three operand
fields (R36). -/
structure Args where
  /-- G[81]: the guard is inverted -/
  neg : Bool
  /-- G[80:78]: the guard predicate -/
  g : BitVec 3
  /-- H[77]: the J marker -/
  j : Bool
  /-- H[76]: drop a dirty line when its read budget ends -/
  d : Bool
  /-- H[75:72]: the read budget -/
  bud : BitVec 4
  a : Operand
  b : Operand
  c : Operand
  deriving DecidableEq, Repr

/-- The steps of the part: the instructions of R66, the words that are no instruction (R67), and the events of
the opcode table. An event has no operands of its own: the numbers of what it acts on, and the
data of an event of the outside world, stand in the agenda and, when it is due, in `State.arg`, in the order the
docstring of its meaning gives. -/
inductive Instr where
  /-- NOP (R68). -/
  | nop (x : Args)
  /-- TRAP (R382). -/
  | trap (x : Args)
  /-- CSRR (R382). -/
  | csrr (x : Args)
  /-- CSRW (R382). -/
  | csrw (x : Args)
  /-- CSRX (R382). -/
  | csrx (x : Args)
  /-- SLOTR (R384). -/
  | slotr (x : Args)
  /-- SLOTW (R384). -/
  | slotw (x : Args)
  /-- SLOTGO (R383). -/
  | slotgo (x : Args)
  /-- SLOTSTOP (R383). -/
  | slotstop (x : Args)
  /-- TLBI (R133). -/
  | tlbi (x : Args)
  /-- CAMW (R171). -/
  | camw (x : Args)
  /-- CAMSW (R172). -/
  | camsw (x : Args)
  /-- UNASSIGNED_OPCODE (R67). -/
  | unassignedOpcode (word : BitVec 96)
  /-- ADD (R78). -/
  | add (x : Args)
  /-- SUB (R78). -/
  | sub (x : Args)
  /-- MUL (R78). -/
  | mul (x : Args)
  /-- MULH (R78). -/
  | mulh (x : Args)
  /-- MULHN (R78). -/
  | mulhn (x : Args)
  /-- DIV (R79). -/
  | div (x : Args)
  /-- DIVN (R79). -/
  | divn (x : Args)
  /-- REM (R79). -/
  | rem (x : Args)
  /-- REMN (R79). -/
  | remn (x : Args)
  /-- AND (R78). -/
  | and (x : Args)
  /-- OR (R78). -/
  | or (x : Args)
  /-- XOR (R78). -/
  | xor (x : Args)
  /-- ANDN (R78). -/
  | andn (x : Args)
  /-- ORN (R78). -/
  | orn (x : Args)
  /-- SHL (R78). -/
  | shl (x : Args)
  /-- SHR (R78). -/
  | shr (x : Args)
  /-- SRA (R78). -/
  | sra (x : Args)
  /-- ROL (R78). -/
  | rol (x : Args)
  /-- MIN (R78). -/
  | min (x : Args)
  /-- MINN (R78). -/
  | minn (x : Args)
  /-- MAX (R78). -/
  | max (x : Args)
  /-- MAXN (R78). -/
  | maxn (x : Args)
  /-- CLZ (R80). -/
  | clz (x : Args)
  /-- CTZ (R80). -/
  | ctz (x : Args)
  /-- POPC (R80). -/
  | popc (x : Args)
  /-- BFX (R81). -/
  | bfx (x : Args)
  /-- BFXN (R81). -/
  | bfxn (x : Args)
  /-- BFI (R81). -/
  | bfi (x : Args)
  /-- CMP_EQ (R82). -/
  | cmpEq (x : Args)
  /-- CMP_NE (R82). -/
  | cmpNe (x : Args)
  /-- CMP_LT (R82). -/
  | cmpLt (x : Args)
  /-- CMP_LE (R82). -/
  | cmpLe (x : Args)
  /-- CMP_LTN (R82). -/
  | cmpLtn (x : Args)
  /-- CMP_LEN (R82). -/
  | cmpLen (x : Args)
  /-- SEL (R83). -/
  | sel (x : Args)
  /-- MOV (R83). -/
  | mov (x : Args)
  /-- LI (R84). -/
  | li (x : Args)
  /-- LIH (R84). -/
  | lih (x : Args)
  /-- FADD (R86). -/
  | fadd (x : Args)
  /-- FSUB (R86). -/
  | fsub (x : Args)
  /-- FMUL (R86). -/
  | fmul (x : Args)
  /-- FFMA (R86). -/
  | ffma (x : Args)
  /-- FDIV (R86). -/
  | fdiv (x : Args)
  /-- FSQRT (R86). -/
  | fsqrt (x : Args)
  /-- FMIN (R86). -/
  | fmin (x : Args)
  /-- FMAX (R86). -/
  | fmax (x : Args)
  /-- FCVT (R88). -/
  | fcvt (x : Args)
  /-- FCLASS (R89). -/
  | fclass (x : Args)
  /-- FCMP_EQ (R90). -/
  | fcmpEq (x : Args)
  /-- FCMP_NE (R90). -/
  | fcmpNe (x : Args)
  /-- FCMP_LT (R90). -/
  | fcmpLt (x : Args)
  /-- FCMP_LE (R90). -/
  | fcmpLe (x : Args)
  /-- FCMP_UN (R90). -/
  | fcmpUn (x : Args)
  /-- PAND (R91). -/
  | pand (x : Args)
  /-- POR (R91). -/
  | por (x : Args)
  /-- PXOR (R91). -/
  | pxor (x : Args)
  /-- PNOT (R91). -/
  | pnot (x : Args)
  /-- PMOV (R91). -/
  | pmov (x : Args)
  /-- BR (R92). -/
  | br (x : Args)
  /-- BRI (R92). -/
  | bri (x : Args)
  /-- CALL (R92). -/
  | call (x : Args)
  /-- CALLI (R92). -/
  | calli (x : Args)
  /-- RET (R92). -/
  | ret (x : Args)
  /-- DBR (R94). -/
  | dbr (x : Args)
  /-- EXIT (R95). -/
  | exit (x : Args)
  /-- VADD (R207). -/
  | vadd (x : Args)
  /-- VSUB (R207). -/
  | vsub (x : Args)
  /-- VMUL (R207). -/
  | vmul (x : Args)
  /-- VFMA (R207). -/
  | vfma (x : Args)
  /-- VFMS (R207). -/
  | vfms (x : Args)
  /-- VMIN (R208). -/
  | vmin (x : Args)
  /-- VMAX (R208). -/
  | vmax (x : Args)
  /-- VABS (R208). -/
  | vabs (x : Args)
  /-- VNEG (R208). -/
  | vneg (x : Args)
  /-- VAND (R209). -/
  | vand (x : Args)
  /-- VOR (R209). -/
  | vor (x : Args)
  /-- VXOR (R209). -/
  | vxor (x : Args)
  /-- VSHL (R209). -/
  | vshl (x : Args)
  /-- VSHR (R209). -/
  | vshr (x : Args)
  /-- VSRA (R209). -/
  | vsra (x : Args)
  /-- VCMP_EQ (R210). -/
  | vcmpEq (x : Args)
  /-- VCMP_NE (R210). -/
  | vcmpNe (x : Args)
  /-- VCMP_LT (R210). -/
  | vcmpLt (x : Args)
  /-- VCMP_LE (R210). -/
  | vcmpLe (x : Args)
  /-- VCMP_LTN (R210). -/
  | vcmpLtn (x : Args)
  /-- VCMP_LEN (R210). -/
  | vcmpLen (x : Args)
  /-- VCMP_UN (R210). -/
  | vcmpUn (x : Args)
  /-- VSEL (R212). -/
  | vsel (x : Args)
  /-- VPERM (R212). -/
  | vperm (x : Args)
  /-- VBCAST (R212). -/
  | vbcast (x : Args)
  /-- VSLIDE (R212). -/
  | vslide (x : Args)
  /-- VMOVS (R212). -/
  | vmovs (x : Args)
  /-- VINS (R212). -/
  | vins (x : Args)
  /-- VEXP2 (R213). -/
  | vexp2 (x : Args)
  /-- VLOG2 (R213). -/
  | vlog2 (x : Args)
  /-- VRCP (R213). -/
  | vrcp (x : Args)
  /-- VRSQ (R213). -/
  | vrsq (x : Args)
  /-- VRED_XSUM (R214). -/
  | vredXsum (x : Args)
  /-- VRED_MIN (R214). -/
  | vredMin (x : Args)
  /-- VRED_MAX (R214). -/
  | vredMax (x : Args)
  /-- VRED_ADD (R214). -/
  | vredAdd (x : Args)
  /-- VDOT (R215). -/
  | vdot (x : Args)
  /-- KAND (R211). -/
  | kand (x : Args)
  /-- KOR (R211). -/
  | kor (x : Args)
  /-- KNOT (R211). -/
  | knot (x : Args)
  /-- KPOP (R211). -/
  | kpop (x : Args)
  /-- VCVT (R217). -/
  | vcvt (x : Args)
  /-- VPACK (R220). -/
  | vpack (x : Args)
  /-- VUNPACK (R221). -/
  | vunpack (x : Args)
  /-- XACC (R222). -/
  | xacc (x : Args)
  /-- XRND (R223). -/
  | xrnd (x : Args)
  /-- XCLR (R224). -/
  | xclr (x : Args)
  /-- RMIX (R227). -/
  | rmix (x : Args)
  /-- VRMIX (R227). -/
  | vrmix (x : Args)
  /-- LDG (R125). -/
  | ldg (x : Args)
  /-- STG (R125). -/
  | stg (x : Args)
  /-- VLDG (R126). -/
  | vldg (x : Args)
  /-- VSTG (R126). -/
  | vstg (x : Args)
  /-- VGTHG (R127). -/
  | vgthg (x : Args)
  /-- VSCTG (R127). -/
  | vsctg (x : Args)
  /-- PFG (R129). -/
  | pfg (x : Args)
  /-- CLG (R130). -/
  | clg (x : Args)
  /-- TLDG (R131). -/
  | tldg (x : Args)
  /-- TSTG (R131). -/
  | tstg (x : Args)
  /-- TLDG_AON (R132). -/
  | tldgAon (x : Args)
  /-- TSTG_AON (R132). -/
  | tstgAon (x : Args)
  /-- LDP (R164). -/
  | ldp (x : Args)
  /-- STP (R164). -/
  | stp (x : Args)
  /-- VLDP (R164). -/
  | vldp (x : Args)
  /-- VSTP (R164). -/
  | vstp (x : Args)
  /-- BLKLD (R166). -/
  | blkld (x : Args)
  /-- BLKST (R166). -/
  | blkst (x : Args)
  /-- FILL (R167). -/
  | fill (x : Args)
  /-- EMPTY (R167). -/
  | empty (x : Args)
  /-- PEEK (R167). -/
  | peek (x : Args)
  /-- FILL_G (R306). -/
  | fillG (x : Args)
  /-- EMPTY_G (R306). -/
  | emptyG (x : Args)
  /-- PEEK_G (R306). -/
  | peekG (x : Args)
  /-- LDC (R319). -/
  | ldc (x : Args)
  /-- STC (R319). -/
  | stc (x : Args)
  /-- VLDC (R319). -/
  | vldc (x : Args)
  /-- VSTC (R319). -/
  | vstc (x : Args)
  /-- AMOG_ADD (R392). -/
  | amogAdd (x : Args)
  /-- AMOG_AND (R392). -/
  | amogAnd (x : Args)
  /-- AMOG_OR (R392). -/
  | amogOr (x : Args)
  /-- AMOG_XOR (R392). -/
  | amogXor (x : Args)
  /-- AMOG_MIN (R392). -/
  | amogMin (x : Args)
  /-- AMOG_MAX (R392). -/
  | amogMax (x : Args)
  /-- AMOG_MINN (R392). -/
  | amogMinn (x : Args)
  /-- AMOG_MAXN (R392). -/
  | amogMaxn (x : Args)
  /-- AMOG_SWAP (R392). -/
  | amogSwap (x : Args)
  /-- AMOG_CAS (R392). -/
  | amogCas (x : Args)
  /-- AMOG_XADD32 (R392). -/
  | amogXadd32 (x : Args)
  /-- AMOG_XADD64 (R394). -/
  | amogXadd64 (x : Args)
  /-- AMOP_ADD (R169). -/
  | amopAdd (x : Args)
  /-- AMOP_AND (R169). -/
  | amopAnd (x : Args)
  /-- AMOP_OR (R169). -/
  | amopOr (x : Args)
  /-- AMOP_XOR (R169). -/
  | amopXor (x : Args)
  /-- AMOP_MIN (R169). -/
  | amopMin (x : Args)
  /-- AMOP_MAX (R169). -/
  | amopMax (x : Args)
  /-- AMOP_MINN (R169). -/
  | amopMinn (x : Args)
  /-- AMOP_MAXN (R169). -/
  | amopMaxn (x : Args)
  /-- AMOP_SWAP (R169). -/
  | amopSwap (x : Args)
  /-- AMOP_CAS (R169). -/
  | amopCas (x : Args)
  /-- AMOP_XADD32 (R169). -/
  | amopXadd32 (x : Args)
  /-- AMOP_XADD64 (R170). -/
  | amopXadd64 (x : Args)
  /-- AMOC_ADD (R320). -/
  | amocAdd (x : Args)
  /-- AMOC_AND (R320). -/
  | amocAnd (x : Args)
  /-- AMOC_OR (R320). -/
  | amocOr (x : Args)
  /-- AMOC_XOR (R320). -/
  | amocXor (x : Args)
  /-- AMOC_MIN (R320). -/
  | amocMin (x : Args)
  /-- AMOC_MAX (R320). -/
  | amocMax (x : Args)
  /-- AMOC_MINN (R320). -/
  | amocMinn (x : Args)
  /-- AMOC_MAXN (R320). -/
  | amocMaxn (x : Args)
  /-- AMOC_SWAP (R320). -/
  | amocSwap (x : Args)
  /-- AMOC_CAS (R320). -/
  | amocCas (x : Args)
  /-- AMOC_XADD32 (R320). -/
  | amocXadd32 (x : Args)
  /-- AMOC_XADD64 (R320). -/
  | amocXadd64 (x : Args)
  /-- SEND (R311). -/
  | send (x : Args)
  /-- SENDL (R311). -/
  | sendl (x : Args)
  /-- RECV_MB (R313). -/
  | recvMb (x : Args)
  /-- RECV_FE (R314). -/
  | recvFe (x : Args)
  /-- RECV_FE_G (R306). -/
  | recvFeG (x : Args)
  /-- RECV_JOB (R314). -/
  | recvJob (x : Args)
  /-- RECV_CHK (R314). -/
  | recvChk (x : Args)
  /-- RECV_WORK (R314). -/
  | recvWork (x : Args)
  /-- RECV_BAR (R314). -/
  | recvBar (x : Args)
  /-- PROBE (R313). -/
  | probe (x : Args)
  /-- BIND (R307). -/
  | bind (x : Args)
  /-- UNBIND (R307). -/
  | unbind (x : Args)
  /-- BAR (R315). -/
  | bar (x : Args)
  /-- FENCE (R316). -/
  | fence (x : Args)
  /-- SPAWN (R317). -/
  | spawn (x : Args)
  /-- LAUNCH (R318). -/
  | launch (x : Args)
  /-- CFETCH (R246). -/
  | cfetch (x : Args)
  /-- CSTORE (R246). -/
  | cstore (x : Args)
  /-- CPUSH (R246). -/
  | cpush (x : Args)
  /-- CMCAST (R246). -/
  | cmcast (x : Args)
  /-- MSHAPE (R233). -/
  | mshape (x : Args)
  /-- MMA (R237). -/
  | mma (x : Args)
  /-- MCOMMIT (R238). -/
  | mcommit (x : Args)
  /-- MZERO (R233). -/
  | mzero (x : Args)
  /-- MLD (R244). -/
  | mld (x : Args)
  /-- MST (R244). -/
  | mst (x : Args)
  /-- CGLOAD (R409). -/
  | cgload (x : Args)
  /-- CGLOAD_UNLOAD (R409). -/
  | cgloadUnload (x : Args)
  /-- CGRUN (R410). -/
  | cgrun (x : Args)
  /-- CGRUN_AT (R413). -/
  | cgrunAt (x : Args)
  /-- CGSTAT (R414). -/
  | cgstat (x : Args)
  /-- CBQ (R395). -/
  | cbq (x : Args)
  /-- CBRES (R396). -/
  | cbres (x : Args)
  /-- CBPUT (R397). -/
  | cbput (x : Args)
  /-- CBSTAT (R402). -/
  | cbstat (x : Args)
  /-- GADD (R426). -/
  | gadd (x : Args)
  /-- GELIM (R427). -/
  | gelim (x : Args)
  /-- GDAMP (R429). -/
  | gdamp (x : Args)
  /-- GSOLVE (R430). -/
  | gsolve (x : Args)
  /-- GRES (R431). -/
  | gres (x : Args)
  /-- ICACHE_MISS (R436). -/
  | icacheMiss
  /-- ICACHE_FILL (R436). -/
  | icacheFill
  /-- TLB_MISS_WALK (R105). -/
  | tlbMissWalk
  /-- WALK_ANSWER (R105). -/
  | walkAnswer
  /-- WALK_RETRY (R105). -/
  | walkRetry
  /-- SLICE_SERVE (R115). -/
  | sliceServe
  /-- MISS_LIST_RETRY (R116). -/
  | missListRetry
  /-- L2_FILL (R116). -/
  | l2Fill
  /-- LLC_ACCESS (R120). -/
  | llcAccess
  /-- HBM_FILL (R120). -/
  | hbmFill
  /-- WRITE_BACK (R434). -/
  | writeBack
  /-- READ_BUDGET_EXPIRY (R119). -/
  | readBudgetExpiry
  /-- RESULT_LANDS (R13). -/
  | resultLands
  /-- POND_WORD_SERVICE (R148). -/
  | pondWordService
  /-- BLOCK_TURN (R150). -/
  | blockTurn
  /-- BLOCK_COMMIT (R151). -/
  | blockCommit
  /-- BANK_RETIRE_DECIDED (R156). -/
  | bankRetireDecided
  /-- SEVEN_BANK_ENTRY (R156). -/
  | sevenBankEntry
  /-- CLUSTER_RETIRE (R158). -/
  | clusterRetire
  /-- CAM_SWITCH (R159). -/
  | camSwitch
  /-- TLDG_AON_RETRY (R132). -/
  | tldgAonRetry
  /-- COPY_CHUNK_READY (R251). -/
  | copyChunkReady
  /-- CHUNK_WRITE (R252). -/
  | chunkWrite
  /-- COPY_LATE_FAULT (R255). -/
  | copyLateFault
  /-- COPY_COMPLETE (R254). -/
  | copyComplete
  /-- BATCH_REGISTER (R238). -/
  | batchRegister
  /-- ENGINE_STEP (R239). -/
  | engineStep
  /-- ENGINE_STEP_END (R239). -/
  | engineStepEnd
  /-- BATCH_COMPLETE (R240). -/
  | batchComplete
  /-- FLIT_HOP (R269). -/
  | flitHop
  /-- CREW_ACCESS_ARRIVE (R276). -/
  | crewAccessArrive
  /-- CREW_RESPONSE (R277). -/
  | crewResponse
  /-- MESSAGE_DELIVERY (R283). -/
  | messageDelivery
  /-- HELD_MESSAGE_RETRY (R283). -/
  | heldMessageRetry
  /-- SEND_STATUS (R284). -/
  | sendStatus
  /-- DISPENSER_HANDOUT (R361). -/
  | dispenserHandout
  /-- BARRIER_ARRIVAL (R315). -/
  | barrierArrival
  /-- BARRIER_COMPLETE (R315). -/
  | barrierComplete
  /-- FE_HOME_SERVE (R306). -/
  | feHomeServe
  /-- FE_TABLE_RETRY (R306). -/
  | feTableRetry
  /-- MIGRATION_START (R71). -/
  | migrationStart
  /-- MIGRATION_QUEUE_SERVE (R72). -/
  | migrationQueueServe
  /-- MIGRATION_ARRIVE (R71). -/
  | migrationArrive
  /-- LATE_FAULT (R370). -/
  | lateFault
  /-- TRAP_FORWARD (R371). -/
  | trapForward
  /-- LAUNCH_RECORD (R356). -/
  | launchRecord
  /-- DISPATCH (R358). -/
  | dispatch
  /-- TASK_START (R359). -/
  | taskStart
  /-- TASK_END (R359). -/
  | taskEnd
  /-- LAUNCH_NOTICE (R360). -/
  | launchNotice
  /-- CREATE (R353). -/
  | create
  /-- DESTROY (R353). -/
  | destroy
  /-- LOADKEY (R353). -/
  | loadkey
  /-- QUOTE (R379). -/
  | quote
  /-- PREEMPT (R380). -/
  | preempt
  /-- SWITCHOUT (R380). -/
  | switchout
  /-- SWITCHIN (R380). -/
  | switchin
  /-- RESUME (R380). -/
  | resume
  /-- HANDLER (R380). -/
  | handler
  /-- KILL (R380). -/
  | kill
  /-- BUDGET (R380). -/
  | budget
  /-- VACATE (R373). -/
  | vacate
  /-- RESTORE (R375). -/
  | restore
  /-- SLICE_EXPIRY (R376). -/
  | sliceExpiry
  /-- WAIT_BUDGET_EXPIRY (R367). -/
  | waitBudgetExpiry
  /-- FEATHER_WINDOW_END (R366). -/
  | featherWindowEnd
  /-- MACHINE_CHECK (R435). -/
  | machineCheck
  /-- ENUM_TABLE_UPDATE (R294). -/
  | enumTableUpdate
  /-- FREEZE (R378). -/
  | freeze
  /-- RESET (R378). -/
  | reset
  /-- BOOT (R379). -/
  | boot
  /-- FABRIC_REPLAY (R297). -/
  | fabricReplay
  /-- HOST_MEMORY_REQUEST (R302). -/
  | hostMemoryRequest
  /-- WINDOW_ACCESS (R298). -/
  | windowAccess
  /-- SKYCLOCK_DISCIPLINE (R300). -/
  | skyclockDiscipline
  /-- FORMAT_WINDOW_WRITE (R122). -/
  | formatWindowWrite
  /-- COMBINE_CONTROL_SERVE (R395). -/
  | combineControlServe
  /-- CBPUT_DEPOSIT (R398). -/
  | cbputDeposit
  /-- COMBINE_DEADLINE (R399). -/
  | combineDeadline
  /-- COMBINE_RELEASE (R400). -/
  | combineRelease
  /-- GRAPH_IMAGE_LOADED (R409). -/
  | graphImageLoaded
  /-- RUN_START_TIME (R413). -/
  | runStartTime
  /-- NODE_COMPLETE (R406). -/
  | nodeComplete
  /-- RUN_END (R411). -/
  | runEnd
  /-- IN_SWITCH_MERGE (R415). -/
  | inSwitchMerge
  /-- TLBI_COMPLETE (R133). -/
  | tlbiComplete
  /-- MANAGEMENT_PATH_READ (R378). -/
  | managementPathRead
  /-- AUTHENTICATED_SESSION (R352). -/
  | authenticatedSession
  /-- SUPERVISOR_RESTART (R370). -/
  | supervisorRestart
  deriving DecidableEq, Repr

end Sys2Proof
end

