-- ==== Sys2Proof/Machine/Format.lean ====
section
/-! DEFINITION. The accepted operand formats (check 2 of R47): the tables R77, R124, R162, R169, R205, R230, R303,
R381, R391 and R423, the attributes of R44, the hints of R40, the CSR numbers of R364, the feature gates of R69
and the privileged forms of R29. -/

namespace Sys2Proof

/-! Bit fields and integers (R64, R65). -/

/-- Bits `hi` down to `lo` of `x` (R64). -/
def bits (x hi lo : Nat) : Nat := (x >>> lo) % 2 ^ (hi + 1 - lo)

/-- The integer that the low `n` bits of `x` represent in two's complement (R64). -/
def toSigned (n x : Nat) : Int :=
  let y := x % 2 ^ n
  if 2 * y < 2 ^ n then (y : Int) else (y : Int) - (2 ^ n : Nat)

/-- The `n`-bit two's-complement pattern of an integer. -/
def ofSigned (n : Nat) (x : Int) : Nat := (x % ((2 ^ n : Nat) : Int)).toNat

/-- `x` of `n` bits, sign-extended to 64 bits (R65). -/
def signExt (x n : Nat) : Word := BitVec.ofInt 64 (toSigned n x)

/-- `x` of `n` bits, zero-extended to 64 bits (R65). -/
def zeroExt (x n : Nat) : Word := BitVec.ofNat 64 (x % 2 ^ n)

/-- `x` rounded up to a multiple of `k`. -/
def roundUp (x k : Nat) : Nat := (x + k - 1) / k * k

/-- The first cycle at or after `t` that is `r` modulo `m`. -/
def nextAt (t m r : Nat) : Nat := t + (r + m - t % m) % m

/-- The seven modifier bits [18:12] of a field, 0 where the field is an immediate (R44). -/
def Operand.modBits : Operand → Nat
  | .reg _ m _ => m.toNat
  | .none m => m.toNat
  | .imm _ => 0
  | .limm _ => 0

/-- The register index of a field, 0 where it names none. -/
def Operand.idx : Operand → Nat
  | .reg _ _ i => i.toNat
  | _ => 0

/-- Whether the field is kind 11. -/
def Operand.isNone : Operand → Bool
  | .none _ => true
  | _ => false

/-- Whether the field is a register of class `k`. -/
def Operand.isCls (k : Cls) : Operand → Bool
  | .reg c _ _ => c == k
  | _ => false

/-- The sign-extended value of an immediate field as an integer, 0 otherwise. -/
def Operand.immInt : Operand → Int
  | .imm v => v.toInt
  | .limm v => v.toInt
  | _ => 0

/-- RM, bits [18:16] of A (R44). -/
def Args.rm (x : Args) : Nat := bits x.a.modBits 6 4
/-- M, bits [15:13] of A (R44). -/
def Args.mask (x : Args) : Nat := bits x.a.modBits 3 1
/-- Z, bit [12] of A (R44). -/
def Args.z (x : Args) : Bool := x.a.modBits.testBit 0
/-- T, bits [18:14] of B (R44, R45). -/
def Args.ty (x : Args) : Nat := bits x.b.modBits 6 2
/-- T2, bits [18:14] of C (R44, R45). -/
def Args.ty2 (x : Args) : Nat := bits x.c.modBits 6 2
/-- F, bits [13:12] of C (R44). -/
def Args.f (x : Args) : Nat := bits x.c.modBits 1 0
/-- H[76:72], the hints other than J (R36, R40). -/
def Args.hints (x : Args) : Nat := x.bud.toNat + (if x.d then 16 else 0)

/-- One kind of operand an instruction takes in a field. -/
inductive Pat where
  /-- a register of the class with an index of at most `hi` -/
  | reg (c : Cls) (hi : Nat)
  /-- an even vector index -/
  | evenV
  /-- a kind 01 immediate in the range -/
  | imm (lo hi : Int)
  | limm
  | none
  deriving DecidableEq, Repr

/-- Whether the field matches the pattern (R23, R41, R42). -/
def Pat.ok : Pat → Operand → Bool
  | .reg c hi, .reg c' _ i => c == c' && decide (i.toNat ≤ hi)
  | .evenV, .reg c' _ i => c' == .v && decide (i.toNat ≤ 31) && i.toNat % 2 == 0
  | .imm lo hi, .imm v => decide (lo ≤ v.toInt) && decide (v.toInt ≤ hi)
  | .limm, .limm _ => true
  | .none, .none _ => true
  | _, _ => false

/-- What an instruction accepts in M and Z. -/
inductive MZ where
  | zero | mask | any
  deriving DecidableEq, Repr

/-- One row of an operand table. -/
structure Fmt where
  a : List Pat
  b : List Pat
  c : List Pat
  t : List Nat := [0]
  rm : List Nat := [0]
  mz : MZ := .zero
  t2 : List Nat := [0]
  f : List Nat := [0]
  deriving DecidableEq, Repr

/-- A general register of each class with its highest index (R23). -/
def pS : Pat := .reg .s 63
def pV : Pat := .reg .v 31
def pP : Pat := .reg .p 7
def pK : Pat := .reg .k 7
def pA : Pat := .reg .a 3
def pC : Pat := .reg .c 4095
/-- Any kind 01 immediate. -/
def pI : Pat := .imm (-2097152) 2097151
/-- A group of `n` successive scalar registers. -/
def pG (n : Nat) : Pat := .reg .s (64 - n)

def tInt : List Nat := [1, 2, 3, 4, 5, 6, 7, 8]
def tI : List Nat := [1, 2, 3, 4]
def tN : List Nat := [5, 6, 7, 8]
def tFp : List Nat := [9, 10, 11, 12]
def tAll : List Nat := tInt ++ tFp
def tVec : List Nat := tAll ++ [13, 14]
def rms : List Nat := [0, 1, 2, 3]

/-- The width in bits of a type code (R45). -/
def tyBits : Nat → Nat
  | 1 => 8 | 2 => 16 | 3 => 32 | 4 => 64 | 5 => 8 | 6 => 16 | 7 => 32 | 8 => 64
  | 9 => 64 | 10 => 32 | 11 => 16 | 12 => 16 | 13 => 8 | 14 => 8 | 15 => 6 | 16 => 6 | 17 => 4 | 18 => 4
  | _ => 0

/-- The rows of the atomic forms (R169, R391, R303): type and C operand by form. -/
def fmtAtomic (fn : Nat) : List Fmt :=
  if fn ≤ 3 || fn == 8 then [{ a := [pS], b := [pS], c := [pS, pI], t := [3, 4, 7, 8] }]
  else if fn == 4 || fn == 5 then [{ a := [pS], b := [pS], c := [pS, pI], t := [3, 4] }]
  else if fn == 6 || fn == 7 then [{ a := [pS], b := [pS], c := [pS, pI], t := [7, 8] }]
  else if fn == 9 then [{ a := [pS], b := [pS], c := [pG 2], t := [3, 4, 7, 8] }]
  else if fn == 10 then [{ a := [pS], b := [pS], c := [pS], t := [10] }]
  else if fn == 11 then [{ a := [pS], b := [pS], c := [pS], t := [9] }]
  else []

/-- The rows of the scalar, predicate and control instructions (R77, R92), nop (R68) and the system instructions
(R381, R124, R162). -/
def fmtScalar (op fn : Nat) : List Fmt :=
  match op with
  | 0x00 => if fn == 0 then
      [{ a := [.reg .s 0, .none], b := [.reg .s 0, .none], c := [.reg .s 0, .none] }]
    else [{ a := [.none], b := [.none], c := [.imm 0 65535] }]
  | 0x01 => if fn == 0 then [{ a := [pS], b := [pC], c := [.none] }]
    else if fn == 1 then [{ a := [pC], b := [pS, pI], c := [.none] }]
    else [{ a := [pS], b := [pC], c := [pS, pI] }]
  | 0x02 => if fn ≤ 2 then [{ a := [pS], b := [pS], c := [pS, pI] }]
    else [{ a := [pS], b := [pS], c := [.none] }]
  | 0x03 => [{ a := [.imm 2 2, .imm 5 6], b := [pG 3], c := [.none] }]
  | 0x04 => if fn == 0 then [{ a := [.none], b := [pG 4], c := [.none] }]
    else [{ a := [.none], b := [.none], c := [.none] }]
  | 0x10 =>
    let t := if [3, 5, 7, 18, 20].contains fn then tI else if [4, 6, 8, 19, 21].contains fn then tN else tInt
    [{ a := [pS], b := [pS], c := [pS, pI], t := t }]
  | 0x11 => if fn ≤ 2 then [{ a := [pS], b := [pS], c := [.none], t := tInt }]
    else [{ a := [pS], b := [pS], c := [pS, pI], t := if fn == 3 then tI else if fn == 4 then tN else tInt }]
  | 0x12 => [{ a := [pP], b := [pS], c := [pS, pI], t := if fn ≤ 1 then tInt else if fn ≤ 3 then tI else tN }]
  | 0x13 => if fn == 0 then [{ a := [pS], b := [pS], c := [pS, pI], mz := .mask }]
    else [{ a := [pS, pK], b := [pS, pK, pP], c := [.none] }]
  | 0x18 => if fn == 0 then [{ a := [pS], b := [.limm], c := [.limm] }]
    else [{ a := [pS], b := [.none], c := [.imm 0 1048575] }]
  | 0x20 =>
    if fn ≤ 4 then [{ a := [pS], b := [pS], c := [pS], t := tFp, rm := rms }]
    else if fn == 5 then [{ a := [pS], b := [pS], c := [.none], t := tFp, rm := rms }]
    else [{ a := [pS], b := [pS], c := [pS], t := tFp }]
  | 0x21 => if fn == 0 then
      [{ a := [pS], b := [pS], c := [.none], t := tFp, t2 := tAll, rm := rms },
       { a := [pS], b := [pS], c := [.none], t := tInt, t2 := tFp, rm := rms }]
    else [{ a := [pS], b := [pS], c := [.none], t := tFp }]
  | 0x22 => [{ a := [pP], b := [pS], c := [pS], t := tFp }]
  | 0x28 => if fn ≤ 2 then [{ a := [pP], b := [pP], c := [pP] }]
    else if fn == 3 then [{ a := [pP], b := [pP], c := [.none] }]
    else [{ a := [pP], b := [pP, pS, pI], c := [.none] }]
  | 0x30 => match fn with
    | 0 => [{ a := [.none], b := [.none], c := [pI] }]
    | 1 => [{ a := [.none], b := [pS], c := [.none] }]
    | 2 => [{ a := [pS], b := [.none], c := [pI] }]
    | 3 => [{ a := [pS], b := [pS], c := [.none] }]
    | 4 => [{ a := [.none], b := [pS], c := [.none] }]
    | 5 => [{ a := [pS], b := [.none], c := [pI] }]
    | _ => [{ a := [.none], b := [.none], c := [.none] }]
  | _ => []

/-- The rows of the vector instructions (R205, R210, R217, R220, R221, R223, R224). -/
def fmtVector (op fn : Nat) : List Fmt :=
  let ic : List Pat := [pV, pS, pI]
  let fc : List Pat := [pV, pS]
  match op with
  | 0x40 =>
    if fn ≤ 2 then [{ a := [pV], b := [pV], c := ic, t := tInt, mz := .any },
                    { a := [pV], b := [pV], c := fc, t := tFp, rm := rms, mz := .any }]
    else if fn ≤ 4 then [{ a := [pV], b := [pV], c := fc, t := tFp, rm := rms, mz := .any }]
    else if fn ≤ 6 then [{ a := [pV], b := [pV], c := ic, t := tInt, mz := .any },
                         { a := [pV], b := [pV], c := fc, t := tFp, mz := .any }]
    else [{ a := [pV], b := [pV], c := [.none], t := if fn == 7 then tI ++ tFp else tAll, mz := .any }]
  | 0x41 => [{ a := [pV], b := [pV], c := ic, t := tInt, mz := .any }]
  | 0x42 =>
    let it : List Nat := if fn ≤ 1 then tInt else if fn ≤ 3 then tI else if fn ≤ 5 then tN else []
    let ft : Bool := fn ≤ 3 || fn == 6
    let w (n : Nat) (l : List Nat) : List Nat := l.filter (fun t => tyBits t == n)
    [{ a := [pK], b := [pV], c := ic, t := it.filter (fun t => 32 ≤ tyBits t), mz := .any },
     { a := [pK], b := [pV], c := ic, t := w 16 it, mz := .any, f := [0, 1] },
     { a := [pK], b := [pV], c := ic, t := w 8 it, mz := .any, f := [0, 1, 2, 3] }]
    ++ if ft then [{ a := [pK], b := [pV], c := fc, t := [9, 10], mz := .any },
                   { a := [pK], b := [pV], c := fc, t := [11, 12], mz := .any, f := [0, 1] }] else []
  | 0x43 => match fn with
    | 0 => [{ a := [pV], b := [pV], c := ic, mz := .mask }]
    | 1 => [{ a := [pV], b := [pV], c := [pV], mz := .any }]
    | 2 => [{ a := [pV], b := [pS], c := [.none], t := tAll, mz := .any }]
    | 3 => [{ a := [pV], b := [pV], c := [pS, pI], mz := .any }]
    | 4 => [{ a := [pS], b := [pV], c := [pS, pI], t := tAll }]
    | _ => [{ a := [pV], b := [pS], c := [pS, pI], t := tAll }]
  | 0x44 => [{ a := [pV], b := [pV], c := [.none], t := [10, 11, 12], rm := rms, mz := .any }]
  | 0x45 => match fn with
    | 0 => [{ a := [pS], b := [pV], c := [.none], t := tFp, rm := rms, mz := .mask }]
    | 3 => [{ a := [pS], b := [pV], c := [.none], t := tInt, mz := .mask },
            { a := [pS], b := [pV], c := [.none], t := tFp, rm := rms, mz := .mask }]
    | 8 => [{ a := [pS], b := [pV], c := [pV], t := [1], mz := .mask },
            { a := [pS], b := [pV], c := [pV], t := [13, 14], mz := .mask },
            { a := [pS], b := [pV], c := [pV], t := tFp, rm := rms, mz := .mask }]
    | _ => [{ a := [pS], b := [pV], c := [.none], t := tAll, mz := .mask }]
  | 0x48 => match fn with
    | 2 => [{ a := [pK], b := [pK], c := [.none] }]
    | 3 => [{ a := [pS], b := [pK], c := [.none] }]
    | _ => [{ a := [pK], b := [pK], c := [pK] }]
  | 0x50 => match fn with
    | 0 =>
      let row (t : Nat) (r : List Nat) (bp : Pat) : List Fmt :=
        let inf : Nat := if t == 14 then 2 else 0
        let eq := tVec.filter (fun u => u != t && tyBits u == tyBits t)
        let ne := tVec.filter (fun u => tyBits u == 2 * tyBits t || 2 * tyBits u == tyBits t)
        [{ a := [pV], b := [bp], c := [.none], t := [t], t2 := eq, f := [0, inf], rm := r, mz := .any },
         { a := [pV], b := [bp], c := [.none], t := [t], t2 := ne, f := [0, 1, inf, inf + 1], rm := r, mz := .any }]
      tVec.flatMap (fun t => row t rms pV ++ row t [4] .evenV)
    | 1 =>
      let row (r : List Nat) (bp : Pat) : List Fmt :=
        [{ a := [pV], b := [bp], c := [.none], t := [1, 18], t2 := [10], rm := r, mz := .mask },
         { a := [pV], b := [bp], c := [.none], t := [13, 15, 16, 17], t2 := [10], f := [0, 2], rm := r, mz := .mask },
         { a := [pV], b := [bp], c := [.none], t := [14], t2 := [10], f := [0, 1, 2, 3], rm := r, mz := .mask }]
      row rms pV ++ row [4] .evenV
    | _ => [{ a := [pV], b := [pV], c := [.none], t := [10], t2 := [1, 13, 14, 15, 16, 17, 18], rm := rms, mz := .any },
            { a := [pV], b := [pV], c := [.none], t := [3], t2 := [1, 18], rm := rms, mz := .any }]
  | 0x51 => match fn with
    | 0 => [{ a := [pV], b := [pS], c := [.none], t := [10], mz := .mask }]
    | 1 => [{ a := [pV], b := [pS], c := [.none], t := [10, 11, 12], rm := rms, mz := .any },
            { a := [pS], b := [pS], c := [.none], t := [9], rm := rms }]
    | _ => [{ a := [pK], b := [pS], c := [.none], t := [10] }, { a := [.none], b := [pS], c := [.none], t := [9] }]
  | 0x52 => if fn == 0 then [{ a := [pS], b := [pS], c := [pS, pI] }]
    else [{ a := [pV], b := [pS], c := [pS, pI], mz := .any }]
  | _ => []

/-- The rows of the memory instructions (R124, R162, R303, R391). -/
def fmtMemory (op fn : Nat) : List Fmt :=
  let si : List Pat := [pS, pI]
  let ldst : List Fmt := match fn with
    | 0 => [{ a := [pS], b := [pS], c := si, t := tAll }]
    | 1 => [{ a := [pS], b := [pS], c := si, t := tAll }]
    | 2 => [{ a := [pV], b := [pS], c := si, t := tVec, mz := .any }]
    | _ => [{ a := [pV], b := [pS], c := si, t := tVec, mz := .mask }]
  match op with
  | 0x60 => [{ a := [pS], b := [pS], c := si, t := tAll }]
  | 0x61 => match fn with
    | 0 => [{ a := [pV], b := [pS], c := si, t := tVec, mz := .any }]
    | 1 => [{ a := [pV], b := [pS], c := si, t := tVec, mz := .mask }]
    | 2 => [{ a := [pV], b := [pS], c := [pV], t := [3, 7, 10], mz := .any }]
    | _ => [{ a := [pV], b := [pS], c := [pV], t := [3, 7, 10], mz := .mask }]
  | 0x62 => if fn == 0 then [{ a := [.imm 1 1, .imm 5 6], b := [pS], c := si }]
    else [{ a := [.imm 0 7], b := [pS], c := si }]
  | 0x63 => [{ a := [pS], b := [pG 2], c := [.imm 5 6] }]
  | 0x70 => ldst
  | 0x71 => if fn == 0 then [{ a := [.evenV], b := [pS], c := [pS], mz := .any }]
    else [{ a := [.evenV], b := [pS], c := [.none], mz := .mask }]
  | 0x72 =>
    let a : List Pat := if fn == 1 then [.none] else [pS]
    [{ a := a, b := [pS], c := si }, { a := a, b := [pS], c := [pS], f := [1] }]
  | 0x74 => ldst
  | 0x80 => fmtAtomic fn
  | 0x81 => fmtAtomic fn
  | 0x82 => fmtAtomic fn
  | _ => []

/-- The rows of the message, engine, collective, combine and G instructions (R303, R230, R391, R423). -/
def fmtEngine (op fn : Nat) : List Fmt :=
  let sc : Pat := .imm 2 7
  match op with
  | 0x90 => [{ a := [pS], b := [pV], c := [pG 2] }]
  | 0x91 => match fn with
    | 0 => [{ a := [pS], b := [pV, .none], c := [pS, pI, .none] }]
    | 1 => [{ a := [pS], b := [pS], c := [pS, pI] }, { a := [pS], b := [pS], c := [pS], f := [1] }]
    | 2 => [{ a := [pS], b := [pS], c := [.none] }]
    | 3 => [{ a := [pS], b := [pS], c := [pS] }]
    | 4 => [{ a := [pS], b := [.none], c := [.none] }]
    | 5 => [{ a := [pS], b := [sc], c := [pI] }]
    | _ => [{ a := [pS], b := [.none], c := [pS, pI, .none] }]
  | 0x92 => [{ a := [pS], b := [pG 3], c := [sc] }]
  | 0x93 => if fn == 0 then [{ a := [.none], b := [sc], c := [pI] }] else [{ a := [.none], b := [sc], c := [.none] }]
  | 0x94 => if fn == 0 then [{ a := [pS], b := [pG 8], c := [pS] }] else [{ a := [pS], b := [pS], c := [pS, pI] }]
  | 0xA0 => [{ a := [.none], b := [pG 4], c := [.none] }]
  | 0xB0 => match fn with
    | 0 =>
      [{ a := [pA], b := [pS], c := [.none], t := [9], t2 := [0, 9] },
       { a := [pA], b := [pS], c := [.none], t := [10], t2 := [0, 10] },
       { a := [pA], b := [pS], c := [.none], t := [11, 12], t2 := [0, 11, 12] },
       { a := [pA], b := [pS], c := [.none], t := [13, 14], t2 := [0, 13, 14] },
       { a := [pA], b := [pS], c := [.none], t := [15, 16], t2 := [0, 15, 16] },
       { a := [pA], b := [pS], c := [.none], t := [17], t2 := [0, 17] }]
    | 1 => [{ a := [pA], b := [pG 2, .evenV], c := [pG 2, .evenV] }]
    | 2 => [{ a := [pS], b := [.none], c := [.none] }]
    | 3 => [{ a := [pA], b := [.none], c := [.none] }]
    | _ => [{ a := [pA], b := [pG 2], c := [pS] }]
  | 0xC0 => match fn with
    | 0 => [{ a := [pS], b := [pS], c := [.none] }]
    | 1 => [{ a := [pS], b := [pG 3], c := [.none] }]
    | 2 => [{ a := [pS], b := [pG 3], c := [pS] }]
    | _ => [{ a := [pS], b := [pS], c := [.none] }]
  | 0xC1 => match fn with
    | 0 => [{ a := [pS], b := [pG 3], c := [.none] }]
    | 1 => [{ a := [pS], b := [pG 3], c := [pV] }]
    | 2 => [{ a := [pS], b := [pS], c := [pS] }]
    | _ => [{ a := [pS], b := [pS], c := [.none] }]
  | 0xD0 => match fn with
    | 0 => [{ a := [pV], b := [pV], c := [.imm 0 11] }]
    | 1 => [{ a := [pV], b := [pV], c := [.imm 1 4095] }]
    | 2 => [{ a := [pV], b := [pV], c := [.none] }]
    | 3 => [{ a := [pV], b := [pV], c := [.none] }]
    | _ => [{ a := [pS], b := [pV], c := [pV] }]
  | _ => []

/-- The rows an instruction accepts. -/
def fmtOf (op fn : Nat) : List Fmt :=
  if op < 0x40 then fmtScalar op fn
  else if op < 0x60 then fmtVector op fn
  else if op < 0x90 then fmtMemory op fn
  else fmtEngine op fn

/-- Whether M and Z are what the row accepts; Z never stands with M = 0 (R47). -/
def MZ.ok : MZ → Nat → Bool → Bool
  | .zero, m, z => m == 0 && !z
  | .mask, _, z => !z
  | .any, m, z => !(z && m == 0)

/-- Whether the operands and attributes match the row (R44, R47). -/
def Fmt.ok (r : Fmt) (x : Args) : Bool :=
  r.a.any (·.ok x.a) && r.b.any (·.ok x.b) && r.c.any (·.ok x.c)
  && r.t.contains x.ty && bits x.b.modBits 1 0 == 0
  && r.rm.contains x.rm && r.mz.ok x.mask x.z
  && r.t2.contains x.ty2 && r.f.contains x.f

/-- The access of a CSR number (R364). -/
inductive CsrAccess where
  | unassigned | readOnly | readWrite | priv | privReadOnly
  deriving DecidableEq, Repr

/-- The access of each CSR number; CAMOUT is privileged and takes no write (R144, R364). -/
def csrAccess (n : Nat) : CsrAccess :=
  if n ≤ 5 || (8 ≤ n && n ≤ 0xA) || n == 0x10 || n == 0x11 || n == 0x18 || n == 0x20 || n == 0x21 then .readOnly
  else if n == 0x30 || n == 0x31 then .readWrite
  else if n == 0x40 || n == 0x41 || n == 0x60 || (0x100 ≤ n && n ≤ 0x103) || (0x108 ≤ n && n ≤ 0x10B) then .readOnly
  else if n == 0x50 || n == 0x51 || n == 0x200 then .priv
  else if n == 0x201 then .privReadOnly
  else .unassigned

/-- The CSR operand of csrr and csrx is B, of csrw is A (R381). -/
def csrOperand (fn : Nat) (x : Args) : Nat := if fn == 1 then x.a.idx else x.b.idx

/-- An unassigned number, and a write to a read-only register, fail check 2 (R364, R365). -/
def csrOk (fn : Nat) (x : Args) : Bool :=
  match csrAccess (csrOperand fn x) with
  | .unassigned => false
  | .readOnly => fn == 0
  | .privReadOnly => fn == 0
  | .readWrite => true
  | .priv => true

/-- Only OP high nibbles 6, 7 and 8 accept H[76:72] (R40). -/
def hintsOk (op : Nat) (x : Args) : Bool := x.hints == 0 || (6 ≤ op / 16 && op / 16 ≤ 8)

/-- A conversion names two different types (R88). -/
def fcvtOk (op fn : Nat) (x : Args) : Bool := !(op == 0x21 && fn == 0) || x.ty != x.ty2

/-- Every field of nop is exactly 0x000000 or 0xC00000 (R68): the modifiers are 0. -/
def nopOk (op fn : Nat) (x : Args) : Bool :=
  !(op == 0 && fn == 0) || (x.a.modBits == 0 && x.b.modBits == 0 && x.c.modBits == 0)

/-- Check 2 of R47. -/
def formatOk (op fn : Nat) (x : Args) : Bool :=
  (fmtOf op fn).any (·.ok x) && hintsOk op x && fcvtOk op fn x && nopOk op fn x
  && (op != 1 || csrOk fn x)

/-- The feature bit of FEATACC0 that gates the pair (R66, R69). -/
def featureBit (op fn : Nat) : Nat :=
  if op == 0x63 && 2 ≤ fn then 4
  else if op == 0xC0 then 3
  else if op == 0xC1 then 2
  else if op == 0xD0 then 1
  else 0

/-- Whether the word names a type gated by NARROW (R69). -/
def usesNarrow (x : Args) : Bool := (15 ≤ x.ty && x.ty ≤ 18) || (15 ≤ x.ty2 && x.ty2 ≤ 18)

/-- Whether the word is confined to a supervisor slot (R29, R66). -/
def isPrivileged (op fn : Nat) (x : Args) : Bool :=
  op == 2 || op == 3 || op == 4
  || (op == 1 && (csrAccess (csrOperand fn x) == .priv || csrAccess (csrOperand fn x) == .privReadOnly))

end Sys2Proof
end

