-- ==== Sys2Proof/Machine/Float.lean ====
section
/-! DEFINITION. The number formats to the last bit (R85, R177 to R182, R192): exact values, decoding, RoundTo,
exact arithmetic, comparison, and the functions of R213. -/

namespace Sys2Proof

/-- An exact value: a NaN (signalling or quiet), a signed infinity, or plus or minus `m` times 2 to the `e`. -/
inductive Num where
  | nan (sig : Bool)
  | inf (neg : Bool)
  | fin (neg : Bool) (m : Nat) (e : Int)
  deriving DecidableEq, Repr

/-- The flags NV, DZ, OF, UF, NX in the bit order of R200. -/
def flNV : Nat := 16
def flDZ : Nat := 8
def flOF : Nat := 4
def flUF : Nat := 2
def flNX : Nat := 1

/-- Exponent width, fraction width and bias of a format (R177). -/
structure FloatFmt where
  w : Nat
  m : Nat
  bias : Nat
  deriving DecidableEq, Repr

/-- The format of a type code (R177). -/
def floatFmt : Nat → FloatFmt
  | 9 => ⟨11, 52, 1023⟩ | 10 => ⟨8, 23, 127⟩ | 11 => ⟨8, 7, 127⟩ | 12 => ⟨5, 10, 15⟩
  | 13 => ⟨4, 3, 7⟩ | 14 => ⟨5, 2, 15⟩ | 15 => ⟨3, 2, 3⟩ | 16 => ⟨2, 3, 1⟩ | _ => ⟨2, 1, 1⟩

/-- Whether the type is a floating-point type of R177. -/
def isFloat (t : Nat) : Bool := 9 ≤ t && t ≤ 17
/-- Whether the type is a signed integer type (R45, R192). -/
def isSignedTy (t : Nat) : Bool := (1 ≤ t && t ≤ 4) || t == 18
/-- Whether the format has infinities (R179). -/
def hasInf (t : Nat) : Bool := (9 ≤ t && t ≤ 12) || t == 14
/-- Whether the format has NaNs (R179). -/
def hasNaN (t : Nat) : Bool := 9 ≤ t && t ≤ 14

/-- The canonical NaN of a format (R85, R179). -/
def canonNaN : Nat → Nat
  | 9 => 0x7FF8000000000000 | 10 => 0x7FC00000 | 11 => 0x7FC0 | 12 => 0x7E00 | 13 => 0x7F | 14 => 0x7E | _ => 0

/-- The smallest normal exponent of a format (R177). -/
def eminOf (t : Nat) : Int := 1 - ((floatFmt t).bias : Int)

/-- The largest finite value of a format as a significand and an exponent (R177). -/
def maxFin (t : Nat) : Nat × Int :=
  let f := floatFmt t
  match t with
  | 13 => (14, 5)
  | 15 => (7, 2)
  | 16 => (15, -1)
  | 17 => (3, 1)
  | _ => (2 ^ (f.m + 1) - 1, (f.bias : Int) - f.m)

/-- The sign bit of a code. -/
def signOf (t x : Nat) : Bool := x.testBit ((floatFmt t).w + (floatFmt t).m)

/-- The value of a code (R178, R179). -/
def decodeFloat (t x : Nat) : Num :=
  let f := floatFmt t
  let ex := x / 2 ^ f.m % 2 ^ f.w
  let fr := x % 2 ^ f.m
  let neg := signOf t x
  if hasInf t && ex == 2 ^ f.w - 1 then
    if fr == 0 then .inf neg else .nan (!fr.testBit (f.m - 1))
  else if t == 13 && ex == 15 && fr == 7 then .nan false
  else if ex == 0 then .fin neg fr (1 - (f.bias : Int) - f.m)
  else .fin neg (2 ^ f.m + fr) ((ex : Int) - f.bias - f.m)

/-- The value of an element of any type: an integer type gives its exact integer. -/
def decodeElem (t x : Nat) : Num :=
  if isFloat t then decodeFloat t x
  else if isSignedTy t then
    let v := toSigned (tyBits t) x
    .fin (decide (v < 0)) v.natAbs 0
  else .fin false (x % 2 ^ tyBits t) 0

/-- floor(log2 of the magnitude) of a nonzero value. -/
def ilog2 (m : Nat) (e : Int) : Int := (Nat.log2 m : Int) + e

/-- The magnitude `m` times 2^`e` as a multiple of 2^`qe`, rounded in mode `rm` with random bits `r`, and whether
it was inexact (R180). -/
def roundMult (neg : Bool) (m : Nat) (e qe : Int) (rm r : Nat) : Nat × Bool :=
  if qe ≤ e then (m <<< (e - qe).toNat, false)
  else
    let s := (qe - e).toNat
    let z := m >>> s
    let rem := m % 2 ^ s
    if rem == 0 then (z, false)
    else
      let up := match rm with
        | 0 => 2 ^ s < 2 * rem || (2 * rem == 2 ^ s && z % 2 == 1)
        | 1 => false
        | 2 => !neg
        | 3 => neg
        | _ => decide (r < (rem * 2 ^ 32) >>> s)
      (if up then z + 1 else z, true)

/-- The code of `k` times 2^`qe`, a value of the format (R178). DEDUCED, unsafe: log 34. -/
def encodeFin (t : Nat) (neg : Bool) (k : Nat) (qe : Int) : Nat :=
  let f := floatFmt t
  let sb := if neg then 2 ^ (f.w + f.m) else 0
  if k == 0 then (if t == 17 then 0 else sb)
  else
    let l := Nat.log2 k
    let x := (l : Int) + qe
    if x < eminOf t then sb + (k <<< (qe - (eminOf t - f.m)).toNat)
    else
      let sig := if l ≤ f.m then k <<< (f.m - l) else k >>> (l - f.m)
      sb + (x + f.bias).toNat * 2 ^ f.m + (sig - 2 ^ f.m)

/-- Whether the magnitude `k` times 2^`qe` exceeds that of the largest finite value. -/
def aboveMax (t k : Nat) (qe : Int) : Bool :=
  let mx := maxFin t
  if mx.2 ≤ qe then decide (mx.1 < k <<< (qe - mx.2).toNat) else decide (mx.1 <<< (mx.2 - qe).toNat < k)

/-- RoundTo for an integer type: the value and the flags (R180, R192). -/
def roundInt (t : Nat) (x : Num) (rm r : Nat) : Int × Nat :=
  let n := tyBits t
  let lo : Int := if isSignedTy t then -(2 ^ (n - 1) : Nat) else 0
  let hi : Int := if isSignedTy t then (2 ^ (n - 1) : Nat) - 1 else (2 ^ n : Nat) - 1
  match x with
  | .nan _ => (0, flNV)
  | .inf neg => (if neg then lo else hi, flNV)
  | .fin neg m e =>
    let p := roundMult neg m e 0 rm r
    let y : Int := if neg then -(p.1 : Int) else p.1
    if y < lo then (lo, flNV) else if hi < y then (hi, flNV) else (y, if p.2 then flNX else 0)

/-- RoundTo for a floating-point type: the code and the flags; `sat` is false where `.inf` turns the saturation of
E5M2 off (R180, R181). DEDUCED, unsafe: log 34. -/
def roundFloat (t : Nat) (x : Num) (rm r : Nat) (sat : Bool) : Nat × Nat :=
  let f := floatFmt t
  let saturates := !(9 ≤ t && t ≤ 12) && (t != 14 || sat)
  let sb (neg : Bool) : Nat := if neg then 2 ^ (f.w + f.m) else 0
  let infCode (neg : Bool) : Nat := sb neg + (2 ^ f.w - 1) * 2 ^ f.m
  let maxCode (neg : Bool) : Nat := encodeFin t neg (maxFin t).1 (maxFin t).2
  match x with
  | .nan sig => if hasNaN t then (canonNaN t, if sig then flNV else 0) else (0, flNV)
  | .inf neg => if hasInf t && !saturates then (infCode neg, 0) else (maxCode neg, flOF + flNX)
  | .fin neg m e =>
    if m == 0 then (if t == 17 then 0 else sb neg, 0)
    else
      let qe := max (ilog2 m e) (eminOf t) - f.m
      let p := roundMult neg m e qe rm r
      if aboveMax t p.1 qe then
        if saturates || rm == 1 || (rm == 2 && neg) || (rm == 3 && !neg) then (maxCode neg, flOF + flNX)
        else (infCode neg, flOF + flNX)
      else
        let u := roundMult neg m e (ilog2 m e - f.m) rm r
        let tiny := decide ((u.1 : Nat) ≠ 0) && decide (ilog2 u.1 (ilog2 m e - f.m) < eminOf t)
        (encodeFin t neg p.1 qe, if p.2 then flNX + (if tiny then flUF else 0) else 0)

/-- RoundTo: the code of the result in the low bits of its format, and the flags (R180). -/
def roundTo (t : Nat) (x : Num) (rm r : Nat) (sat : Bool := true) : Nat × Nat :=
  if isFloat t then roundFloat t x rm r sat
  else let p := roundInt t x rm r; (ofSigned (tyBits t) p.1, p.2)

/-- A signed significand as a value; a zero takes the sign given. -/
def Num.ofInt (v : Int) (e : Int) (zeroNeg : Bool) : Num :=
  if v == 0 then .fin zeroNeg 0 0 else .fin (decide (v < 0)) v.natAbs e

/-- The signed significand of a finite value at exponent `e`, which is at most its own. -/
def scaled (neg : Bool) (m : Nat) (me e : Int) : Int :=
  let v : Int := (m <<< (me - e).toNat : Nat)
  if neg then -v else v

def Num.isNan : Num → Bool
  | .nan _ => true
  | _ => false
def Num.isSig : Num → Bool
  | .nan s => s
  | _ => false
def Num.isInf : Num → Bool
  | .inf _ => true
  | _ => false
def Num.isZero : Num → Bool
  | .fin _ m _ => m == 0
  | _ => false
def Num.sign : Num → Bool
  | .nan _ => false
  | .inf n => n
  | .fin n _ _ => n

/-- The value with its sign inverted. -/
def Num.neg : Num → Num
  | .nan s => .nan s
  | .inf n => .inf (!n)
  | .fin n m e => .fin (!n) m e

/-- The flag of a signalling NaN among the operands (R86). -/
def sigFlag (l : List Num) : Nat := if l.any Num.isSig then flNV else 0

/-- The exact sum and the flags of forming it; a zero sum of unlike signs is -0 under .rdn (R86). -/
def numAdd (rm : Nat) (x y : Num) : Num × Nat :=
  match x, y with
  | .nan s, b => (.nan false, if s || b.isSig then flNV else 0)
  | a, .nan s => (.nan false, if s || a.isSig then flNV else 0)
  | .inf a, .inf b => if a == b then (.inf a, 0) else (.nan false, flNV)
  | .inf a, _ => (.inf a, 0)
  | _, .inf b => (.inf b, 0)
  | .fin n m e, .fin n' m' e' =>
    if m == 0 && m' == 0 then (.fin (if n == n' then n else rm == 3) 0 0, 0)
    else
      let ee := min e e'
      (Num.ofInt (scaled n m e ee + scaled n' m' e' ee) ee (rm == 3), 0)

/-- The exact product and the flags of forming it (R86). -/
def numMul (x y : Num) : Num × Nat :=
  match x, y with
  | .nan s, b => (.nan false, if s || b.isSig then flNV else 0)
  | a, .nan s => (.nan false, if s || a.isSig then flNV else 0)
  | .inf a, b => if b.isZero then (.nan false, flNV) else (.inf (a != b.sign), 0)
  | a, .inf b => if a.isZero then (.nan false, flNV) else (.inf (a.sign != b), 0)
  | .fin n m e, .fin n' m' e' => (.fin (n != n') (m * m') (e + e'), 0)

/-- The exact `x * y + z` and its flags (R86). -/
def numFma (rm : Nat) (x y z : Num) : Num × Nat :=
  let p := numMul x y
  let q := numAdd rm p.1 z
  (q.1, p.2 ||| q.2)

/-- The quotient of two naturals with at least `k` bits, the last of them sticky: significand and exponent. -/
def quotSticky (a b k : Nat) : Nat × Int :=
  let s := k + Nat.log2 b
  let q := a * 2 ^ s / b
  (2 * q + (if a * 2 ^ s % b == 0 then 0 else 1), -(s : Int) - 1)

/-- The quotient and the flags of forming it (R86). -/
def numDiv (x y : Num) : Num × Nat :=
  match x, y with
  | .nan s, b => (.nan false, if s || b.isSig then flNV else 0)
  | a, .nan s => (.nan false, if s || a.isSig then flNV else 0)
  | .inf a, b => if b.isInf then (.nan false, flNV) else (.inf (a != b.sign), 0)
  | a, .inf b => (.fin (a.sign != b) 0 0, 0)
  | .fin n m e, .fin n' m' e' =>
    if m' == 0 then (if m == 0 then (.nan false, flNV) else (.inf (n != n'), flDZ))
    else if m == 0 then (.fin (n != n') 0 0, 0)
    else let q := quotSticky m m' 70; (.fin (n != n') q.1 (q.2 + e - e'), 0)

/-- The integer square root, from bit `i` down. -/
def isqrtAux (n : Nat) : Nat → Nat → Nat
  | 0, r => r
  | i + 1, r => isqrtAux n i (if (r + 2 ^ i) * (r + 2 ^ i) ≤ n then r + 2 ^ i else r)

/-- The integer square root. -/
def isqrt (n : Nat) : Nat := isqrtAux n (Nat.log2 n / 2 + 1) 0

/-- The square root and the flags of forming it; the root of -0 is -0 (R86). -/
def numSqrt (x : Num) : Num × Nat :=
  match x with
  | .nan s => (.nan false, if s then flNV else 0)
  | .inf n => if n then (.nan false, flNV) else (.inf false, 0)
  | .fin n m e =>
    if m == 0 then (.fin n 0 0, 0)
    else if n then (.nan false, flNV)
    else
      let k : Nat := if e % 2 == 0 then 140 else 141
      let v := m * 2 ^ k
      let r := isqrt v
      (.fin false (2 * r + (if r * r == v then 0 else 1)) ((e - k) / 2 - 1), 0)

/-- The order of two values that are no NaN, with -0 equal to +0. -/
def numLt (x y : Num) : Bool :=
  match x, y with
  | .nan _, _ => false
  | _, .nan _ => false
  | .inf a, .inf b => a && !b
  | .inf a, _ => a
  | _, .inf b => !b
  | .fin n m e, .fin n' m' e' =>
    let ee := min e e'
    decide (scaled n m e ee < scaled n' m' e' ee)

/-- Equality of two values that are no NaN, with -0 equal to +0. -/
def numEq (x y : Num) : Bool := !x.isNan && !y.isNan && !numLt x y && !numLt y x

/-- The code of the smaller (or larger) of two codes, with -0 below +0; one NaN gives the other operand, two give
the canonical NaN; NV only for a signalling NaN (R86). -/
def floatMinMax (t : Nat) (larger : Bool) (a b : Nat) : Nat × Nat :=
  let x := decodeFloat t a
  let y := decodeFloat t b
  let fl := sigFlag [x, y]
  if x.isNan && y.isNan then (canonNaN t, fl)
  else if x.isNan then (b, fl)
  else if y.isNan then (a, fl)
  else
    let aFirst := numLt x y || (numEq x y && x.sign && !y.sign)
    (if aFirst != larger then a else b, 0)

/-- A comparison of R90 by form: its truth and its flags. -/
def floatCompare (fn : Nat) (x y : Num) : Bool × Nat :=
  let un := x.isNan || y.isNan
  let quiet := sigFlag [x, y]
  match fn with
  | 0 => (numEq x y, quiet)
  | 1 => (un || !numEq x y, quiet)
  | 2 => (!un && numLt x y, if un then flNV else 0)
  | 3 => (!un && (numLt x y || numEq x y), if un then flNV else 0)
  | _ => (un, quiet)

/-- The class bit of R89. -/
def floatClass (t x : Nat) : Nat :=
  match decodeFloat t x with
  | .nan s => if s then 8 else 9
  | .inf n => if n then 0 else 7
  | .fin n m e =>
    if m == 0 then (if n then 3 else 4)
    else if ilog2 m e < eminOf t then (if n then 2 else 5)
    else (if n then 1 else 6)

/-- The exact sum of finite values of a list, as a signed significand and an exponent. -/
def exactSum (l : List Num) : Int × Int :=
  l.foldl (fun a x => match x with
    | .fin n m e => let ee := min a.2 e; (a.1 * (2 ^ (a.2 - ee).toNat : Nat) + scaled n m e ee, ee)
    | _ => a) (0, 0)

/-- A sum of terms without order: a NaN term or infinities of both signs give a NaN (the latter sets NV), one
infinity gives itself, else the exact sum, +0 when it is zero (R214, R215, R239). DESIGN CHOICE, unsafe: log 137. -/
def sumTerms (l : List Num) : Num × Nat :=
  let pos := l.any (fun x => x == .inf false)
  let neg := l.any (fun x => x == .inf true)
  if l.any Num.isNan then (.nan false, if pos && neg then flNV else 0)
  else if pos && neg then (.nan false, flNV)
  else if pos then (.inf false, 0)
  else if neg then (.inf true, 0)
  else let s := exactSum l; (Num.ofInt s.1 s.2 false, 0)

/-! The functions of R213, on fixed-point numbers of `fxP` fraction bits. -/

/-- The fraction bits of the fixed-point numbers. -/
def fxP : Nat := 320

/-- 2·atanh(z) of a fixed-point z below 1/2: the odd power series, `k` terms from index `i` on. -/
def atanhSum (z2 : Nat) : Nat → Nat → Nat → Nat → Nat
  | 0, _, _, acc => acc
  | k + 1, i, pw, acc => atanhSum z2 k (i + 1) ((pw * z2) >>> fxP) (acc + 2 * pw / (2 * i + 1))

/-- ln((1 + z) / (1 - z)) of a fixed-point z. -/
def fxLnRatio (z : Nat) : Nat := atanhSum ((z * z) >>> fxP) 110 0 z 0

/-- ln 2 in fixed point. -/
def fxLn2 : Nat := fxLnRatio (2 ^ fxP / 3)

/-- e^y of a fixed-point y below 1: `k` terms from index `i` on. -/
def expSum (y : Nat) : Nat → Nat → Nat → Nat → Nat
  | 0, _, _, acc => acc
  | k + 1, i, tm, acc => expSum y k (i + 1) ((tm * y / (i + 1)) >>> fxP) (acc + tm)

/-- 2^x with its special operands (R213). -/
def numExp2 (x : Num) : Num × Nat :=
  match x with
  | .nan s => (.nan false, if s then flNV else 0)
  | .inf n => (if n then .fin false 0 0 else .inf false, 0)
  | .fin n m e =>
    if m == 0 then (.fin false 1 0, 0)
    else if 12 ≤ ilog2 m e then (.fin false 3 (if n then -6000 else 6000), 0)
    else
      let v : Int := let w := roundMult n m e (-(fxP : Int)) 1 0; if n then -(w.1 : Int) else w.1
      let k := v / (2 ^ fxP : Nat)
      let f := (v % (2 ^ fxP : Nat)).toNat
      if f == 0 then (.fin false 1 k, 0)
      else (.fin false (2 * expSum ((f * fxLn2) >>> fxP) 90 0 (2 ^ fxP) 0 + 1) (k - fxP - 1), 0)

/-- log2 x with its special operands (R213). -/
def numLog2 (x : Num) : Num × Nat :=
  match x with
  | .nan s => (.nan false, if s then flNV else 0)
  | .inf n => if n then (.nan false, flNV) else (.inf false, 0)
  | .fin n m e =>
    if m == 0 then (.inf true, flDZ)
    else if n then (.nan false, flNV)
    else
      let l := Nat.log2 m
      let k : Int := (l : Int) + e
      if m == 2 ^ l then (Num.ofInt k 0 false, 0)
      else
        let z := (m - 2 ^ l) * 2 ^ fxP / (m + 2 ^ l)
        let f := fxLnRatio z * 2 ^ fxP / fxLn2
        (Num.ofInt (2 * (k * (2 ^ fxP : Nat) + f) + 1) (-(fxP : Int) - 1) false, 0)

/-- 1/x with its special operands (R213). -/
def numRcp (x : Num) : Num × Nat :=
  match x with
  | .nan s => (.nan false, if s then flNV else 0)
  | .inf n => (.fin n 0 0, 0)
  | .fin n m e =>
    if m == 0 then (.inf n, flDZ)
    else let q := quotSticky 1 m 70; (.fin n q.1 (q.2 - e), 0)

/-- 1/sqrt(x) with its special operands (R213). -/
def numRsq (x : Num) : Num × Nat :=
  match x with
  | .nan s => (.nan false, if s then flNV else 0)
  | .inf n => if n then (.nan false, flNV) else (.fin false 0 0, 0)
  | .fin n m e =>
    if m == 0 then (.inf n, flDZ)
    else if n then (.nan false, flNV)
    else
      let m' := if e % 2 == 0 then m else 2 * m
      let e' := if e % 2 == 0 then e else e - 1
      let k := 160 + Nat.log2 m'
      let r := isqrt (2 ^ (2 * k) / m')
      (.fin false (2 * r + (if r * r * m' == 2 ^ (2 * k) then 0 else 1)) (-(k : Int) - e' / 2 - 1), 0)

end Sys2Proof
end

