-- ==== Sys2Proof/Machine/Block.lean ====
section
/-! DEFINITION. Block scales and E2M1 headers (R184 to R189), packed storage (R190, R191), exact accumulators
(R193 to R196), the wire form XW (R197, R198), and the mixing function Mix (R226). -/

namespace Sys2Proof

/-- The value times 2 to the `k`. -/
def Num.scale (x : Num) (k : Int) : Num :=
  match x with
  | .fin n m e => .fin n m (e + k)
  | x => x

/-- The magnitude of a value. -/
def Num.abs : Num → Num
  | .fin _ m e => .fin false m e
  | .inf _ => .inf false
  | x => x

/-- emaxf of R185. -/
def emaxf : Nat → Int
  | 13 => 8 | 14 => 15 | 15 => 4 | _ => 2

/-- The largest magnitude among the finite values; zero when there is none (R185). -/
def largestFinite (l : List Num) : Num :=
  l.foldl (fun a x => match x with
    | .fin _ m e => if numLt a (.fin false m e) then .fin false m e else a
    | _ => a) (.fin false 0 0)

/-- The scale byte that R185 chooses for a block. -/
def blockScale (t : Nat) (vs : List Num) : Nat :=
  let mx := largestFinite vs
  let hasNan := vs.any Num.isNan
  let hasInf := vs.any Num.isInf
  if (t ≥ 15 && hasNan) || (t == 17 && hasInf) then 255
  else match mx with
    | .fin _ m e =>
      if m == 0 then 127
      else
        let s := ilog2 m e - emaxf t + 127
        if s < 0 then 0 else if 254 < s then 254 else s.toNat
    | _ => 127

/-- One element of an E2M1 block under extra magnitude `x`: its code and its flags (R188). -/
def encodeE2m1 (x y : Num) (rm r : Nat) : Nat × Nat :=
  let c := roundTo 17 y rm r
  let dist (a : Num) : Num := (numAdd 0 a y.neg).1.abs
  if !y.sign && !y.isZero && numLt (dist x) (dist (decodeFloat 17 c.1)) then
    (8, if numEq x y then 0 else flNX)
  else c

/-- A block of 32 values: its scale byte or E2M1 header, its codes, and its flags (R185, R186, R188). A NaN block has scale 0xFF, and
its header an XMAG of 0, also under `.unit` (R187, R220). DESIGN CHOICE, unsafe: log 134. -/
def encodeBlock (t : Nat) (vs : List Num) (rm : Nat) (rs : List Nat) (inf unit : Bool) : Nat × List Nat × Nat :=
  let s0 := blockScale t vs
  if s0 == 255 then (if t == 17 then 65280 else 255, vs.map (fun _ => 0), flNV)
  else
    let s := if unit then 127 else s0
    let ys := vs.map (fun v => v.scale (127 - (s : Int)))
    if t == 17 then
      let xm := (roundTo 13 ((largestFinite vs).scale (127 - (s : Int))) 0 0).1
      let es := (ys.zip rs).map (fun p => encodeE2m1 (decodeFloat 13 xm) p.1 rm p.2)
      (s * 256 + xm, es.map (·.1), es.foldl (fun f e => f ||| e.2) 0)
    else
      let es := (ys.zip rs).map (fun p => roundTo t p.1 rm p.2 (!inf))
      (s, es.map (·.1), es.foldl (fun f e => f ||| e.2) 0)

/-- The value of a code in a block of scale byte or header `h` (R184, R188). -/
def decodeInBlock (t h c : Nat) : Num :=
  if t == 17 then
    let s := h / 256
    let x := h % 256
    if s == 255 then .nan false
    else if c == 8 then
      (if x % 128 == 127 then .nan false else (decodeFloat 13 x).scale ((s : Int) - 127))
    else (decodeFloat 17 c).scale ((s : Int) - 127)
  else if h == 255 then .nan false
  else (decodeFloat t c).scale ((h : Int) - 127)

/-- The natural that a list of `n`-bit fields packs, the first lowest. -/
def packBits (n : Nat) (l : List Nat) : Nat := l.foldr (fun c a => c % 2 ^ n + 2 ^ n * a) 0

/-- The plane of R185's stride for an FP6 range of `n` elements: the smallest power of two at least 64 and at least
n/2 bytes (R191). -/
def fp6Plane (n : Nat) : Nat := if n ≤ 128 then 64 else 2 ^ (Nat.log2 (n / 2 - 1) + 1)

/-- The 6-bit code of element `i` from its two planes' bytes (R191). -/
def fp6Code (nib two i : Nat) : Nat := bits nib (4 * (i % 2) + 3) (4 * (i % 2)) + 16 * bits two (2 * (i % 4) + 1) (2 * (i % 4))

/-! Exact accumulators. An accumulator is a natural: its SUM in the low `w` bits, then PINF, NINF, NAN. -/

/-- SUM width of XA32 and XA64 (R193, R194). -/
def xaWidth (x64 : Bool) : Nat := if x64 then 2528 else 480
/-- The scale of the least significant bit (R195). -/
def xaLsb (x64 : Bool) : Nat := if x64 then 1100 else 160

/-- XAdd of a value (R195). Reserved bits read 0 and are written 0. -/
def xaAdd (x64 : Bool) (acc : Nat) (x : Num) : Nat :=
  let w := xaWidth x64
  let sum := acc % 2 ^ w
  let st := acc / 2 ^ w % 8
  match x with
  | .nan _ => sum + 2 ^ w * (st ||| 4)
  | .inf n => sum + 2 ^ w * (st ||| (if n then 2 else 1))
  | .fin n m e =>
    let a := m <<< ((xaLsb x64 : Int) + e).toNat
    ofSigned w (if n then (sum : Int) - a else (sum : Int) + a) + 2 ^ w * st

/-- XAdd of an accumulator (R195). -/
def xaMerge (x64 : Bool) (acc x : Nat) : Nat :=
  let w := xaWidth x64
  (acc + x) % 2 ^ w + 2 ^ w * ((acc / 2 ^ w ||| x / 2 ^ w) % 8)

/-- The status field of an accumulator, bits [511:480] of its last line (R169). -/
def xaStatus (x64 : Bool) (acc : Nat) : Nat := acc / 2 ^ xaWidth x64 % 8

/-- An accumulator rounded to a format: the code and the flags (R196); with NAN no NV is set, whatever its infinities. DESIGN CHOICE,
unsafe: log 133. -/
def xaRound (x64 : Bool) (acc t rm r : Nat) : Nat × Nat :=
  let w := xaWidth x64
  let st := acc / 2 ^ w % 8
  let pinf := st.testBit 0
  let ninf := st.testBit 1
  if st.testBit 2 then (canonNaN t, 0)
  else if pinf && ninf then (canonNaN t, flNV)
  else if pinf then roundTo t (.inf false) rm r
  else if ninf then roundTo t (.inf true) rm r
  else roundTo t (Num.ofInt (toSigned w (acc % 2 ^ w)) (-(xaLsb x64 : Int)) false) rm r

/-- Limb `k` of SUM (R197). -/
def xwLimb (sum k : Nat) : Nat := sum / 2 ^ (16 * k) % 65536

/-- The lowest nonzero limb, 0 when SUM is 0 (R198). -/
def xwStart (sum : Nat) : Nat := ((List.range 30).find? (fun k => xwLimb sum k != 0)).getD 0

/-- The top limb of the canonical record (R198). -/
def xwTop (sum start : Nat) : Nat :=
  ((List.range 30).find? (fun t => decide (start ≤ t) &&
    (List.range 30).all (fun k => k ≤ t ||
      xwLimb sum k == (if (xwLimb sum t).testBit 15 then 65535 else 0)))).getD 29

/-- The canonical record of an XA32 accumulator, as its bytes (R197, R198). -/
def xwEncode (acc : Nat) : List Nat :=
  let st := acc / 2 ^ 480 % 8
  if st != 0 then [30 * 8 + st]
  else
    let sum := acc % 2 ^ 480
    let s := xwStart sum
    let n := xwTop sum s - s + 1
    let n' := if n ≤ 7 then n else 30 - s
    (s * 8 + (if n ≤ 7 then n - 1 else 7)) ::
      (List.range n').flatMap (fun i => [xwLimb sum (s + i) % 256, xwLimb sum (s + i) / 256])

/-- The accumulator a record rebuilds and the bytes after it; none for a reserved or overlong record (R198). -/
def xwDecode (l : List Nat) : Option (Nat × List Nat) :=
  match l with
  | [] => none
  | h :: rest =>
    let s := h / 8 % 32
    let c := h % 8
    if s == 31 then none
    else if s == 30 then some (2 ^ 480 * c, rest)
    else
      let n := if c ≤ 6 then c + 1 else 30 - s
      if 30 < s + n || rest.length < 2 * n then none
      else
        let v := packBits 8 (rest.take (2 * n))
        let top := v.testBit (16 * n - 1)
        let fill := if top then 2 ^ 480 - 2 ^ (16 * (s + n)) else 0
        some ((v * 2 ^ (16 * s) + fill) % 2 ^ 480, rest.drop (2 * n))

/-- The constants K of R226. -/
def mixK : Nat → Word
  | 0 => 0x5D1AC8E30F72B946 | 1 => 0xA37F0B5CD28461E9 | 2 => 0x19E476D23BA8C05F
  | 3 => 0xE6C25F189A03D74B | 4 => 0x7B09E4A6C15D328F | _ => 0xC4582D9706EBF1A3

/-- The constants Q of R226. -/
def mixQ (i : Nat) : Word := if i % 2 == 0 then 0x8F3A5C21E6D794B5 else 0xB2C714E93F5A8D2B

/-- One round of R226. -/
def mixRound (key : Word) (x : Word) (i : Nat) : Word :=
  let x := x + key + mixK i
  let x := x ^^^ (x >>> 31)
  let x := x * mixQ i
  x ^^^ (x >>> 27)

/-- Mix(key, ctr) (R226). -/
def mix (key ctr : Word) : Word := (List.range 6).foldl (mixRound key) ctr

end Sys2Proof
end

