-- ==== Sys2Proof/Decode.lean ====
section
/-! DEFINITION. The decoder, total on any 96-bit word and any bytes, and the encoder, both from R36, R37, R41, R66
and R67. A word whose OP and FN are not assigned decodes to the step that raises ILLOP; a word of an assigned
pair whose format is not sound has no instruction, and its ILLOP is raised where it issues. -/

namespace Sys2Proof

/-- The class of a code of R42. -/
def Cls.ofCode : Nat → Option Cls
  | 0 => some .s | 1 => some .v | 2 => some .p | 3 => some .k | 4 => some .a | 5 => some .c
  | _ => none

/-- The code of a class (R42). -/
def Cls.code : Cls → Nat
  | .s => 0 | .v => 1 | .p => 2 | .k => 3 | .a => 4 | .c => 5

/-- The 24 bits of a field (R41). -/
def Operand.enc : Operand → Nat
  | .reg c m i => c.code * 524288 + m.toNat * 4096 + i.toNat
  | .imm v => 4194304 + v.toNat
  | .limm v => 8388608 + v.toNat
  | .none m => 12582912 + m.toNat * 4096

/-- The field that 24 bits name, if they name one (R41, R42). -/
def Operand.dec (n : Nat) : Option Operand :=
  match n / 4194304 % 4 with
  | 0 => (Cls.ofCode (n / 524288 % 8)).map
      (fun c => .reg c (BitVec.ofNat 7 (n / 4096 % 128)) (BitVec.ofNat 12 (n % 4096)))
  | 1 => some (.imm (BitVec.ofNat 22 (n % 4194304)))
  | 2 => some (.limm (BitVec.ofNat 22 (n % 4194304)))
  | _ => if n / 524288 % 8 == 0 && n % 4096 == 0 then some (.none (BitVec.ofNat 7 (n / 4096 % 128))) else Option.none

/-- The 82 bits below FN (R36). -/
def Args.enc (x : Args) : Nat :=
  (if x.neg then 1 else 0) * 2 ^ 81 + x.g.toNat * 2 ^ 78 + (if x.j then 1 else 0) * 2 ^ 77
  + (if x.d then 1 else 0) * 2 ^ 76 + x.bud.toNat * 2 ^ 72 + x.a.enc * 2 ^ 48 + x.b.enc * 2 ^ 24 + x.c.enc

/-- The operands that 82 bits name, if each field names one. -/
def Args.dec (n : Nat) : Option Args :=
  match Operand.dec (n / 2 ^ 48 % 2 ^ 24), Operand.dec (n / 2 ^ 24 % 2 ^ 24), Operand.dec (n % 2 ^ 24) with
  | some a, some b, some c =>
    some { neg := n / 2 ^ 81 % 2 == 1, g := BitVec.ofNat 3 (n / 2 ^ 78 % 8), j := n / 2 ^ 77 % 2 == 1,
           d := n / 2 ^ 76 % 2 == 1, bud := BitVec.ofNat 4 (n / 2 ^ 72 % 16), a := a, b := b, c := c }
  | _, _, _ => none


/-- The instruction of an OP and FN pair, if R66 assigns it; the `.g` forms are told by F (R304). -/
def instrOf (op fn : Nat) (x : Args) : Option Instr :=
  match op with
  | 0x00 => match fn with
    | 0 => some (.nop x)
    | 1 => some (.trap x)
    | _ => none
  | 0x01 => match fn with
    | 0 => some (.csrr x)
    | 1 => some (.csrw x)
    | 2 => some (.csrx x)
    | _ => none
  | 0x02 => match fn with
    | 0 => some (.slotr x)
    | 1 => some (.slotw x)
    | 2 => some (.slotgo x)
    | 3 => some (.slotstop x)
    | _ => none
  | 0x03 => match fn with
    | 0 => some (.tlbi x)
    | _ => none
  | 0x04 => match fn with
    | 0 => some (.camw x)
    | 1 => some (.camsw x)
    | _ => none
  | 0x10 => match fn with
    | 0 => some (.add x)
    | 1 => some (.sub x)
    | 2 => some (.mul x)
    | 3 => some (.mulh x)
    | 4 => some (.mulhn x)
    | 5 => some (.div x)
    | 6 => some (.divn x)
    | 7 => some (.rem x)
    | 8 => some (.remn x)
    | 9 => some (.and x)
    | 10 => some (.or x)
    | 11 => some (.xor x)
    | 12 => some (.andn x)
    | 13 => some (.orn x)
    | 14 => some (.shl x)
    | 15 => some (.shr x)
    | 16 => some (.sra x)
    | 17 => some (.rol x)
    | 18 => some (.min x)
    | 19 => some (.minn x)
    | 20 => some (.max x)
    | 21 => some (.maxn x)
    | _ => none
  | 0x11 => match fn with
    | 0 => some (.clz x)
    | 1 => some (.ctz x)
    | 2 => some (.popc x)
    | 3 => some (.bfx x)
    | 4 => some (.bfxn x)
    | 5 => some (.bfi x)
    | _ => none
  | 0x12 => match fn with
    | 0 => some (.cmpEq x)
    | 1 => some (.cmpNe x)
    | 2 => some (.cmpLt x)
    | 3 => some (.cmpLe x)
    | 4 => some (.cmpLtn x)
    | 5 => some (.cmpLen x)
    | _ => none
  | 0x13 => match fn with
    | 0 => some (.sel x)
    | 1 => some (.mov x)
    | _ => none
  | 0x18 => match fn with
    | 0 => some (.li x)
    | 1 => some (.lih x)
    | _ => none
  | 0x20 => match fn with
    | 0 => some (.fadd x)
    | 1 => some (.fsub x)
    | 2 => some (.fmul x)
    | 3 => some (.ffma x)
    | 4 => some (.fdiv x)
    | 5 => some (.fsqrt x)
    | 6 => some (.fmin x)
    | 7 => some (.fmax x)
    | _ => none
  | 0x21 => match fn with
    | 0 => some (.fcvt x)
    | 1 => some (.fclass x)
    | _ => none
  | 0x22 => match fn with
    | 0 => some (.fcmpEq x)
    | 1 => some (.fcmpNe x)
    | 2 => some (.fcmpLt x)
    | 3 => some (.fcmpLe x)
    | 4 => some (.fcmpUn x)
    | _ => none
  | 0x28 => match fn with
    | 0 => some (.pand x)
    | 1 => some (.por x)
    | 2 => some (.pxor x)
    | 3 => some (.pnot x)
    | 4 => some (.pmov x)
    | _ => none
  | 0x30 => match fn with
    | 0 => some (.br x)
    | 1 => some (.bri x)
    | 2 => some (.call x)
    | 3 => some (.calli x)
    | 4 => some (.ret x)
    | 5 => some (.dbr x)
    | 6 => some (.exit x)
    | _ => none
  | 0x40 => match fn with
    | 0 => some (.vadd x)
    | 1 => some (.vsub x)
    | 2 => some (.vmul x)
    | 3 => some (.vfma x)
    | 4 => some (.vfms x)
    | 5 => some (.vmin x)
    | 6 => some (.vmax x)
    | 7 => some (.vabs x)
    | 8 => some (.vneg x)
    | _ => none
  | 0x41 => match fn with
    | 0 => some (.vand x)
    | 1 => some (.vor x)
    | 2 => some (.vxor x)
    | 3 => some (.vshl x)
    | 4 => some (.vshr x)
    | 5 => some (.vsra x)
    | _ => none
  | 0x42 => match fn with
    | 0 => some (.vcmpEq x)
    | 1 => some (.vcmpNe x)
    | 2 => some (.vcmpLt x)
    | 3 => some (.vcmpLe x)
    | 4 => some (.vcmpLtn x)
    | 5 => some (.vcmpLen x)
    | 6 => some (.vcmpUn x)
    | _ => none
  | 0x43 => match fn with
    | 0 => some (.vsel x)
    | 1 => some (.vperm x)
    | 2 => some (.vbcast x)
    | 3 => some (.vslide x)
    | 4 => some (.vmovs x)
    | 5 => some (.vins x)
    | _ => none
  | 0x44 => match fn with
    | 0 => some (.vexp2 x)
    | 1 => some (.vlog2 x)
    | 2 => some (.vrcp x)
    | 3 => some (.vrsq x)
    | _ => none
  | 0x45 => match fn with
    | 0 => some (.vredXsum x)
    | 1 => some (.vredMin x)
    | 2 => some (.vredMax x)
    | 3 => some (.vredAdd x)
    | 8 => some (.vdot x)
    | _ => none
  | 0x48 => match fn with
    | 0 => some (.kand x)
    | 1 => some (.kor x)
    | 2 => some (.knot x)
    | 3 => some (.kpop x)
    | _ => none
  | 0x50 => match fn with
    | 0 => some (.vcvt x)
    | 1 => some (.vpack x)
    | 2 => some (.vunpack x)
    | _ => none
  | 0x51 => match fn with
    | 0 => some (.xacc x)
    | 1 => some (.xrnd x)
    | 2 => some (.xclr x)
    | _ => none
  | 0x52 => match fn with
    | 0 => some (.rmix x)
    | 1 => some (.vrmix x)
    | _ => none
  | 0x60 => match fn with
    | 0 => some (.ldg x)
    | 1 => some (.stg x)
    | _ => none
  | 0x61 => match fn with
    | 0 => some (.vldg x)
    | 1 => some (.vstg x)
    | 2 => some (.vgthg x)
    | 3 => some (.vsctg x)
    | _ => none
  | 0x62 => match fn with
    | 0 => some (.pfg x)
    | 1 => some (.clg x)
    | _ => none
  | 0x63 => match fn with
    | 0 => some (.tldg x)
    | 1 => some (.tstg x)
    | 2 => some (.tldgAon x)
    | 3 => some (.tstgAon x)
    | _ => none
  | 0x70 => match fn with
    | 0 => some (.ldp x)
    | 1 => some (.stp x)
    | 2 => some (.vldp x)
    | 3 => some (.vstp x)
    | _ => none
  | 0x71 => match fn with
    | 0 => some (.blkld x)
    | 1 => some (.blkst x)
    | _ => none
  | 0x72 => match fn with
    | 0 => some (if x.f == 1 then .fillG x else .fill x)
    | 1 => some (if x.f == 1 then .emptyG x else .empty x)
    | 2 => some (if x.f == 1 then .peekG x else .peek x)
    | _ => none
  | 0x74 => match fn with
    | 0 => some (.ldc x)
    | 1 => some (.stc x)
    | 2 => some (.vldc x)
    | 3 => some (.vstc x)
    | _ => none
  | 0x80 => match fn with
    | 0 => some (.amogAdd x)
    | 1 => some (.amogAnd x)
    | 2 => some (.amogOr x)
    | 3 => some (.amogXor x)
    | 4 => some (.amogMin x)
    | 5 => some (.amogMax x)
    | 6 => some (.amogMinn x)
    | 7 => some (.amogMaxn x)
    | 8 => some (.amogSwap x)
    | 9 => some (.amogCas x)
    | 10 => some (.amogXadd32 x)
    | 11 => some (.amogXadd64 x)
    | _ => none
  | 0x81 => match fn with
    | 0 => some (.amopAdd x)
    | 1 => some (.amopAnd x)
    | 2 => some (.amopOr x)
    | 3 => some (.amopXor x)
    | 4 => some (.amopMin x)
    | 5 => some (.amopMax x)
    | 6 => some (.amopMinn x)
    | 7 => some (.amopMaxn x)
    | 8 => some (.amopSwap x)
    | 9 => some (.amopCas x)
    | 10 => some (.amopXadd32 x)
    | 11 => some (.amopXadd64 x)
    | _ => none
  | 0x82 => match fn with
    | 0 => some (.amocAdd x)
    | 1 => some (.amocAnd x)
    | 2 => some (.amocOr x)
    | 3 => some (.amocXor x)
    | 4 => some (.amocMin x)
    | 5 => some (.amocMax x)
    | 6 => some (.amocMinn x)
    | 7 => some (.amocMaxn x)
    | 8 => some (.amocSwap x)
    | 9 => some (.amocCas x)
    | 10 => some (.amocXadd32 x)
    | 11 => some (.amocXadd64 x)
    | _ => none
  | 0x90 => match fn with
    | 0 => some (.send x)
    | 1 => some (.sendl x)
    | _ => none
  | 0x91 => match fn with
    | 0 => some (.recvMb x)
    | 1 => some (if x.f == 1 then .recvFeG x else .recvFe x)
    | 2 => some (.recvJob x)
    | 3 => some (.recvChk x)
    | 4 => some (.recvWork x)
    | 5 => some (.recvBar x)
    | 8 => some (.probe x)
    | _ => none
  | 0x92 => match fn with
    | 0 => some (.bind x)
    | 1 => some (.unbind x)
    | _ => none
  | 0x93 => match fn with
    | 0 => some (.bar x)
    | 1 => some (.fence x)
    | _ => none
  | 0x94 => match fn with
    | 0 => some (.spawn x)
    | 1 => some (.launch x)
    | _ => none
  | 0xA0 => match fn with
    | 0 => some (.cfetch x)
    | 1 => some (.cstore x)
    | 2 => some (.cpush x)
    | 3 => some (.cmcast x)
    | _ => none
  | 0xB0 => match fn with
    | 0 => some (.mshape x)
    | 1 => some (.mma x)
    | 2 => some (.mcommit x)
    | 3 => some (.mzero x)
    | 4 => some (.mld x)
    | 5 => some (.mst x)
    | _ => none
  | 0xC0 => match fn with
    | 0 => some (.cgload x)
    | 1 => some (.cgrun x)
    | 2 => some (.cgrunAt x)
    | 3 => some (.cgstat x)
    | _ => none
  | 0xC1 => match fn with
    | 0 => some (.cbq x)
    | 1 => some (.cbres x)
    | 2 => some (.cbput x)
    | 3 => some (.cbstat x)
    | _ => none
  | 0xD0 => match fn with
    | 0 => some (.gadd x)
    | 1 => some (.gelim x)
    | 2 => some (.gdamp x)
    | 3 => some (.gsolve x)
    | 4 => some (.gres x)
    | _ => none
  | _ => none

/-- OP, FN and operands of an instruction that has a word; none for an event (R66). -/
def Instr.opFn : Instr → Option (Nat × Nat × Args)
  | .nop x => some (0x00, 0, x)
  | .trap x => some (0x00, 1, x)
  | .csrr x => some (0x01, 0, x)
  | .csrw x => some (0x01, 1, x)
  | .csrx x => some (0x01, 2, x)
  | .slotr x => some (0x02, 0, x)
  | .slotw x => some (0x02, 1, x)
  | .slotgo x => some (0x02, 2, x)
  | .slotstop x => some (0x02, 3, x)
  | .tlbi x => some (0x03, 0, x)
  | .camw x => some (0x04, 0, x)
  | .camsw x => some (0x04, 1, x)
  | .unassignedOpcode _ => none
  | .add x => some (0x10, 0, x)
  | .sub x => some (0x10, 1, x)
  | .mul x => some (0x10, 2, x)
  | .mulh x => some (0x10, 3, x)
  | .mulhn x => some (0x10, 4, x)
  | .div x => some (0x10, 5, x)
  | .divn x => some (0x10, 6, x)
  | .rem x => some (0x10, 7, x)
  | .remn x => some (0x10, 8, x)
  | .and x => some (0x10, 9, x)
  | .or x => some (0x10, 10, x)
  | .xor x => some (0x10, 11, x)
  | .andn x => some (0x10, 12, x)
  | .orn x => some (0x10, 13, x)
  | .shl x => some (0x10, 14, x)
  | .shr x => some (0x10, 15, x)
  | .sra x => some (0x10, 16, x)
  | .rol x => some (0x10, 17, x)
  | .min x => some (0x10, 18, x)
  | .minn x => some (0x10, 19, x)
  | .max x => some (0x10, 20, x)
  | .maxn x => some (0x10, 21, x)
  | .clz x => some (0x11, 0, x)
  | .ctz x => some (0x11, 1, x)
  | .popc x => some (0x11, 2, x)
  | .bfx x => some (0x11, 3, x)
  | .bfxn x => some (0x11, 4, x)
  | .bfi x => some (0x11, 5, x)
  | .cmpEq x => some (0x12, 0, x)
  | .cmpNe x => some (0x12, 1, x)
  | .cmpLt x => some (0x12, 2, x)
  | .cmpLe x => some (0x12, 3, x)
  | .cmpLtn x => some (0x12, 4, x)
  | .cmpLen x => some (0x12, 5, x)
  | .sel x => some (0x13, 0, x)
  | .mov x => some (0x13, 1, x)
  | .li x => some (0x18, 0, x)
  | .lih x => some (0x18, 1, x)
  | .fadd x => some (0x20, 0, x)
  | .fsub x => some (0x20, 1, x)
  | .fmul x => some (0x20, 2, x)
  | .ffma x => some (0x20, 3, x)
  | .fdiv x => some (0x20, 4, x)
  | .fsqrt x => some (0x20, 5, x)
  | .fmin x => some (0x20, 6, x)
  | .fmax x => some (0x20, 7, x)
  | .fcvt x => some (0x21, 0, x)
  | .fclass x => some (0x21, 1, x)
  | .fcmpEq x => some (0x22, 0, x)
  | .fcmpNe x => some (0x22, 1, x)
  | .fcmpLt x => some (0x22, 2, x)
  | .fcmpLe x => some (0x22, 3, x)
  | .fcmpUn x => some (0x22, 4, x)
  | .pand x => some (0x28, 0, x)
  | .por x => some (0x28, 1, x)
  | .pxor x => some (0x28, 2, x)
  | .pnot x => some (0x28, 3, x)
  | .pmov x => some (0x28, 4, x)
  | .br x => some (0x30, 0, x)
  | .bri x => some (0x30, 1, x)
  | .call x => some (0x30, 2, x)
  | .calli x => some (0x30, 3, x)
  | .ret x => some (0x30, 4, x)
  | .dbr x => some (0x30, 5, x)
  | .exit x => some (0x30, 6, x)
  | .vadd x => some (0x40, 0, x)
  | .vsub x => some (0x40, 1, x)
  | .vmul x => some (0x40, 2, x)
  | .vfma x => some (0x40, 3, x)
  | .vfms x => some (0x40, 4, x)
  | .vmin x => some (0x40, 5, x)
  | .vmax x => some (0x40, 6, x)
  | .vabs x => some (0x40, 7, x)
  | .vneg x => some (0x40, 8, x)
  | .vand x => some (0x41, 0, x)
  | .vor x => some (0x41, 1, x)
  | .vxor x => some (0x41, 2, x)
  | .vshl x => some (0x41, 3, x)
  | .vshr x => some (0x41, 4, x)
  | .vsra x => some (0x41, 5, x)
  | .vcmpEq x => some (0x42, 0, x)
  | .vcmpNe x => some (0x42, 1, x)
  | .vcmpLt x => some (0x42, 2, x)
  | .vcmpLe x => some (0x42, 3, x)
  | .vcmpLtn x => some (0x42, 4, x)
  | .vcmpLen x => some (0x42, 5, x)
  | .vcmpUn x => some (0x42, 6, x)
  | .vsel x => some (0x43, 0, x)
  | .vperm x => some (0x43, 1, x)
  | .vbcast x => some (0x43, 2, x)
  | .vslide x => some (0x43, 3, x)
  | .vmovs x => some (0x43, 4, x)
  | .vins x => some (0x43, 5, x)
  | .vexp2 x => some (0x44, 0, x)
  | .vlog2 x => some (0x44, 1, x)
  | .vrcp x => some (0x44, 2, x)
  | .vrsq x => some (0x44, 3, x)
  | .vredXsum x => some (0x45, 0, x)
  | .vredMin x => some (0x45, 1, x)
  | .vredMax x => some (0x45, 2, x)
  | .vredAdd x => some (0x45, 3, x)
  | .vdot x => some (0x45, 8, x)
  | .kand x => some (0x48, 0, x)
  | .kor x => some (0x48, 1, x)
  | .knot x => some (0x48, 2, x)
  | .kpop x => some (0x48, 3, x)
  | .vcvt x => some (0x50, 0, x)
  | .vpack x => some (0x50, 1, x)
  | .vunpack x => some (0x50, 2, x)
  | .xacc x => some (0x51, 0, x)
  | .xrnd x => some (0x51, 1, x)
  | .xclr x => some (0x51, 2, x)
  | .rmix x => some (0x52, 0, x)
  | .vrmix x => some (0x52, 1, x)
  | .ldg x => some (0x60, 0, x)
  | .stg x => some (0x60, 1, x)
  | .vldg x => some (0x61, 0, x)
  | .vstg x => some (0x61, 1, x)
  | .vgthg x => some (0x61, 2, x)
  | .vsctg x => some (0x61, 3, x)
  | .pfg x => some (0x62, 0, x)
  | .clg x => some (0x62, 1, x)
  | .tldg x => some (0x63, 0, x)
  | .tstg x => some (0x63, 1, x)
  | .tldgAon x => some (0x63, 2, x)
  | .tstgAon x => some (0x63, 3, x)
  | .ldp x => some (0x70, 0, x)
  | .stp x => some (0x70, 1, x)
  | .vldp x => some (0x70, 2, x)
  | .vstp x => some (0x70, 3, x)
  | .blkld x => some (0x71, 0, x)
  | .blkst x => some (0x71, 1, x)
  | .fill x => some (0x72, 0, x)
  | .empty x => some (0x72, 1, x)
  | .peek x => some (0x72, 2, x)
  | .fillG x => some (0x72, 0, x)
  | .emptyG x => some (0x72, 1, x)
  | .peekG x => some (0x72, 2, x)
  | .ldc x => some (0x74, 0, x)
  | .stc x => some (0x74, 1, x)
  | .vldc x => some (0x74, 2, x)
  | .vstc x => some (0x74, 3, x)
  | .amogAdd x => some (0x80, 0, x)
  | .amogAnd x => some (0x80, 1, x)
  | .amogOr x => some (0x80, 2, x)
  | .amogXor x => some (0x80, 3, x)
  | .amogMin x => some (0x80, 4, x)
  | .amogMax x => some (0x80, 5, x)
  | .amogMinn x => some (0x80, 6, x)
  | .amogMaxn x => some (0x80, 7, x)
  | .amogSwap x => some (0x80, 8, x)
  | .amogCas x => some (0x80, 9, x)
  | .amogXadd32 x => some (0x80, 10, x)
  | .amogXadd64 x => some (0x80, 11, x)
  | .amopAdd x => some (0x81, 0, x)
  | .amopAnd x => some (0x81, 1, x)
  | .amopOr x => some (0x81, 2, x)
  | .amopXor x => some (0x81, 3, x)
  | .amopMin x => some (0x81, 4, x)
  | .amopMax x => some (0x81, 5, x)
  | .amopMinn x => some (0x81, 6, x)
  | .amopMaxn x => some (0x81, 7, x)
  | .amopSwap x => some (0x81, 8, x)
  | .amopCas x => some (0x81, 9, x)
  | .amopXadd32 x => some (0x81, 10, x)
  | .amopXadd64 x => some (0x81, 11, x)
  | .amocAdd x => some (0x82, 0, x)
  | .amocAnd x => some (0x82, 1, x)
  | .amocOr x => some (0x82, 2, x)
  | .amocXor x => some (0x82, 3, x)
  | .amocMin x => some (0x82, 4, x)
  | .amocMax x => some (0x82, 5, x)
  | .amocMinn x => some (0x82, 6, x)
  | .amocMaxn x => some (0x82, 7, x)
  | .amocSwap x => some (0x82, 8, x)
  | .amocCas x => some (0x82, 9, x)
  | .amocXadd32 x => some (0x82, 10, x)
  | .amocXadd64 x => some (0x82, 11, x)
  | .send x => some (0x90, 0, x)
  | .sendl x => some (0x90, 1, x)
  | .recvMb x => some (0x91, 0, x)
  | .recvFe x => some (0x91, 1, x)
  | .recvFeG x => some (0x91, 1, x)
  | .recvJob x => some (0x91, 2, x)
  | .recvChk x => some (0x91, 3, x)
  | .recvWork x => some (0x91, 4, x)
  | .recvBar x => some (0x91, 5, x)
  | .probe x => some (0x91, 8, x)
  | .bind x => some (0x92, 0, x)
  | .unbind x => some (0x92, 1, x)
  | .bar x => some (0x93, 0, x)
  | .fence x => some (0x93, 1, x)
  | .spawn x => some (0x94, 0, x)
  | .launch x => some (0x94, 1, x)
  | .cfetch x => some (0xA0, 0, x)
  | .cstore x => some (0xA0, 1, x)
  | .cpush x => some (0xA0, 2, x)
  | .cmcast x => some (0xA0, 3, x)
  | .mshape x => some (0xB0, 0, x)
  | .mma x => some (0xB0, 1, x)
  | .mcommit x => some (0xB0, 2, x)
  | .mzero x => some (0xB0, 3, x)
  | .mld x => some (0xB0, 4, x)
  | .mst x => some (0xB0, 5, x)
  | .cgload x => some (0xC0, 0, x)
  | .cgloadUnload x => some (0xC0, 0, x)
  | .cgrun x => some (0xC0, 1, x)
  | .cgrunAt x => some (0xC0, 2, x)
  | .cgstat x => some (0xC0, 3, x)
  | .cbq x => some (0xC1, 0, x)
  | .cbres x => some (0xC1, 1, x)
  | .cbput x => some (0xC1, 2, x)
  | .cbstat x => some (0xC1, 3, x)
  | .gadd x => some (0xD0, 0, x)
  | .gelim x => some (0xD0, 1, x)
  | .gdamp x => some (0xD0, 2, x)
  | .gsolve x => some (0xD0, 3, x)
  | .gres x => some (0xD0, 4, x)
  | .icacheMiss => none
  | .icacheFill => none
  | .tlbMissWalk => none
  | .walkAnswer => none
  | .walkRetry => none
  | .sliceServe => none
  | .missListRetry => none
  | .l2Fill => none
  | .llcAccess => none
  | .hbmFill => none
  | .writeBack => none
  | .readBudgetExpiry => none
  | .resultLands => none
  | .pondWordService => none
  | .blockTurn => none
  | .blockCommit => none
  | .bankRetireDecided => none
  | .sevenBankEntry => none
  | .clusterRetire => none
  | .camSwitch => none
  | .tldgAonRetry => none
  | .copyChunkReady => none
  | .chunkWrite => none
  | .copyLateFault => none
  | .copyComplete => none
  | .batchRegister => none
  | .engineStep => none
  | .engineStepEnd => none
  | .batchComplete => none
  | .flitHop => none
  | .crewAccessArrive => none
  | .crewResponse => none
  | .messageDelivery => none
  | .heldMessageRetry => none
  | .sendStatus => none
  | .dispenserHandout => none
  | .barrierArrival => none
  | .barrierComplete => none
  | .feHomeServe => none
  | .feTableRetry => none
  | .migrationStart => none
  | .migrationQueueServe => none
  | .migrationArrive => none
  | .lateFault => none
  | .trapForward => none
  | .launchRecord => none
  | .dispatch => none
  | .taskStart => none
  | .taskEnd => none
  | .launchNotice => none
  | .create => none
  | .destroy => none
  | .loadkey => none
  | .quote => none
  | .preempt => none
  | .switchout => none
  | .switchin => none
  | .resume => none
  | .handler => none
  | .kill => none
  | .budget => none
  | .vacate => none
  | .restore => none
  | .sliceExpiry => none
  | .waitBudgetExpiry => none
  | .featherWindowEnd => none
  | .machineCheck => none
  | .enumTableUpdate => none
  | .freeze => none
  | .reset => none
  | .boot => none
  | .fabricReplay => none
  | .hostMemoryRequest => none
  | .windowAccess => none
  | .skyclockDiscipline => none
  | .formatWindowWrite => none
  | .combineControlServe => none
  | .cbputDeposit => none
  | .combineDeadline => none
  | .combineRelease => none
  | .graphImageLoaded => none
  | .runStartTime => none
  | .nodeComplete => none
  | .runEnd => none
  | .inSwitchMerge => none
  | .tlbiComplete => none
  | .managementPathRead => none
  | .authenticatedSession => none
  | .supervisorRestart => none

/-- Whether R66 assigns the pair. -/
def assigned (op fn : Nat) : Bool :=
  (instrOf op fn { neg := false, g := 0, j := false, d := false, bud := 0, a := .none 0, b := .none 0, c := .none 0 }).isSome

/-- The word of OP, FN and operands (R36). -/
def encWord (op fn : Nat) (x : Args) : BitVec 96 := BitVec.ofNat 96 (op * 2 ^ 88 + fn * 2 ^ 82 + x.enc)

/-- The word of an instruction; none for an event, which has no word. -/
def encode (i : Instr) : Option (BitVec 96) :=
  match i with
  | .unassignedOpcode w => some w
  | i => i.opFn.map (fun t => encWord t.1 t.2.1 t.2.2)

/-- OP of a word (R36). -/
def opOf (w : BitVec 96) : Nat := w.toNat / 2 ^ 88
/-- FN of a word (R36). -/
def fnOf (w : BitVec 96) : Nat := w.toNat / 2 ^ 82 % 64

/-- The instruction of a word: checks 1 (but for the feature bits, which are the context's) and 2 of R47. -/
def decode (w : BitVec 96) : Option Instr :=
  if assigned (opOf w) (fnOf w) then
    match Args.dec (w.toNat % 2 ^ 82) with
    | some x => if formatOk (opOf w) (fnOf w) x then instrOf (opOf w) (fnOf w) x else none
    | none => none
  else some (.unassignedOpcode w)

/-- The word that 12 bytes hold, least significant byte first (R37); a missing byte reads 0. -/
def wordOfBytes (l : List Byte) : BitVec 96 :=
  BitVec.ofNat 96 ((l.take 12).foldr (fun b n => b.toNat + 256 * n) 0)

/-- The 12 bytes of a word, least significant first (R37). -/
def bytesOfWord (w : BitVec 96) : List Byte :=
  (List.range 12).map (fun i => BitVec.ofNat 8 (w.toNat / 2 ^ (8 * i) % 256))

/-- The instruction at the head of a list of bytes, and the bytes after it. -/
def decodeBytes (l : List Byte) : Option (Instr × List Byte) :=
  if l.length < 12 then none else (decode (wordOfBytes l)).map (fun i => (i, l.drop 12))

/-- The instruction of the table's word: `w` laid out as the hardware stores it and given to the decoder; every
instruction is one 96-bit word, whatever `nbits` says. -/
def decodeTableWord (nbits w : Nat) : Option Instr :=
  (decodeBytes (bytesOfWord (BitVec.ofNat 96 (w % 2 ^ min nbits 96)))).map (·.1)

end Sys2Proof
end

