-- ==== Sys2Proof/Machine/State.lean ====
section
/-! DEFINITION. The state of the part, as plain data: every slot, core, cluster, mill, die and slice, the millrace,
memory, the launches and sessions, and the agenda of the steps that are due; with the state after reset. A unit is
a number: a slot is its global slot id (R27), a core the id without its low 4 bits, a cluster without 7, a mill
without 9 (die and logical mill), a die without 15. -/

namespace Sys2Proof.Machine

open Sys2Proof

/-- Memory: bytes by address, ascending, without the value 0 that an unlisted address reads as. -/
abbrev Memory := List Host.Cell

/-- A message header and payload (R280, R281). `src0` and `slots` of the thread allow a bounce to be answered. -/
structure Msg where
  hdr : Word := 0
  /-- payload bytes 0 to 119, byte 0 lowest -/
  pay : BitVec 960 := 0
  /-- the number of the message, in order of sending -/
  uid : Nat := 0
  /-- the bytes of the range that a kind-7 message names, as its release wrote it (R401) -/
  span : Nat := 0
  deriving DecidableEq, Repr

/-- Where a message goes. -/
inductive Dest where
  /-- a slot of this package -/
  | slot (g : Nat)
  /-- the dispenser queue of a cluster (kind 1) -/
  | dispenser (cluster : Nat)
  /-- a dispatcher context mailbox -/
  | dispatcher (die ctx : Nat)
  /-- the mailbox of a host node, or of a slot of a peer package, over the fabric -/
  | fabric (node box : Nat)
  /-- the dispatcher's log -/
  | log (die : Nat)
  deriving DecidableEq, Repr

/-- A message that a unit or a thread has sent and that has not been delivered. -/
structure Sent where
  msg : Msg := {}
  dest : Dest := .log 0
  /-- the slot and the entry that await a status, if any -/
  reply : Option (Nat × Nat) := none
  /-- the thread whose slot it goes to, if it goes to one: of a job, a copy or a `tlbi`, or of a launch for its notice (R360) -/
  thread : Nat := 0
  /-- the launch and task of a spawner (R317) -/
  launch : Nat := 0
  task : Nat := 0
  /-- the thread that sends it, whose messages to one mailbox keep their order (R284), 0 for a unit; and its stage: 0 awaits
  its write-backs, 1 awaits an earlier message, 2 has left the core -/
  by_ : Nat := 0
  stage : Nat := 0
  /-- the delivery cycle of a message on the fabric -/
  dueAt : Nat := 0
  /-- the node of a peer or host that sent it, and the number its answer carries (R284) -/
  peer : Option (Nat × Nat) := none
  deriving DecidableEq, Repr

/-- What an access does. -/
inductive AccKind where
  | load | store | prefetch (scope : Nat) | clean (scope : Nat)
  | atomic (form : Nat) | fill | empty | peek | take | chk
  | blkLoad | blkStore | xacc | xrnd | xclr | deposit
  | tileLoad (aon : Bool) | tileStore
  /-- a chunk of a copy command, written to the pond, or read from it: the command in `aux`, the chunk in `ty` -/
  | chunkStore | chunkLoad
  /-- the clean of a launch record, whose message in `aux` then leaves (R318) -/
  | launchRec
  /-- a request to the combine control, kept in `aux` for a replay -/
  | control
  /-- the table access of a `bind` (0) or an `unbind` (1) whose page has failed, its four values in the data (R307, R308) -/
  | bind (op : Nat)
  deriving DecidableEq, Repr

/-- A table access of `bind` or `unbind`. -/
def AccKind.isBind : AccKind → Bool
  | .bind _ => true
  | _ => false

/-- The space of an access (R98). -/
inductive Space where
  | glob | pond | crew
  deriving DecidableEq, Repr

/-- One element of an access: its address, its bytes, and the bit of the data where it stands. -/
structure Elem where
  addr : Nat
  n : Nat
  bit : Nat
  deriving DecidableEq, Repr

/-- An access of a thread, as it stands at issue: everything needed to send it, and to send it again. -/
structure Access where
  kind : AccKind := .load
  space : Space := .glob
  slot : Nat := 0
  /-- the number of the access; its return-buffer entry or fault record has the same -/
  uid : Nat := 0
  /-- index of the instruction -/
  ix : Nat := 0
  /-- issue cycle -/
  at_ : Nat := 0
  /-- T of the instruction -/
  ty : Nat := 0
  rm : Nat := 0
  /-- address of the access (virtual, pond offset or crew address) -/
  addr : Nat := 0
  elems : List Elem := []
  /-- bytes from `addr` whose lines the access touches, active or not; 0 where the elements alone say so -/
  span : Nat := 0
  /-- data stored, operands of an atomic in the low bits (value, then new value) -/
  data : VPair := 0
  /-- stripe mask, lane mask, or chunk mask -/
  mask : Word := 0
  bud : Nat := 0
  d : Bool := false
  /-- coprocessor sequence number, where the instruction has one -/
  seq : Option Nat := none
  /-- the context and the thread that issued it (R18) -/
  ctx : Nat := 0
  thread : Nat := 0
  /-- of an access issued again, the number under which it first issued (R19, R383) -/
  ord : Nat := 0
  /-- further operand: pond offset of a tile, handle of a deposit -/
  aux : Nat := 0
  deriving DecidableEq, Repr

/-- One register that a buffered result writes, under a bit mask. -/
structure RegW where
  cls : Cls
  idx : Nat
  val : VReg
  mask : VReg
  deriving DecidableEq, Repr

/-- What an entry of the return buffer waits for. -/
inductive EForm where
  | access
  | mb (filter : Option Nat) | job (id : Nat) | fe | feG | chk (mask : Word) | work | bar (key gen : Nat)
  | status | engine
  deriving DecidableEq, Repr

/-- An entry of a slot's return buffer, or the fault record of a store (R13, R128). -/
structure Entry where
  uid : Nat
  /-- index of the instruction -/
  ix : Nat := 0
  form : EForm := .access
  writes : List RegW := []
  /-- parts that have not landed -/
  left : Nat := 1
  landed : Bool := false
  /-- a recv that has claimed its message or condition -/
  claimed : Bool := false
  /-- fault code and detail -/
  fault : Option (Nat × Nat) := none
  /-- flags that enter FPFLAGS when a marker writes the entry (R223) -/
  flags : Nat := 0
  /-- a fault record: it takes no entry (R128) -/
  isRec : Bool := false
  /-- the type whose sign extension a loaded scalar takes -/
  ext : Nat := 0
  /-- the job whose completion this entry received (R242) -/
  job : Option Nat := none
  /-- ring sequence number of the instruction, if it has one -/
  seq : Option Nat := none
  /-- the access, for a replay -/
  acc : Option Access := none
  /-- ranges that an acquire invalidates before the entry lands, and those of them at PKG or POD scope -/
  acq : List (Nat × Nat) := []
  acqWide : List (Nat × Nat) := []
  /-- the tag bindings read at issue: tag, start, length, scope (R307, R310) -/
  binds : List (Nat × Nat × Nat × Nat) := []
  deriving DecidableEq, Repr

/-- An entry of the coprocessor ring (R372). -/
structure RingEntry where
  seq : Nat
  ix : Nat
  op : Nat
  fn : Nat
  done : Bool := false
  flt : Bool := false
  code : Nat := 0
  flags : Nat := 0
  deriving DecidableEq, Repr

/-- Why a slot is parked (R11); `firmware` is a supervisor slot in which firmware awaits its cluster's faults (R28). -/
inductive Park where
  | firmware | marker | recvWork | pondQueue | scoreboard | fetch | staging | copyRoom | migration | late
  deriving DecidableEq, Repr

/-- The state of a slot (R11, R383). -/
inductive SlotSt where
  | empty
  | running
  | parked (why : Park)
  | stopped (code : Nat)
  | halted
  /-- the source slot kept for a migrated thread (R73) -/
  | forwarding
  /-- a destination slot reserved for a migrating thread (R71) -/
  | reserved
  /-- the thread stands in the migration queue or is in transfer (R72) -/
  | migrating
  deriving DecidableEq, Repr

/-- An access not yet performed, for fences and barriers (R315, R316). -/
structure Pending where
  uid : Nat
  space : Space
  atomic : Bool
  /-- parts not yet performed -/
  left : Nat
  /-- a `clg`, which later atomics and fences await (R130) -/
  clean : Bool := false
  /-- the ring entry that is done once the access has been performed (R372) -/
  seq : Option Nat := none
  /-- the thread that issued it has left the slot -/
  old : Bool := false
  /-- the access, and whether it left the core that the thread ran on before a migration or a restore (R110, R339) -/
  acc : Access := {}
  moved : Bool := false
  deriving DecidableEq, Repr

/-- A join: a continuation that goes on once all of its write-backs have been performed. A release or an acquire
is one with two stages (R309, R310). -/
structure Join where
  left : Nat := 0
  /-- 0 the walk of the L1, 1 the walk of the slices, 2 write-backs only -/
  stage : Nat := 0
  ctx : Nat := 0
  core : Nat := 0
  /-- virtual ranges of the first stage: start and length -/
  ranges : List (Nat × Nat) := []
  /-- ranges whose scope is PKG or POD, for the second stage -/
  wide : List (Nat × Nat) := []
  /-- what is still to be translated of the ranges, and of the wide ones; and the physical ranges found (R309) -/
  todo : List (Nat × Nat) := []
  todoWide : List (Nat × Nat) := []
  phys : List (Nat × Nat) := []
  physWide : List (Nat × Nat) := []
  /-- an acquire: the lines are removed as well -/
  inval : Bool := false
  /-- then: accesses of a slot that are held on a number leave, an entry lands, a message is sent, a command goes on -/
  token : Option (Nat × Nat) := none
  land : Option (Nat × Nat) := none
  sent : Option Nat := none
  copy : Option Nat := none
  tile : Option Nat := none
  deriving DecidableEq, Repr

/-- An access held inside the core: behind a fence, with the accesses the fence awaits (R316). -/
structure Held where
  acc : Access
  waits : List Nat
  /-- a release that starts once the fences before it are satisfied, and that the access then awaits (R309, R316) -/
  rel : Option Join := none
  deriving DecidableEq, Repr

/-- An access whose lines leave the core on consecutive cycles (R126): those that have not left, each with its virtual line, its
physical address, its attribute and its elements. -/
structure Sending where
  acc : Access
  lines : List (Nat × Nat × Nat × List Elem)
  deriving DecidableEq, Repr

/-- A store to lines of code that are not written at once, until every instruction cache has them as it leaves them (R38): each line with
its bytes before the store and the bytes that the store writes; the dies at whose homes it is whole; and the lines, each with its cluster,
that were cached before it was. -/
structure CodeStore where
  lines : List (Nat × Line × BitVec 64) := []
  whole : List Nat := []
  stale : List (Nat × Nat) := []
  deriving DecidableEq, Repr

/-- A thread slot (R11, R21). -/
structure Slot where
  st : SlotSt := .empty
  pc : BitVec 32 := 0
  s : Tab Word := []
  v : Tab VReg := []
  p : BitVec 8 := 0
  k : Tab Word := []
  fpctl : Word := 0
  fpflags : Word := 0
  copseq : BitVec 32 := 0
  /-- LATEPEND: code and sequence number of the earliest pending late fault -/
  late : Option (Nat × Nat) := none
  /-- the last cycle at which a late fault of a vector instruction can still arrive (R71, R206) -/
  lateDue : Nat := 0
  ring : List RingEntry := []
  rb : List Entry := []
  mbox : List Msg := []
  /-- the cycle of the latest delivery (R284); the cycle of the latest claims and the entries they free on the next -/
  lastDeliv : Option Nat := none
  freed : Nat × Nat := (0, 0)
  /-- the slot's next issue cycle -/
  due : Option Nat := none
  /-- the thread: a number of its own, its launch, its task -/
  thread : Nat := 0
  launch : Nat := 0
  task : Nat := 0
  /-- generation awaited at each barrier the thread has arrived at (R34) -/
  gens : Tab Nat := []
  open_ : List Pending := []
  /-- the cycle at which the latest earlier pond, crew or atomic access was performed -/
  lastPerf : Nat := 0
  /-- the accesses that fences of the thread still await -/
  fence : List Nat := []
  held : List Held := []
  /-- the accesses of which lines are still to leave (R126, R127) -/
  sending : List Sending := []
  /-- the cycle at which it parked, for the snapshot (R368) -/
  parkedAt : Nat := 0
  /-- the message of the fault that stopped it, which a restore sends again (R375) -/
  trapped : Option Msg := none
  /-- late faults held while the thread migrates: code, sequence number, detail (R75) -/
  heldLate : List (Nat × Nat × Nat) := []
  /-- the write-backs of its former core that a moved thread awaits (R339) -/
  flush : Option Nat := none
  /-- a forwarding slot's thread is here; a migrated thread came from there -/
  link : Option Nat := none
  /-- a fault found by a fetch, raised at the next turn: its code and the 64 KiB block (R38); or a register-parity
  error that the next instruction meets (R377) -/
  fetchFault : Option (Nat × Nat) := none
  /-- the line that the latest word was taken from (R436) -/
  lastLine : Option Nat := none
  /-- CAMIN.SEL of a supervisor slot (R144) -/
  camSel : Nat := 0
  deriving DecidableEq, Repr

/-- An accumulator (R232). -/
structure Acc where
  m : Nat := 64
  n : Nat := 128
  k : Nat := 8
  t : Nat := 12
  t2 : Nat := 12
  scaled : Bool := false
  elems : Tab Word := []
  /-- held by an mld or mst (R245) -/
  busy : Bool := false
  deriving DecidableEq, Repr

/-- A staged step of the matrix engine (R237). -/
structure EStep where
  slot : Nat
  acc : Nat
  m : Nat
  n : Nat
  k : Nat
  t : Nat
  t2 : Nat
  scaled : Bool
  /-- pond operands: base and pitch registers; or vector data -/
  a : Word × Word
  b : Word × Word
  av : Option VPair := none
  bv : Option VPair := none
  /-- ring sequence number of the `mma` -/
  seq : Nat := 0
  /-- the batch that closed it, 0 while it is staged only; the copy commands registered in the scoreboard then -/
  batch : Nat := 0
  after : List Nat := []
  deriving DecidableEq, Repr

/-- A step whose batch's completion has not been received keeps its accumulator on loan (R242). -/
structure Loan where
  job : Nat
  slot : Nat
  accs : List Nat
  deriving DecidableEq, Repr

/-- A line of an L1 or of an L2 slice, or of the LLC. -/
structure CLine where
  /-- physical address divided by 64 -/
  tag : Nat
  data : Line := 0
  valid : BitVec 64 := 0
  dirty : BitVec 64 := 0
  /-- L1: bytes stored while a fetch of the line is under way, which its merge keeps (R107, R110) -/
  newer : BitVec 64 := 0
  /-- read budget count and D bit (R119) -/
  bud : Option (Nat × Bool) := none
  /-- the miss list: numbers of the requests that wait for the fill (R116) -/
  miss : Option (List Nat) := none
  /-- the line's translation attributes (R101), for its write-back -/
  attr : Nat := 0
  /-- the full/empty bits of its eight words, and whether they are newer than those of the next level (R306) -/
  fe : BitVec 8 := 0
  feDirty : Bool := false
  /-- an acquire invalidated the line while its fill was under way: it goes once its miss list is answered (R310) -/
  drop : Bool := false
  deriving DecidableEq, Repr

/-- A core: its accumulators, its staging, its L1 (R21, R106, R237). DESIGN CHOICE, unsafe: log 2. -/
structure Core where
  accs : Tab Acc := []
  staging : List EStep := []
  loans : List Loan := []
  l1 : Tab (List CLine) := []
  deriving DecidableEq, Repr

/-- A translation in a TLB or walk cache: context, page base and size, and the leaf entry (R101, R104). -/
structure Trans where
  ctx : Nat
  base : Nat
  size : Nat
  leaf : BitVec 128
  deriving DecidableEq, Repr

/-- What waits for a translation. -/
inductive Waiter where
  /-- an access of a thread, held until its page is known -/
  | access (a : Access)
  /-- a slot that fetches a line -/
  | fetch (slot line : Nat)
  | copy (cmd : Nat)
  /-- the line after one that a slot of a context has begun (R436) -/
  | ahead (slot line ctx : Nat)
  /-- a release or acquire that translates its ranges (R309) -/
  | join (j : Nat)
  /-- a page of a binding table, read at once (R308) -/
  | table
  deriving DecidableEq, Repr

/-- A walk request of a cluster for a 64 KiB block (R104, R105). -/
structure Walk where
  cluster : Nat := 0
  ctx : Nat := 0
  /-- virtual address divided by 64 KiB -/
  block : Nat := 0
  waiters : List Waiter := []
  /-- the answer, once known: a translation or a fault code -/
  answer : Option (Trans ⊕ Nat) := none
  deriving DecidableEq, Repr

/-- A page walk in progress at a walker (R105). -/
structure Walking where
  ctx : Nat
  block : Nat
  /-- walk requests that wait for it -/
  list : List Nat
  deriving DecidableEq, Repr

/-- A walker: its walks and its cache of 64 translations (R105). -/
structure Walker where
  walks : List Walking := []
  cache : List Trans := []
  deriving DecidableEq, Repr

/-- An item of a dispenser (R361). -/
structure Item where
  launch : Nat
  task : Nat
  /-- a task item starts this many slots; 0 marks a spawned item -/
  slots : Nat
  entry : Nat
  args : List Word
  /-- the spawner -/
  src : Nat
  deriving DecidableEq, Repr

/-- A batch of the matrix engine (R238). -/
structure Batch where
  id : Nat
  /-- bits [20:0] of the job id -/
  job : Nat
  slot : Nat
  thread : Nat
  launch : Nat
  seq : Nat
  commit : Nat
  steps : List EStep
  /-- FPCTL's enables at the mcommit -/
  traps : Nat
  registered : Bool := false
  queued : Bool := false
  done : Nat := 0
  flags : Nat := 0
  deriving DecidableEq, Repr

/-- The step that runs (R239). -/
structure ERun where
  start : Nat
  /-- stripes not yet read, ascending -/
  left : List Nat
  /-- stripes read so far, by number, as the pond holds them -/
  got : Tab VPair := []
  deriving DecidableEq, Repr

/-- A matrix engine (R239). -/
structure Engine where
  counter : Nat := 0
  batches : List Batch := []
  run : Option ERun := none
  /-- end of the previous step -/
  last : Nat := 0
  /-- what lanes 0 to 3 do in the present turn: the move that holds it, or none for the step, and their stripes -/
  turn : Option (Option Nat × List Nat) := none
  deriving DecidableEq, Repr

/-- A move of an accumulator by mld or mst (R244). -/
structure Move where
  id : Nat
  store : Bool
  core : Nat
  slot : Nat
  uid : Nat
  seq : Nat
  thread : Nat
  acc : Nat
  base : Word
  issue : Nat
  pitch : Word
  /-- earlier accesses that a fence makes it await (R316) -/
  waits : List Nat := []
  /-- stripes still to move, ascending -/
  left : List Nat
  got : Tab VPair := []
  dry : Bool := false
  deriving DecidableEq, Repr

/-- A copy command (R246). -/
structure Copy where
  id : Nat := 0
  /-- 0 cfetch, 1 cstore, 2 cpush, 3 cmcast -/
  kind : Nat := 0
  slot : Nat := 0
  thread : Nat := 0
  launch : Nat := 0
  crew : Nat := 0
  seq : Nat := 0
  issue : Nat := 0
  ctx : Nat := 0
  /-- the four registers it reads, and bits [95:32] of its word (R371) -/
  r : List Word := []
  word : Nat := 0
  /-- 0 queued, 1 its descriptor is read, 6 it is on its way to the unit, 2 its pages are translated, 3 the core writes back, 5 it waits until the commands
  before it have sent their requests, 4 chunks are prepared -/
  stage : Nat := 0
  /-- the cycle at which the present stage began, and the walks it awaits -/
  t0 : Nat := 0
  walks : Nat := 0
  desc : Line := 0
  /-- translations of the tile's pages -/
  pages : List Trans := []
  /-- lines read, by line number, and the excess of each read (R251) -/
  lines : Tab Line := []
  excess : Tab Nat := []
  /-- the cycle at which a line that was late is at the unit -/
  lands : Tab Nat := []
  /-- the excess of the descriptor read, the walks and the write-back -/
  x : Nat := 0
  /-- chunks prepared, and chunks of a source read -/
  next : Nat := 0
  image : Tab VPair := []
  /-- chunks committed, by destination mill -/
  committed : Tab Nat := []
  /-- destinations that left the crew (R254) -/
  lost : List Nat := []
  /-- chunks of a `cstore` still to be sent, and its lines not yet performed -/
  left : Nat := 0
  linesLeft : Nat := 0
  /-- chunks handed on for delivery; its crew is being saved or is saved; its chunks in quarantine (R373) -/
  fired : Nat := 0
  hold : Bool := false
  /-- the save image it belongs to, 0 while it is in no image -/
  img : Nat := 0
  quar : List (Nat × VPair) := []
  deriving DecidableEq, Repr

/-- A copy unit: its queue and its latest ready cycle (R251). -/
structure CopyUnit where
  queue : List Nat := []
  last : Nat := 0
  /-- the first cycle at which it may send its next line request -/
  free : Nat := 0
  deriving DecidableEq, Repr

/-- A cluster. DESIGN CHOICE, unsafe: log 2. -/
structure Cluster where
  /-- instruction cache lines, most recent first: physical line and data (R436) -/
  icache : List (Nat × Line) := []
  /-- lines requested and not filled -/
  ifill : List Nat := []
  /-- translations, most recent first (R104) -/
  tlb : List Trans := []
  walks : List Nat := []
  /-- threads waiting for a G-core slot: their source slots (R72) -/
  migq : List Nat := []
  disp : List Item := []
  eng : Engine := {}
  moves : List Move := []
  cu : CopyUnit := {}
  /-- the cycle of the latest hand-out (R361) -/
  handed : Option Nat := none
  /-- trap messages held while the supervisor is stopped (R370) -/
  supHeld : List Sent := []
  retired : Bool := false
  /-- an event of this unit is on the agenda -/
  poll : Bool := false
  deriving DecidableEq, Repr

/-- An entry of the range scoreboard (R256). -/
structure SbEntry where
  /-- a copy command's chunk range with its arrival word, or an operand range of a batch -/
  chunk : Bool
  /-- the command, or the cluster and batch -/
  owner : Nat
  lo : Nat
  hi : Nat
  arrival : Nat := 0
  /-- bit j set once chunk j has committed here -/
  got : Nat := 0
  deriving DecidableEq, Repr

/-- A request in the pond queue of a core or of a guest lane (R147, R148). -/
structure PondReq where
  id : Nat := 0
  acc : Access := {}
  /-- pond word offset, or stripe offset of a block operation -/
  off : Nat := 0
  block : Bool := false
  entry : Nat := 0
  /-- the turn a block operation holds -/
  turn : Option Nat := none
  /-- words read by a block operation, and dry words met -/
  got : VPair := 0
  dry : Nat := 0
  /-- index of the request within its access -/
  part : Nat := 0
  /-- a crew access of another mill: the packet it came by -/
  packet : Option Nat := none
  /-- cluster and lane of the port: lane 0-7 of port X or Y -/
  port : Nat := 0
  deriving DecidableEq, Repr

/-- A staged block store of a turn (R151). -/
structure Staged where
  /-- commit order: port X before port Y, then lane -/
  order : Nat
  off : Nat
  mask : Nat
  data : VPair
  /-- the access of a thread: a store, a clear, or additions performed at the commit -/
  acc : Option Access := none
  part : Nat := 0
  /-- the command and chunk whose arrival bit the commit sets, and the arrival word -/
  chunk : Option (Nat × Nat × Nat) := none
  deriving DecidableEq, Repr

/-- A waiter of a pond word (R154): a slot and its entry. -/
structure WaitRef where
  slot : Nat
  uid : Nat
  packet : Option Nat := none
  deriving DecidableEq, Repr

/-- The inner cam table at reset (R142, R171): entry (phase, j), at bits [24 phase + 3j + 2 : 24 phase + 3j], is
(j + phase) mod 8. -/
def camInReset : BitVec 192 := 0xD63447B1A23E8D11F5688FAC447D6323EB1A1F58D1FAC688

/-- The outer cam table at reset (R142, R144): entry (omega, c), at bits [2(4 omega + c) + 1 : 2(4 omega + c)], is
(c + omega) mod 4. -/
def camOutReset : BitVec 32 := 0x934E39E4

/-- A mill. DESIGN CHOICE, unsafe: log 2. -/
structure Mill where
  camInAct : BitVec 192 := camInReset
  camInStg : BitVec 192 := camInReset
  camOutAct : BitVec 32 := camOutReset
  camOutStg : BitVec 32 := camOutReset
  camPend : Bool := false
  /-- bank 8g + b: retirement decided (BANKRET at issue), and seven-bank mode entered (R156) -/
  bankRet : BitVec 32 := 0
  bankDry : BitVec 32 := 0
  /-- cycles of recent corrections of each bank -/
  corrections : Tab (List Nat) := []
  /-- crew stores that the retirement of each bank has dropped (R156) -/
  dropped : Tab Nat := []
  /-- full words: pond offset divided by 8 (R153) -/
  full : Tab Bool := []
  feWait : Tab (List WaitRef) := []
  chkWait : List (Nat × WaitRef) := []
  sb : List SbEntry := []
  staged : List Staged := []
  /-- crew of the mill: launch, crew number, position, and the physical mill of each member (R275) -/
  launch : Option Nat := none
  crew : Nat := 0
  crewIx : Nat := 0
  members : List Nat := []
  holes : List (BitVec 32) := []
  lastCtx : Nat := 0
  feather : Nat := 0
  /-- packets of crew accesses waiting at the network port (R276) -/
  port : List Nat := []
  /-- crew is being vacated: issue stops (R373); chunks that wait at its network port then -/
  stopping : Bool := false
  stuck : List (List Nat) := []
  deriving DecidableEq, Repr

/-- Who awaits the data of a global request. -/
inductive Sink where
  | none
  | entry (slot uid : Nat)
  | l1 (core slot uid : Nat)
  | icache (cluster : Nat)
  | copy (cmd chunk : Nat)
  | tile (op : Nat)
  | join (j : Nat)
  | prefetchL1 (core : Nat)
  | l2 (slice : Nat)
  | walk (w level : Nat)
  | windrose (run node : Nat)
  | combine (rel : Nat)
  /-- a class-0 request of another node, and the number its response carries (R298) -/
  | fabric (node tag : Nat)
  deriving DecidableEq, Repr

/-- A request at a home slice or at the LLC (R114, R120). -/
structure GReq where
  id : Nat := 0
  acc : Access := {}
  /-- physical address of the line or word -/
  pa : Nat := 0
  elems : List Elem := []
  wdata : Line := 0
  wmask : BitVec 64 := 0
  /-- of `wdata`, the bytes that were valid in the L1 that the load looked up (R107) -/
  keep : BitVec 64 := 0
  /-- the line as read where the request was performed -/
  rdata : Line := 0
  /-- full/empty bits that a write-back carries -/
  fe : Option (BitVec 8) := none
  attr : Nat := 0
  ctx : Nat := 0
  /-- requester: die, stop, lane -/
  die : Nat := 0
  stop : Nat := 0
  lane : Nat := 0
  /-- the cycle it counts its latencies from (issue, or as if issued) -/
  at_ : Nat := 0
  sink : Sink := .none
  /-- a write-back sends no response (R434) -/
  writeBack : Bool := false
  /-- served at the LLC: CA 10, M, or a PKG form -/
  llc : Bool := false
  slice : Nat := 0
  /-- the core that sent it, plus 1; a miss list has refused it and it has not been accepted since (R116, R341) -/
  core : Nat := 0
  refused : Bool := false
  /-- releases and acquires that await it besides (R309) -/
  joins : List Nat := []
  /-- the cycle at which a window access is performed, once it has left the package (R297) -/
  dueAt : Nat := 0
  deriving DecidableEq, Repr

/-- What a packet of the millrace carries. -/
inductive Payload where
  | req (r : Nat)
  | resp (r : Nat)
  | crewReq (a : Access) (mill : Nat)
  | crewResp (slot uid : Nat) (data : VPair) (flt : Option (Nat × Nat))
  | msg (m : Nat)
  | status (slot uid val : Nat)
  | walkReq (w : Nat)
  | walkAns (w : Nat)
  | chunk (cmd i dest : Nat) (data : VPair)
  | deposit (d : Nat)
  | control (c : Nat)
  | refuse (r : Nat)
  /-- what leaves the package at an I/O link: its class, its node, its lines, and then 1 a window access, 2 a message (R289) -/
  | out (cls node : Nat) (ls : List Line) (kind id : Nat)
  /-- data of a windrose for another of the package (R407) -/
  | link (l : Nat)
  deriving DecidableEq, Repr

/-- A flit in a router: where it stands, the channel whose slot it holds, and when it may leave (R269, R270). -/
structure Flit where
  stop : Nat
  /-- 0 injected, 1 on the row ring, 2 on the column ring -/
  port : Nat
  /-- 0 shared pool, 1 EVC0, 2 EVC1 -/
  chan : Nat
  ready : Nat
  /-- on its way to an escape channel that had no slot when it came: the buffer before, whose slot it holds, 0 for none (R271) -/
  late : Option Nat := none
  deriving DecidableEq, Repr

/-- A packet on the millrace (R266 to R273). -/
structure Packet where
  die : Nat := 0
  src : Nat := 0
  dst : Nat := 0
  lane : Nat := 0
  len : Nat := 1
  payload : Payload := .req 0
  escape : Bool := false
  /-- the channel the head chose at each stop -/
  chans : Tab Nat := []
  flits : Tab Flit := []
  /-- flits that have left for the local port -/
  out : Nat := 0
  deriving DecidableEq, Repr

/-- The millrace of the package: packets, the output lanes they hold, the slots held or granted in each buffer,
and the order of heads at each input port. -/
structure Net where
  packets : Tab Packet := []
  /-- output lane to the first cycle at which it is free -/
  lanes : Tab Nat := []
  /-- buffer to its slots held or granted -/
  slots : Tab Nat := []
  fifo : Tab (List Nat) := []
  /-- each direction of each die link: the cycles on which it carries flits, from the present one on, and how many then (R287) -/
  links : Tab (List (Nat × Nat)) := []
  deriving DecidableEq, Repr

/-- A home slice: its queue, its sets, its wait table (R115, R117, R306). DESIGN CHOICE, unsafe: log 2. -/
structure Slice where
  queue : List Nat := []
  sets : Tab (List CLine) := []
  /-- waiters of full/empty words: word address to requests -/
  feWait : Tab (List Nat) := []
  /-- lines whose filled miss lists are being answered, before the queue -/
  answer : List Nat := []
  busy : Bool := false
  deriving DecidableEq, Repr

/-- A tile operation in progress (R131, R132). -/
structure Tile where
  acc : Access := {}
  ctx : Nat := 0
  core : Nat := 0
  desc : Line := 0
  /-- row and column of the tile -/
  tr : Nat := 0
  tc : Nat := 0
  pages : List Trans := []
  /-- retries, and the version read before the lines -/
  tries : Nat := 0
  ver : Nat := 0
  /-- lines, or stripes, of the present phase that are still to come -/
  left : Nat := 0
  torn : Bool := false
  /-- lines read, by line number; stripes read -/
  lines : Tab Line := []
  image : Tab VPair := []
  deriving DecidableEq, Repr

/-- A launch record in a pending pool or running (R355 to R359). DESIGN CHOICE, unsafe: log 2. -/
structure Launch where
  record : Line := 0
  id : Nat := 0
  ctx : Nat := 0
  die : Nat := 0
  /-- the slot and thread that issued launch; none for a host launch -/
  from_ : Option (Nat × Nat) := none
  /-- barrier counts in the table's order -/
  counts : List Nat := []
  /-- the pond image, and its words that are full (R58, R63) -/
  image : Memory := []
  imageFull : List Nat := []
  pending : Bool := true
  /-- crews: the mills of each, none once vacated -/
  crews : List (Option (List Nat)) := []
  /-- tasks still to run of each crew, in order -/
  work : List (List Nat) := []
  /-- the task each crew runs -/
  current : List (Option Nat) := []
  /-- unstarted tasks while it has no crew -/
  spare : List Nat := []
  /-- waiting cycles charged against the budget (R367); below 0 where a write of WAITBUD left more than the budget -/
  charged : Int := 0
  /-- its charge has stopped the context, and the budget has not been written since (R367) -/
  spent : Bool := false
  sliceEnd : Option Nat := none
  /-- crews with saved tasks, in task order: save images by number -/
  saved : List Nat := []
  fault : Nat := 0
  reason : Nat := 0
  ended : Bool := false
  /-- the snapshot's address, for the notice (R360) -/
  snap : Nat := 0
  deriving DecidableEq, Repr

/-- A barrier instance (R33, R34). -/
structure Barrier where
  launch : Nat := 0
  level : Nat := 0
  id : Nat := 0
  unit_ : Nat := 0
  count : Nat := 0
  gen : Nat := 0
  /-- generations completed, with the cycle of the latest -/
  doneAt : Nat := 0
  completed : Nat := 0
  deriving DecidableEq, Repr

/-- An arrival that has not left its core (R315): the accesses it awaits. -/
structure Arrival where
  key : Nat := 0
  waits : List Nat := []
  deriving DecidableEq, Repr

/-- A saved crew (R374): what it held, by position. -/
structure SaveImage where
  launch : Nat := 0
  task : Nat := 0
  /-- for each mill of the crew: slots, cores, clusters by number within the mill -/
  slots : List (Tab Slot) := []
  cores : List (Tab Core) := []
  clusters : List (Tab Cluster) := []
  pond : List Memory := []
  full : List (Tab Bool) := []
  sb : List (List SbEntry) := []
  stuck : List (List (List Nat)) := []
  barriers : List Barrier := []
  oldMills : List Nat := []
  deriving DecidableEq, Repr

/-- A context: its record and the keys loaded for it (R353, R354). DESIGN CHOICE, unsafe: log 2. -/
structure Context where
  record : Line := 0
  keys : Tab (BitVec 512) := []
  /-- ranges opened to a host node: node, start, length (R302) -/
  opened : List (Nat × Nat × Nat) := []
  /-- the dies on which it is switched out (R367, R380) -/
  out : List Nat := []
  deriving DecidableEq, Repr

/-- A queue of the combine buffer (R395). -/
structure CQueue where
  /-- the context that configured it -/
  ctx : Option Nat := none
  cfg : List Word := []
  late : Nat := 0
  /-- slots reserved and not released, in reservation order -/
  order : List Nat := []
  /-- releases whose messages have not been sent, in order -/
  rels : List Nat := []
  deriving DecidableEq, Repr

/-- A slot of the combine buffer (R396, R398). -/
structure CSlot where
  gen : Nat := 0
  /-- 0 free, 1 open, 2 combined -/
  st : Nat := 0
  /-- its queue, or its last one; whether it has had one -/
  q : Nat := 0
  used : Bool := false
  token : Nat := 0
  chunk : Nat := 0
  experts : List Nat := []
  gates : List Nat := []
  /-- deposits by expert -/
  deposits : Tab VPair := []
  deadline : Option Nat := none
  dest : Nat := 0
  pa : Nat := 0
  attr : Nat := 0
  /-- the combine's end, its lines and flags -/
  ready : Nat := 0
  out : List Line := []
  flags : Nat := 0
  deriving DecidableEq, Repr

/-- A release of the combine buffer (R400): its lines not yet performed, and its message. -/
structure CRel where
  die : Nat := 0
  q : Nat := 0
  left : Nat := 0
  dest : Nat := 0
  msg : Msg := {}
  deriving DecidableEq, Repr

/-- A request to the combine control or to a slice's combine slot: 0 cbq, 1 cbres, 2 cbstat, 3
cbput. -/
structure CtlReq where
  kind : Nat := 0
  slot : Nat := 0
  uid : Nat := 0
  ctx : Nat := 0
  r : List Word := []
  gates : VReg := 0
  /-- a deposit's stripe -/
  data : VPair := 0
  pa : Nat := 0
  attr : Nat := 0
  fault : Option (Nat × Nat) := none
  deriving DecidableEq, Repr

/-- A loaded graph (R403, R404). -/
structure Graph where
  header : Line := 0
  ranks : List Nat := []
  nodes : List (BitVec 256) := []
  runs : Nat := 0
  ctx : Nat := 0
  /-- state of ended runs, latest first: run, state, fired, done -/
  ended : List (Nat × Nat × Nat × Nat) := []
  deriving DecidableEq, Repr

/-- A run of a graph (R406, R410). -/
structure Run where
  die : Nat := 0
  handle : Nat := 0
  k : Nat := 0
  slot : Nat := 0
  thread : Nat := 0
  launch : Nat := 0
  seq : Nat := 0
  uid : Nat := 0
  ctx : Nat := 0
  /-- the address of the base table, and the bases once read -/
  table : Nat := 0
  bases : List Nat := []
  /-- the completion slot and its TAG -/
  dest : Nat := 0
  tag : Nat := 0
  /-- the thread's earlier accesses that it awaits (R410) -/
  waits : List Nat := []
  /-- 0 not accepted, 1 waiting for its start time, 2 running -/
  st : Nat := 0
  /-- the start time T of `cgrun.at` -/
  at_ : Option Nat := none
  /-- the skyclock time of its start -/
  start : Nat := 0
  slotted : Bool := false
  skew : Bool := false
  late : Bool := false
  pages : List Trans := []
  counters : Tab Nat := []
  /-- nodes fired, and nodes completed -/
  fired : List Nat := []
  done : List Nat := []
  /-- receives that never complete (R405, R415) -/
  failed : List Nat := []
  /-- nodes whose writes to a fabric window have not all been performed (R411) -/
  writing : List Nat := []
  /-- sends to other packages: the cycle by which the peer's credit has come (R410) -/
  credit : Tab Nat := []
  mask : Nat := 0
  flags : Nat := 0
  deriving DecidableEq, Repr

/-- Data that a send has transmitted and no receive has taken (R405): the windrose it goes to, the ranks, the channel,
the run number, whether its flits carry records, and the data flits (R407). -/
structure Link where
  id : Nat := 0
  die : Nat := 0
  src : Nat := 0
  dst : Nat := 0
  chan : Nat := 0
  k : Nat := 0
  sx : Bool := false
  /-- packets, or flits, still to come -/
  left : Nat := 0
  flits : List Line := []
  deriving DecidableEq, Repr

/-- A merge of an in-switch group (R415): switch, channel, run number, the ranks that have contributed and the sums. -/
structure Merge where
  node : Nat := 0
  chan : Nat := 0
  k : Nat := 0
  /-- the nodes of the group's ranks, as its graphs name them -/
  table : List Nat := []
  /-- the members whose records are in the sum, and the runs whose records have come -/
  ranks : List Nat := []
  runs : List Nat := []
  sums : List Nat := []
  /-- members of this package that have not received yet -/
  takers : List Nat := []
  /-- 0 collecting, 1 merged, 2 failed -/
  st : Nat := 0
  mask : Nat := 0
  deriving DecidableEq, Repr

/-- A compute die. DESIGN CHOICE, unsafe: log 2. -/
structure Die where
  pool : List Nat := []
  launches : Nat := 0
  walkers : Tab Walker := []
  queues : Tab CQueue := []
  cslots : Tab CSlot := []
  /-- the first cycle at which the combine control (128), or a slice's combine unit, is free -/
  ctlFree : Tab Nat := []
  graphs : Tab Graph := []
  staging : Memory := []
  /-- the first cycle at which the windrose can start a node (R406), and the one by which its adders have done all that
  started nodes ask of them (R390) -/
  nodeFree : Nat := 0
  addFree : Nat := 0
  /-- messages in the context mailboxes and the dispatcher's log -/
  boxes : Tab (List Sent) := []
  /-- the cycle after the last delivery to each context mailbox (R284) -/
  boxAt : Tab Nat := []
  log : List Msg := []
  busy : Bool := false
  deriving DecidableEq, Repr

/-- A flit of the fabric: its sideband and its 64 bytes (R296). -/
structure FFlit where
  side : Word := 0
  data : Line := 0
  deriving DecidableEq, Repr

/-- A port of the Harlis fabric (R295 to R297). DEDUCED, unsafe: log 79. -/
structure Port where
  /-- the sequence numbers of the next flit to send and to receive -/
  sendSeq : Nat := 0
  recvSeq : Nat := 0
  /-- the last 256 flits sent, oldest first -/
  replay : List FFlit := []
  /-- flits dropped and counted -/
  errors : Nat := 0
  /-- the flits of packets being received, by source node and class: those to come, and those received -/
  parts : Tab (Nat × List Line) := []
  /-- a replay it has asked for, from this sequence number on -/
  asked : Option Nat := none
  /-- flits that the far end has asked for and that go out again -/
  again : List FFlit := []
  deriving DecidableEq, Repr

/-- A crew that is being vacated (R373): the write-backs of its cores, once it has drained. -/
structure Vacating where
  launch : Nat := 0
  crew : Nat := 0
  joins : Option (List Nat) := none
  deriving DecidableEq, Repr

/-- Why a session command fails (R353). -/
inductive SessionFail where
  | noSession | notAuthentic | features | full | taken | noContext
  deriving DecidableEq, Repr

/-- What the part answers over the management path or the fabric, other than by a message. -/
inductive Answer where
  | done
  | failed (why : SessionFail)
  /-- the part's half of a key exchange, and its signature (R352) -/
  | session (half sig : Nat)
  /-- a quote, its signature, and the attestation and identity certificates, each a body and its signature (R379) -/
  | quote (body sig : Nat) (attestation identity : Nat × Nat)
  /-- a class-0 response: its status and data (R302) -/
  | response (status : Nat) (data : Line)
  /-- the status of a host's launch record (R356) -/
  | launch (status id : Nat)
  | line (d : Line)
  | cached (c : List CLine)
  /-- the state of a unit that the management path reads (R378) -/
  | slot (x : Slot)
  | core (x : Core)
  | cluster (x : Cluster)
  | mill (x : Mill)
  | die (x : Die)
  /-- the boot ROM asks the host for a signed image (R379) -/
  | fetchImage
  /-- an answer protected under a session's key: its initial value, its length, the ciphertext and the tag (R352) -/
  | sealed (iv len text tag : Nat)
  /-- a fault of a supervisor slot (R370) -/
  | trap (g : Nat) (m : Msg)
  deriving DecidableEq, Repr

/-- A save image as device memory holds it from its first line on: its length and its bytes, which the spec leaves open, by a number;
and the lines written back over it since (R374). DESIGN CHOICE, unsafe: log 72. -/
structure SaveArea where
  base : Nat := 0
  draw : Nat := 0
  written : List Nat := []
  deriving DecidableEq, Repr

/-- What is due at a cycle: the turn of a slot, or an event. -/
inductive Todo where
  | turn (slot : Nat)
  /-- an event and the numbers it acts on -/
  | event (i : Instr) (arg : List Nat)
  deriving DecidableEq, Repr

/-- An item of the agenda: its cycle, its class within the cycle, its order within the class. -/
structure Due where
  at_ : Nat
  cls : Nat
  pri : Nat
  what : Todo
  deriving DecidableEq, Repr

/-- The manufacture data of the part (R2, R113, R293). DESIGN CHOICE, unsafe: log 3. -/
structure Part where
  /-- 0 Tower, 1 Smock, 2 Post -/
  grade : Nat := 0
  pkgix : Nat := 0
  /-- physical mill of each logical mill, for each die -/
  mills : Tab (List Nat) := []
  /-- the slice that a slot of a die folds onto, where it is not itself: 128 die + slot -/
  fold : Tab Nat := []
  serial : Nat := 0
  deriving DecidableEq, Repr

/-- The state of the part. -/
structure State where
  /-- CYCLE (R9, R365) -/
  cycle : Nat
  /-- the slot whose turn it is -/
  cur : Nat
  /-- what the present event acts on -/
  arg : List Nat
  agenda : List Due
  frozen : Bool
  /-- counter that numbers accesses, packets, requests and messages (the model's own) -/
  uid : Nat
  /-- counter of the free values drawn (the model's own; see the log) -/
  free : Nat
  part : Part
  slots : Tab Slot
  cores : Tab Core
  clusters : Tab Cluster
  mills : Tab Mill
  dies : Tab Die
  slices : Tab Slice
  net : Net
  /-- the pond queues of cores (port X) and guest lanes (port Y) -/
  ports : Tab (List PondReq)
  /-- the cycle after each port's last word service (R146) -/
  metAt : Tab Nat
  reqs : Tab GReq
  sents : Tab Sent
  joins : Tab Join
  walks : Tab Walk
  tiles : Tab Tile
  copies : Tab Copy
  controls : Tab CtlReq
  rels : Tab CRel
  runs : Tab Run
  links : List Link
  /-- credit that a peer on another package has posted: die, sending rank, receiving rank, channel, run number (R410) -/
  credits : List (Nat × Nat × Nat × Nat × Nat)
  merges : Tab Merge
  /-- stores under way, or unlike in the instruction caches, to lines of code (R38) -/
  codeStores : List CodeStore
  launches : Tab Launch
  saves : Tab SaveImage
  /-- threads that a save holds: the image, and the slot it left -/
  savedSlots : Tab (Nat × Nat)
  vacates : Tab Vacating
  /-- the bytes of save images in device memory, newest first (R373, R374) -/
  saveAreas : List SaveArea
  barriers : Tab Barrier
  arrivals : Tab Arrival
  /-- messages held at their producers, oldest first, by destination slot, or by thread, plus 2^32, while a save holds it (R283,
  R375) -/
  heldMsgs : Tab (List Nat)
  contexts : Tab Context
  sessions : Tab (BitVec 256)
  /-- class-4 messages that come in, by the node that sends them: bytes so far, and the body (R296, R352) -/
  gathers : Tab (Nat × Nat)
  /-- device memory as HBM and every line's write-back to it hold it -/
  mem : Memory
  /-- the ponds: 2 MiB of each mill at its number times 2 MiB -/
  pond : Memory
  /-- LLC lines by line address -/
  llc : Tab CLine
  /-- requests that await a line's fill from HBM, in order of arrival (R120, R393) -/
  fills : Tab (List Nat)
  /-- the translation attributes under which HBM holds an encrypted line (R121) -/
  hbmAttr : Tab Nat
  /-- memory-side units: the cycle until which each is busy (R393) -/
  unitBusy : Tab Nat
  /-- the full/empty bits that the HBM metadata holds, by word number (R306) -/
  full : Tab Bool
  /-- waiters of full/empty words at the base dies -/
  feWait : Tab (List Nat)
  /-- versions of tiles by first line (R132) -/
  versions : Tab Nat
  /-- format windows: 16 stack + window (R122) -/
  windows : Tab (BitVec 256)
  /-- enumeration records of fabric windows: base, length, node (R292) -/
  fabric : List (Nat × Nat × Nat)
  ports_ : Tab Port
  /-- poisoned words: physical or pond word number (R377) -/
  poison : Tab Bool
  /-- corrected errors counted, of cores' L1s, slices and base dies: 2^20 times the array, 0 to 2, plus the unit (R377) -/
  corrected : Tab Nat
  /-- the skyclock: UNSYNC, TIME in parts of a ns (21,000,000 to the ns) and its rate, SKYERR (R299, R300) -/
  skyUnsync : Bool
  skyTime : Nat
  skyAt : Nat
  skyPpm : Int
  skyErr : Nat
  /-- firmware: running release, 0 before boot (R379) -/
  fwRel : Nat
  /-- table generation (R294) -/
  tableGen : Nat
  /-- what the part has sent to hosts and peers: node, mailbox, message -/
  hostOut : List (Nat × Nat × Msg)
  /-- other answers: to a node, or to the management path (4096) -/
  answers : List (Nat × Answer)
  deriving DecidableEq, Repr

/-- Why the machine stops. -/
inductive Fault where
  /-- raised by `step` when every clock is stopped and no reset is due: only a reset leaves freeze (R378); safe -/
  | frozen
  /-- raised by `step` when nothing is due: no state that a run from reset reaches, since a feather window always
  ends (R366); safe -/
  | idle
  deriving DecidableEq, Repr

/-- Why the model has no meaning for a step. -/
inductive Refusal where
  /-- raised by the arm of an instruction that has no meaning yet; safe -/
  | notModelled (mnemonic : String)
  deriving DecidableEq, Repr

/-- The state right after reset: every unit empty, the cam tables as R142 gives them, CYCLE 0, every feather level
0 with the end of window 0 due (R366), the skyclock not synchronised (R299), no context, no launch, nothing listed
in any memory. Values the spec does not give are named in the log. DESIGN CHOICE, unsafe: log 2. DESIGN CHOICE, unsafe: log 4. -/
def State.reset : State where
  cycle := 0
  cur := 0
  arg := []
  agenda := [⟨1050, 0, 0, .event .featherWindowEnd []⟩]
  frozen := false
  uid := 1
  free := 0
  part := {}
  slots := []
  cores := []
  clusters := []
  mills := []
  dies := []
  slices := []
  net := {}
  ports := []
  metAt := []
  reqs := []
  sents := []
  joins := []
  walks := []
  tiles := []
  copies := []
  controls := []
  rels := []
  runs := []
  links := []
  credits := []
  merges := []
  codeStores := []
  launches := []
  saves := []
  savedSlots := []
  vacates := []
  saveAreas := []
  barriers := []
  arrivals := []
  heldMsgs := []
  contexts := []
  sessions := []
  gathers := []
  mem := []
  pond := []
  llc := []
  fills := []
  hbmAttr := []
  unitBusy := []
  full := []
  feWait := []
  versions := []
  windows := []
  fabric := []
  ports_ := []
  poison := []
  corrected := []
  skyUnsync := true
  skyTime := 0
  skyAt := 0
  skyPpm := 0
  skyErr := 0
  fwRel := 0
  tableGen := 0
  hostOut := []
  answers := []

end Sys2Proof.Machine
end

