-- ==== Sys2Proof/Machine/Ops.lean ====
section
/-! DEFINITION. The named operations on the state: sparse tables, units, registers, memory, the agenda, the return
buffer and its marker, exceptions, and the issue of an instruction. -/

namespace Sys2Proof.Machine

open Sys2Proof

/-! Sparse tables. -/

/-- The value at a key; `d` where the key is not listed. -/
def tget {α : Type} (d : α) : Tab α → Nat → α
  | [], _ => d
  | (k, v) :: t, i => if i == k then v else if i < k then d else tget d t i

/-- The table without the key. -/
def tdel {α : Type} : Tab α → Nat → Tab α
  | [], _ => []
  | (k, v) :: t, i => if i == k then t else if i < k then (k, v) :: t else (k, v) :: tdel t i

/-- The table with the key listed with the value. -/
def tins {α : Type} : Tab α → Nat → α → Tab α
  | [], i, a => [(i, a)]
  | (k, v) :: t, i, a => if i == k then (i, a) :: t else if i < k then (i, a) :: (k, v) :: t else (k, v) :: tins t i a

/-- The table with the value at the key, in canonical form: the default is not listed. -/
def tput {α : Type} [DecidableEq α] (d : α) (t : Tab α) (i : Nat) (a : α) : Tab α :=
  if a = d then tdel t i else tins t i a

/-- The canonical form: keys strictly rising, no default value (R139's and R99's memories are tables too). -/
def Tab.wf {α : Type} [DecidableEq α] (d : α) : Tab α → Bool
  | [] => true
  | [(_, v)] => decide (v ≠ d)
  | (k, v) :: (k', v') :: t => decide (v ≠ d) && decide (k < k') && Tab.wf d ((k', v') :: t)

/-! Memory. -/

/-- The byte at an address; a byte that nothing has written reads 0. DESIGN CHOICE, unsafe: log 1. -/
def memByte (m : Memory) (a : Nat) : Byte := tget 0 m a

/-- Memory with the byte at the address. -/
def memSet (m : Memory) (a : Nat) (b : Byte) : Memory := tput 0 m a b

/-- The canonical form of a memory. DESIGN CHOICE, unsafe: log 1. -/
def Memory.wf (m : Memory) : Bool := Tab.wf (0 : Byte) m

/-- The `n` bytes from an address as a natural, least significant byte first. -/
def memRead (m : Memory) (a : Nat) : Nat → Nat
  | 0 => 0
  | n + 1 => (memByte m a).toNat + 256 * memRead m (a + 1) n

/-- Memory with the `n` bytes from an address set to those of a natural, least significant byte first. -/
def memWrite (m : Memory) (a : Nat) : Nat → Nat → Memory
  | 0, _ => m
  | n + 1, x => memWrite (memSet m a (BitVec.ofNat 8 x)) (a + 1) n (x / 256)

/-- Bytes of a line under a byte mask: `new` where the mask is 1, `old` elsewhere. -/
def mergeBytes (n : Nat) (old new mask : Nat) : Nat :=
  (List.range n).foldr (fun i a => (if mask.testBit i then new / 256 ^ i % 256 else old / 256 ^ i % 256) + 256 * a) 0

/-- Writes the bytes of a natural that a byte mask selects, from address `a` on. -/
def memWriteMask (m : Memory) (a n x mask : Nat) : Memory :=
  (List.range n).foldl (fun m i => if mask.testBit i then memSet m (a + i) (BitVec.ofNat 8 (x / 256 ^ i)) else m) m

/-! Units, by number (R26, R27). -/

def coreOf (g : Nat) : Nat := g / 16
def clusterOf (g : Nat) : Nat := g / 128
def millOf (g : Nat) : Nat := g / 512
def dieOf (g : Nat) : Nat := g / 32768
def slotIx (g : Nat) : Nat := g % 16
def coreIx (g : Nat) : Nat := g / 16 % 8
def clusIx (g : Nat) : Nat := g / 128 % 4
def millIx (g : Nat) : Nat := g / 512 % 64
/-- Slot 15 of core 7 of each cluster is its supervisor slot (R28). -/
def isSupervisor (g : Nat) : Bool := g % 128 == 127
/-- The supervisor slot of a cluster. -/
def supervisorOf (cluster : Nat) : Nat := cluster * 128 + 127
/-- EXTSET.G of a core: 1 on cores 0 to 3 (R70). -/
def hasG (g : Nat) : Bool := coreIx g < 4

/-- Live mills per compute die (R2). -/
def Part.liveMills (p : Part) : Nat := match p.grade with | 0 => 38 | 1 => 36 | _ => 32
/-- The physical mill of a logical one: the identity where the part's map lists nothing (R293). -/
def Part.physMill (p : Part) (die mill : Nat) : Nat := ((tget [] p.mills die)[mill]?).getD mill
/-- The stop of a mill (R265). -/
def Part.stopOf (p : Part) (millId : Nat) : Nat := p.physMill (millId / 64) (millId % 64)
/-- The slice that a home slot of a die folds onto (R113). -/
def Part.remap (p : Part) (die slot : Nat) : Nat := tget slot p.fold (128 * die + slot)
/-- The class between two dies (R288). DEDUCED, unsafe: log 17. -/
def dieClass (a b : Nat) : Nat :=
  let d (x y : Nat) : Nat := if x < y then y - x else x - y
  d (a % 4) (b % 4) + d (a / 4) (b / 4)

/-! Reading and writing the units of the state. -/

def State.slot (s : State) (g : Nat) : Slot := tget {} s.slots g
def State.setSlot (s : State) (g : Nat) (x : Slot) : State := { s with slots := tput {} s.slots g x }
def State.updSlot (s : State) (g : Nat) (f : Slot → Slot) : State := s.setSlot g (f (s.slot g))
def State.core (s : State) (c : Nat) : Core := tget {} s.cores c
def State.setCore (s : State) (c : Nat) (x : Core) : State := { s with cores := tput {} s.cores c x }
def State.cluster (s : State) (c : Nat) : Cluster := tget {} s.clusters c
def State.setCluster (s : State) (c : Nat) (x : Cluster) : State := { s with clusters := tput {} s.clusters c x }
def State.updCluster (s : State) (c : Nat) (f : Cluster → Cluster) : State := s.setCluster c (f (s.cluster c))
def State.mill (s : State) (m : Nat) : Mill := tget {} s.mills m
def State.setMill (s : State) (m : Nat) (x : Mill) : State := { s with mills := tput {} s.mills m x }
def State.updMill (s : State) (m : Nat) (f : Mill → Mill) : State := s.setMill m (f (s.mill m))
def State.die (s : State) (d : Nat) : Die := tget {} s.dies d
def State.setDie (s : State) (d : Nat) (x : Die) : State := { s with dies := tput {} s.dies d x }
def State.updDie (s : State) (d : Nat) (f : Die → Die) : State := s.setDie d (f (s.die d))
def State.slice (s : State) (l : Nat) : Slice := tget {} s.slices l
def State.setSlice (s : State) (l : Nat) (x : Slice) : State := { s with slices := tput {} s.slices l x }
def State.launchOf (s : State) (id : Nat) : Launch := tget {} s.launches id
def State.setLaunch (s : State) (id : Nat) (x : Launch) : State := { s with launches := tput {} s.launches id x }
def State.updLaunch (s : State) (id : Nat) (f : Launch → Launch) : State := s.setLaunch id (f (s.launchOf id))
def State.context (s : State) (c : Nat) : Context := tget {} s.contexts c
def State.req (s : State) (r : Nat) : GReq := tget {} s.reqs r
def State.setReq (s : State) (r : Nat) (x : GReq) : State := { s with reqs := tput {} s.reqs r x }
def State.sent (s : State) (m : Nat) : Sent := tget {} s.sents m
def State.setSent (s : State) (m : Nat) (x : Sent) : State := { s with sents := tput {} s.sents m x }
def State.copy (s : State) (c : Nat) : Copy := tget {} s.copies c
def State.setCopy (s : State) (c : Nat) (x : Copy) : State := { s with copies := tput {} s.copies c x }
def State.port (s : State) (p : Nat) : List PondReq := tget [] s.ports p
def State.setPort (s : State) (p : Nat) (x : List PondReq) : State := { s with ports := tput [] s.ports p x }

/-- A number that nothing else has. -/
def State.fresh (s : State) : Nat × State := (s.uid, { s with uid := s.uid + 1 })

/-- The next free value's index: the counter goes on, so that no two draws share one. DESIGN CHOICE, safe: log 7. -/
def State.draw (s : State) : Nat × State := (s.free, { s with free := s.free + 1 })

/-! The agenda. -/

/-- Whether item `a` stands before item `b`. -/
def Due.before (a b : Due) : Bool :=
  a.at_ < b.at_ || (a.at_ == b.at_ && (a.cls < b.cls || (a.cls == b.cls && a.pri < b.pri)))

/-- The agenda with an item, after those of the same cycle, class and order. DESIGN CHOICE, unsafe: log 4. -/
def insertDue (d : Due) : List Due → List Due
  | [] => [d]
  | e :: t => if d.before e then d :: e :: t else e :: insertDue d t

/-- Puts an event on the agenda; an event is never due before the present cycle. -/
def State.post (s : State) (at_ cls pri : Nat) (i : Instr) (arg : List Nat) : State :=
  { s with agenda := insertDue ⟨max at_ s.cycle, cls, pri, .event i arg⟩ s.agenda }

/-- The first issue cycle of a slot at or after `t` (R9). -/
def issueAt (g t : Nat) : Nat := nextAt t 16 (slotIx g)

/-- Gives a slot its next turn, at its first issue cycle at or after `t`. -/
def State.turnAt (s : State) (g t : Nat) : State :=
  let c := issueAt g t
  let s := s.updSlot g (fun x => { x with due := some c })
  { s with agenda := insertDue ⟨c, 2, g, .turn g⟩ s.agenda }

/-- The slot goes on at its next turn. -/
def State.again (s : State) (g : Nat) : State := s.turnAt g (s.cycle + 1)

/-! Registers (R21). -/

/-- A scalar register; s0 reads 0. -/
def Slot.sreg (x : Slot) (i : Nat) : Word := if i == 0 then 0 else tget 0 x.s i
/-- A vector register. -/
def Slot.vreg (x : Slot) (i : Nat) : VReg := tget 0 x.v i
/-- A predicate; p0 reads true. -/
def Slot.preg (x : Slot) (i : Nat) : Bool := i == 0 || x.p.getLsbD i
/-- A lane mask; k0 reads all ones. -/
def Slot.kreg (x : Slot) (i : Nat) : Word := if i == 0 then BitVec.allOnes 64 else tget 0 x.k i
/-- A write of a scalar register; a write of s0 is dropped. -/
def Slot.setS (x : Slot) (i : Nat) (w : Word) : Slot := if i == 0 then x else { x with s := tput 0 x.s i w }
def Slot.setV (x : Slot) (i : Nat) (w : VReg) : Slot := { x with v := tput 0 x.v i w }
/-- A write of a predicate; a write of p0 is dropped. -/
def Slot.setP (x : Slot) (i : Nat) (b : Bool) : Slot :=
  if i == 0 then x
  else { x with p := if b then x.p ||| BitVec.ofNat 8 (2 ^ i) else x.p &&& ~~~ (BitVec.ofNat 8 (2 ^ i)) }
/-- A write of a lane mask; a write of k0 is dropped. -/
def Slot.setK (x : Slot) (i : Nat) (w : Word) : Slot := if i == 0 then x else { x with k := tput 0 x.k i w }

/-- A pair of vector registers. -/
def Slot.vpair (x : Slot) (i : Nat) : VPair := (x.vreg (i + 1)) ++ (x.vreg i)

/-! The thread that runs. -/

/-- The slot whose turn it is. -/
def State.me (s : State) : Slot := s.slot s.cur
def State.setMe (s : State) (x : Slot) : State := s.setSlot s.cur x
def State.updMe (s : State) (f : Slot → Slot) : State := s.updSlot s.cur f

/-- The launch of a slot's thread. -/
def State.launchOfSlot (s : State) (g : Nat) : Launch := s.launchOf (s.slot g).launch
/-- The context of a slot's thread. -/
def State.ctxOfSlot (s : State) (g : Nat) : Nat := (s.launchOfSlot g).ctx
/-- A field of a 64-byte record. -/
def fieldOf (r : Line) (hi lo : Nat) : Nat := bits r.toNat hi lo
/-- FEATACC word n of a context (R354, R365). -/
def Context.featAcc (c : Context) (n : Nat) : Nat := fieldOf c.record (256 + 64 * n + 63) (256 + 64 * n)
/-- FEATADV0: bits [5:0] (R69). -/
def featAdv0 : Nat := 63

/-- Op(f) of a field of the running slot: its register, or its sign-extended immediate (R41, R65). -/
def State.opVal (s : State) (o : Operand) : Word :=
  match o with
  | .reg .s _ i => s.me.sreg i.toNat
  | .reg .k _ i => s.me.kreg i.toNat
  | .reg .p _ i => if s.me.preg i.toNat then 1 else 0
  | .reg _ _ _ => 0
  | .imm v => v.signExtend 64
  | .limm v => v.signExtend 64
  | .none _ => 0

/-- The scalar register `k` places after the one a field names. -/
def State.grp (s : State) (o : Operand) (k : Nat) : Word := s.me.sreg (o.idx + k)

/-- Writes the destination register that A names, of class s, p or k. -/
def State.writeA (s : State) (x : Args) (w : Word) : State :=
  match x.a with
  | .reg .p _ i => s.updMe (fun t => t.setP i.toNat (w != 0))
  | .reg .k _ i => s.updMe (fun t => t.setK i.toNat w)
  | .reg _ _ i => s.updMe (fun t => t.setS i.toNat w)
  | _ => s

/-- The thread goes on with the next instruction at its next turn. DEDUCED, unsafe: log 32. -/
def State.advance (s : State) : State :=
  (s.updMe (fun t => { t with pc := t.pc + 1, st := .running })).again s.cur

/-- The thread goes on at another instruction. -/
def State.jump (s : State) (pc : BitVec 32) : State :=
  (s.updMe (fun t => { t with pc := pc, st := .running })).again s.cur

/-- The slot parks; it tries again at its next turn (R11, R12). -/
def State.park (s : State) (g : Nat) (why : Park) : State :=
  (s.updSlot g (fun t => { t with
    st := .parked why
    parkedAt := match t.st with | .parked _ => t.parkedAt | _ => s.cycle })).again g

/-! Messages: their headers, and sending one to be delivered at a cycle. -/

/-- A header of R281. -/
def mkHdr (kind : Nat) (long : Bool) (orig src tag len : Nat) : Word :=
  BitVec.ofNat 64 (kind % 16 * 2 ^ 60 + (if long then 2 ^ 59 else 0) + orig % 4 * 2 ^ 56 + src % 2 ^ 24 * 2 ^ 32
    + tag % 65536 * 65536 + len % 65536)

/-- A header of a unit of the package on a die (R281). -/
def unitHdr (kind unit_ die tag len : Nat) : Word := mkHdr kind false 3 (unit_ + die * 32768) tag len

def Msg.kind (m : Msg) : Nat := m.hdr.toNat / 2 ^ 60
def Msg.long (m : Msg) : Bool := m.hdr.getLsbD 59
def Msg.tag (m : Msg) : Nat := bits m.hdr.toNat 31 16
def Msg.len (m : Msg) : Nat := bits m.hdr.toNat 15 0

/-- Sends a message of a unit: it is delivered at the cycle, after the packets and the slots' messages of that cycle, in the order
of the unit codes (R284). -/
def State.sendAt (s : State) (t : Nat) (x : Sent) : State :=
  let (u, s) := s.fresh
  (s.setSent u { x with msg := { x.msg with uid := u } }).post t 1 (800 + bits x.msg.hdr.toNat 34 32) .messageDelivery [u]

/-! Exceptions (R362, R369 to R372). -/

def fcTrap : Nat := 0x00
def fcIllop : Nat := 0x01
def fcAlign : Nat := 0x02
def fcPage : Nat := 0x03
def fcPerm : Nat := 0x04
def fcBankret : Nat := 0x05
def fcAccbusy : Nat := 0x06
def fcCrewout : Nat := 0x07
def fcGsing : Nat := 0x08
def fcFpx : Nat := 0x09
def fcPriv : Nat := 0x0A
def fcSpace : Nat := 0x0B
def fcMchk : Nat := 0x0C
def fcCambad : Nat := 0x0D

/-- The 128 bits of a ring entry (R372). -/
def RingEntry.pack (r : RingEntry) : Nat :=
  r.seq % 2 ^ 32 * 2 ^ 96 + r.ix % 2 ^ 32 * 2 ^ 64 + r.op * 2 ^ 56 + r.fn * 2 ^ 50 + (if r.done then 2 ^ 49 else 0)
  + (if r.flt then 2 ^ 48 else 0) + r.code * 2 ^ 40 + r.flags * 2 ^ 35

/-- The trap message of a fault (R371): class 0 exact, 1 marker, 2 late. -/
def trapMsg (g ctx code cls ix detail seq : Nat) (ring : Nat) (lost : Bool) : Msg :=
  { hdr := unitHdr 3 6 (dieOf g) code 40
    pay := BitVec.ofNat 960 (g % 2 ^ 24 + ctx % 256 * 2 ^ 24 + (if lost then 2 ^ 53 else 0)
      + cls * 2 ^ 54 + code * 2 ^ 56 + ix % 2 ^ 32 * 2 ^ 64 + seq % 2 ^ 32 * 2 ^ 96 + detail % 2 ^ 64 * 2 ^ 128
      + ring * 2 ^ 192) }

/-- Reports a fault of a slot at a cycle: to the supervisor slot of its cluster, or, for a fault of a supervisor
slot, to the host over the management path (R370). -/
def State.reportFault (s : State) (g t : Nat) (m : Msg) : State :=
  if isSupervisor g then { s with answers := s.answers ++ [(4096, .trap g m)] }
  else s.sendAt t { msg := m, dest := .slot (supervisorOf (clusterOf g)) }

/-- Fault(code, detail): an exact fault at issue. The instruction has no effect, the slot stops with its program
counter at the instruction, outstanding entries keep landing, and the trap message is delivered 8 cycles later
(R370). The one place where an exact exception is taken. DEDUCED, unsafe: log 31. -/
def State.raise (s : State) (code detail : Nat) : State :=
  let g := s.cur
  let m := trapMsg g (s.ctxOfSlot g) code 0 s.me.pc.toNat detail 0 0 false
  (s.updMe (fun t => { t with st := .stopped code, due := none, trapped := some m })).reportFault g (s.cycle + 8) m

/-- Whether a slot holds a thread. -/
def SlotSt.hasThread : SlotSt → Bool
  | .running => true
  | .parked _ => true
  | .stopped _ => true
  | .halted => true
  | .migrating => true
  | _ => false

/-- The end of a chain of forwarding slots: a thread that a save restores on a core without the G set may migrate again. -/
def chase (slots : Tab Slot) : Nat → Nat → Nat
  | 0, g => g
  | n + 1, g =>
    let x : Slot := tget {} slots g
    match x.st with
    | .forwarding => chase slots n (x.link.getD g)
    | _ => g

/-- The slot that a thread named by a slot id runs in now: the id itself, or where its thread has moved (R73). DEDUCED, unsafe: log 62. -/
def State.follow (s : State) (g : Nat) : Nat := chase s.slots s.slots.length g

/-- Whether a slot is the supervisor slot of its cluster, or holds firmware's thread that has migrated from there: no crew's save
concerns it (R28, R71, R373). -/
def State.isFirmware (s : State) (g : Nat) : Bool := isSupervisor g || (s.slot g).link.any isSupervisor

/-- LateFault(code, seq) of a thread of a context at the cycle a: LATEPEND is set unless one is pending, the ring entry records it, the slot
parks before its next issue cycle, and the trap message is delivered at a + 8; a slot that has emptied stops
nothing (R370, R372). -/
def State.lateFault (s : State) (g0 code seq detail thread ctx : Nat) : State :=
  let g := s.follow g0
  let x := s.slot g
  let here := x.st.hasThread && x.thread == thread
  let x := if here then x else { x with ring := [] }
  let hit := x.ring.find? (fun r => r.seq == seq)
  let ring := x.ring.map (fun r => if r.seq == seq then { r with flt := true, code := code } else r)
  let ix := match hit with | some r => r.ix | none => 2 ^ 32 - 1
  let packed := match ring.find? (fun r => r.seq == seq) with | some r => r.pack | none => 0
  let m := trapMsg g ctx code 2 ix detail seq packed hit.isNone
  let s := if here then
      s.setSlot g { x with
        late := if x.late.isNone then some (code, seq) else x.late
        ring := ring
        due := none
        trapped := match x.st with
          | .running => some m
          | .parked _ => some m
          | _ => x.trapped
        st := match x.st with
          | .running => .stopped code
          | .parked _ => .stopped code
          | st => st }
    else s
  s.reportFault g (s.cycle + 8) m

/-- A coprocessor instruction takes the next sequence number and enters the ring (R206, R372): its number. -/
def State.enterRing (s : State) (op fn : Nat) : Nat × State :=
  let x := s.me
  let q := x.copseq.toNat
  (q, s.setMe { x with
    copseq := x.copseq + 1
    ring := ({ seq := q, ix := x.pc.toNat, op := op, fn := fn } :: x.ring).take 32 })

/-- Marks a ring entry done, with the flags it raised (R372). -/
def Slot.ringDone (x : Slot) (seq flags : Nat) : Slot :=
  { x with ring := x.ring.map (fun r => if r.seq == seq then { r with done := true, flags := r.flags ||| flags } else r) }

/-- The flags enter FPFLAGS (R202). -/
def Slot.orFlags (x : Slot) (fl : Nat) : Slot := { x with fpflags := x.fpflags ||| BitVec.ofNat 64 fl }

/-- Whether FPCTL traps on one of the flags (R201). -/
def Slot.traps (x : Slot) (fl : Nat) : Bool := (x.fpctl.toNat % 32) &&& fl != 0

/-! The return buffer and its marker (R13 to R19). -/

/-- Outstanding entries, fault records not counted (R15, R128). DEDUCED, unsafe: log 36. -/
def Slot.outstanding (x : Slot) : Nat := (x.rb.filter (fun e => !e.isRec)).length

/-- Writes a buffered value under its mask (R14, R16). -/
def Slot.applyW (x : Slot) (w : RegW) : Slot :=
  match w.cls with
  | .s => x.setS w.idx (BitVec.setWidth 64 w.val)
  | .v => x.setV w.idx ((x.vreg w.idx &&& ~~~ w.mask) ||| (w.val &&& w.mask))
  | .k => x.setK w.idx (BitVec.setWidth 64 w.val)
  | .p => x.setP w.idx (w.val != 0)
  | _ => x

/-- The value an entry's scalar load takes: its bytes extended by its type (R125). -/
def extendTo (ty : Nat) (v : VReg) : VReg :=
  if ty == 0 then v
  else
    let n := tyBits ty
    BitVec.setWidth 2048 (if isSignedTy ty then signExt v.toNat n else zeroExt v.toNat n)

/-- Writes a landed entry: its registers, its flags (R14, R202). -/
def Slot.writeEntry (x : Slot) (e : Entry) : Slot :=
  (e.writes.foldl (fun x w => x.applyW { w with val := if w.cls == .s && e.ext != 0 then extendTo e.ext w.val else w.val }) x).orFlags e.flags

/-- Whether an entry is a recv that is still waited for (R305, R367). -/
def Entry.isRecv (e : Entry) : Bool :=
  match e.form with
  | .mb _ => true | .job _ => true | .fe => true | .feG => true | .chk _ => true | .work => true | .bar _ _ => true
  | _ => false

/-- The mills that a launch holds. -/
def Launch.mills (l : Launch) : List Nat := l.crews.flatMap (fun c => c.getD [])

/-- A context whose budget is spent stops at the next round boundary: once, whichever of its launches have spent theirs (R367). -/
def State.stopContext (s : State) (die ctx : Nat) : State :=
  if s.agenda.any (fun d => match d.what with | .event .waitBudgetExpiry [_, c] => c == ctx | _ => false) then s
  else s.post (nextAt (s.cycle + 1) 32 0) 0 1 .waitBudgetExpiry [die, ctx]

/-- A running launch whose charge has reached its budget stops its context, once for each time that the budget is written (R367).
DEDUCED, unsafe: log 63. -/
def State.checkBudget (s : State) (l : Nat) : State :=
  let x := s.launchOf l
  let wait := fieldOf x.record 319 288 * 1024
  if !x.pending && !x.ended && !x.mills.isEmpty && wait != 0 && !x.spent && decide ((wait : Int) ≤ x.charged) then
    (s.setLaunch l { x with spent := true }).stopContext x.die x.ctx
  else s

/-- A lost issue cycle on a recv is charged to the context: to each of its running launches with a budget; a launch
whose budget is spent stops the context at the die's next round boundary (R305, R367). DEDUCED, unsafe: log 63. -/
def State.chargeWait (s : State) (g : Nat) : State :=
  let ctx := s.ctxOfSlot g
  s.launches.foldl (fun s kl =>
    let l := kl.2
    let wait := fieldOf l.record 319 288 * 1024
    if l.ctx == ctx && !l.pending && !l.ended && !l.mills.isEmpty && wait != 0 then
      (s.setLaunch kl.1 { l with charged := l.charged + 1 }).checkBudget kl.1
    else s) s

/-- The completion of a job has been received: its loan ends (R242). -/
def State.endLoan (s : State) (job : Nat) : State :=
  { s with cores := s.cores.map (fun kc =>
      (kc.1, { kc.2 with loans := kc.2.loans.filter (fun l => l.job != job) })) }

/-- What Marker finds (R14, R19). -/
inductive Marked where
  | parked (s : State)
  | faulted (s : State)
  | done (s : State)

/-- Marker (R14, R19): it parks while an entry has not landed; it writes every entry in issue order; entries with a
fault are kept, and the earliest is reported. Flags of buffered results that meet an enabled trap raise FPX late,
24 cycles after the marker's issue (R206, R223). -/
def State.marker (s : State) : Marked :=
  let x := s.me
  let g := s.cur
  if x.rb.any (fun e => !e.landed) then
    let s := s.park g .marker
    .parked (if x.rb.any (fun e => !e.landed && e.isRecv) then s.chargeWait g else s)
  else
    let good := x.rb.filter (fun e => e.fault.isNone)
    let bad := x.rb.filter (fun e => e.fault.isSome)
    let y := good.foldl Slot.writeEntry { x with rb := bad }
    let y := good.foldl (fun y e => match e.seq with | some q => y.ringDone q e.flags | none => y) y
    let s := s.setMe y
    let s := good.foldl (fun s e => match e.job with | some j => s.endLoan j | none => s) s
    let s := good.foldl (fun s e => match e.seq with
      | some q => if x.traps e.flags then
          (s.updMe (fun y => { y with lateDue := s.cycle + 24 })).post (s.cycle + 24) 8 g
            .lateFault [g, fcFpx, q, e.flags, x.thread, s.ctxOfSlot g]
        else s
      | none => s) s
    match bad with
    | [] => .done s
    | e :: _ =>
      let f := e.fault.getD (0, 0)
      let m := trapMsg g (s.ctxOfSlot g) f.1 1 e.ix f.2 0 0 false
      .faulted ((s.updMe (fun t => { t with st := .stopped f.1, due := none, trapped := some m })).reportFault g (s.cycle + 8) m)

/-- Takes an entry of the return buffer, or a fault record (R13, R128). -/
def State.takeEntry (s : State) (e : Entry) : State := s.updMe (fun x => { x with rb := x.rb ++ [{ e with ix := x.pc.toNat }] })

/-- The place of an access in the order of issue, which an access that is issued again keeps (R19, R383). -/
def Access.order (a : Access) : Nat := if a.ord == 0 then a.uid else a.ord
def Entry.order (e : Entry) : Nat := match e.acc with | some a => a.order | none => e.uid

/-- Puts a record among the entries of a return buffer, in order of issue (R19, R128). DEDUCED, unsafe: log 28. -/
def insertEntry (e : Entry) : List Entry → List Entry
  | [] => [e]
  | y :: t => if e.order < y.order then e :: y :: t else y :: insertEntry e t

/-- Changes the entry with a number, in whichever slot its thread runs now. -/
def State.updEntry (s : State) (g uid : Nat) (f : Entry → Entry) : State :=
  s.updSlot (s.follow g) (fun x => { x with rb := x.rb.map (fun e => if e.uid == uid then f e else e) })

/-- The entry with a number. -/
def State.entry (s : State) (g uid : Nat) : Option Entry := (s.slot (s.follow g)).rb.find? (fun e => e.uid == uid)

/-- Part of a result lands at a cycle (R13). -/
def State.landAt (s : State) (g uid t : Nat) : State := s.post t 1 0 .resultLands [g, uid]

/-- An entry lands at a cycle with a fault instead of its value (R19). -/
def State.faultEntry (s : State) (g uid t code detail : Nat) : State :=
  (s.updEntry g uid (fun e => { e with fault := if e.fault.isNone then some (code, detail) else e.fault, left := 1 })).landAt g uid t

/-- A part of an entry's value: the register write whose class matches takes the bits. -/
def Entry.orVal (e : Entry) (i : Nat) (v : VReg) : Entry :=
  { e with writes := e.writes.mapIdx (fun j w => if j == i then { w with val := w.val ||| v } else w) }

/-! The issue of an instruction. -/

/-- Whether the context accepts the pair and its types (check 1 of R47, R69). -/
def State.featureOk (s : State) (op fn : Nat) (x : Args) : Bool :=
  let acc := (s.context (s.ctxOfSlot s.cur)).featAcc 0
  acc.testBit (featureBit op fn) && (acc.testBit 5 || !usesNarrow x)

/-- The guard (R39). -/
def State.guard (s : State) (x : Args) : Bool := (s.me.preg x.g.toNat) != x.neg

/-- DETAIL of an ILLOP: bits [95:32] of the word (R371). DEDUCED, unsafe: log 31. -/
def illopDetail (w : BitVec 96) : Nat := w.toNat / 2 ^ 32

/-- Issues an instruction: the checks of R47 in order, then Marker where the word carries J, where it would take a
ninth entry (R15) or where the instruction always runs it, then the guard, and then its own effect `body`. DEDUCED, unsafe: log 31. -/
def State.issue (op fn : Nat) (x : Args) (takes always : Bool) (body : State → State) (s : State) : State :=
  if !s.featureOk op fn x || !formatOk op fn x then s.raise fcIllop (illopDetail (encWord op fn x))
  else if isPrivileged op fn x && !isSupervisor s.cur then s.raise fcPriv (if op == 1 then csrOperand fn x else 0)
  else
    let g := s.guard x
    if x.j || (g && (always || (takes && 8 ≤ s.me.outstanding))) then
      match s.marker with
      | .parked s => s
      | .faulted s => s
      | .done s => if g then body s else s.advance
    else if g then body s
    else s.advance

/-- A meaning: the next state of an instruction that takes no return-buffer entry. -/
def plain (op fn : Nat) (x : Args) (s : State) (body : State → State) : Host.Outcome State Fault Refusal :=
  .next (s.issue op fn x false false body)

/-- A meaning: the next state of an instruction that takes a return-buffer entry. -/
def buffered (op fn : Nat) (x : Args) (s : State) (body : State → State) : Host.Outcome State Fault Refusal :=
  .next (s.issue op fn x true false body)

end Sys2Proof.Machine
end

