-- ==== Sys2Proof/Machine/Operands.lean ====
section
/-! DEFINITION. Every operand form: typed scalar operands (R76 to R78), elements and lanes of vector registers (R22,
R203, R204), and the addresses of accesses (R98). -/

namespace Sys2Proof.Machine

open Sys2Proof

/-- Val(T, y): the integer that the low bits of a word represent under T (R78). -/
def valT (t : Nat) (y : Word) : Int :=
  if isSignedTy t then toSigned (tyBits t) y.toNat else ((y.toNat % 2 ^ tyBits t : Nat) : Int)

/-- Ext(T, x): the low n bits of an integer, extended by T (R78). -/
def extT (t : Nat) (x : Int) : Word :=
  let y := ofSigned (tyBits t) x
  if isSignedTy t then signExt y (tyBits t) else zeroExt y (tyBits t)

/-- The low n bits of a word as a natural. -/
def lowT (t : Nat) (y : Word) : Nat := y.toNat % 2 ^ tyBits t

/-- Elements of a register of width `n` (R22). -/
def elemCount (n : Nat) : Nat := 2048 / n

/-- Lane(e): the lane that holds the low bits of element e (R203). -/
def laneOf (n e : Nat) : Nat := e * n / 32

/-- Element e of width n (R22). -/
def vget (n e : Nat) (v : VReg) : Nat := bits v.toNat (n * e + n - 1) (n * e)

/-- The mask of element e of width n. -/
def elemMask (n e : Nat) : VReg := BitVec.ofNat 2048 ((2 ^ n - 1) * 2 ^ (n * e))

/-- The register with element e set. -/
def vset (n e : Nat) (v : VReg) (x : Nat) : VReg :=
  (v &&& ~~~ (elemMask n e)) ||| BitVec.ofNat 2048 (x % 2 ^ n * 2 ^ (n * e))

/-- Whether element e is active under mask k (R203). -/
def activeElem (n : Nat) (k : Word) (e : Nat) : Bool := k.getLsbD (laneOf n e)

/-- A register of N elements computed one by one: an active element takes `f e`, an inactive one keeps its value or
is set to 0 (R203). The flags of active elements are joined (R202). -/
def mapElems (n : Nat) (k : Word) (z : Bool) (old : VReg) (f : Nat → Nat × Nat) : VReg × Nat :=
  let r := (List.range (elemCount n)).foldr (fun e (a : Nat × Nat) =>
    if activeElem n k e then let y := f e; (y.1 % 2 ^ n + 2 ^ n * a.1, y.2 ||| a.2)
    else ((if z then 0 else vget n e old) + 2 ^ n * a.1, a.2)) (0, 0)
  (BitVec.ofNat 2048 r.1, r.2)

/-- Element e of the C operand: a vector's element, or the low bits of a scalar or an immediate (R204). -/
def State.elemC (s : State) (x : Args) (n e : Nat) : Nat :=
  match x.c with
  | .reg .v _ i => vget n e (s.me.vreg i.toNat)
  | o => (s.opVal o).toNat % 2 ^ n

/-- Element e of the vector register that B names. -/
def State.elemB (s : State) (x : Args) (n e : Nat) : Nat := vget n e (s.me.vreg x.b.idx)

/-- The lane mask that M names. -/
def State.maskM (s : State) (x : Args) : Word := s.me.kreg x.mask

/-- Reg(B) + Op(C) on unbounded integers: the base unsigned, the offset signed (R98). -/
def State.baseOff (s : State) (x : Args) : Int :=
  ((s.opVal x.b).toNat : Int) + (s.opVal x.c).toInt

end Sys2Proof.Machine
end

