-- ==== Sys2Proof/Machine/Flags.lean ====
section
/-! DEFINITION. Every flag computation: scalar flags and FPX (R87, R202), vector flags and the late FPX (R206). -/

namespace Sys2Proof.Machine

open Sys2Proof

/-- Ends a scalar floating-point instruction: FPX exactly when its flags meet an enabled trap, with the destination and
FPFLAGS unchanged; else the flags enter FPFLAGS, the destination is written, and the thread goes on (R87, R202). -/
def State.finishScalarFp (s : State) (x : Args) (w : Word) (fl : Nat) : State :=
  if s.me.traps fl then s.raise fcFpx fl
  else ((s.updMe (fun t => t.orFlags fl)).writeA x w).advance

/-- A late fault of the instruction just issued is due 24 cycles after its issue (R206). DEDUCED, unsafe: log 35. -/
def State.lateIn24 (s : State) (code seq detail : Nat) : State :=
  (s.updMe (fun t => { t with lateDue := s.cycle + 24 })).post (s.cycle + 24) 8 s.cur
    .lateFault [s.cur, code, seq, detail, s.me.thread, s.ctxOfSlot s.cur]

/-- Ends a vector instruction: its flags enter FPFLAGS and its ring entry, FPX is raised late when they meet an enabled
trap, and the thread goes on (R202, R206, R372). -/
def State.finishVector (s : State) (seq fl : Nat) : State :=
  let trap := s.me.traps fl
  let s := s.updMe (fun t => { (t.orFlags fl).ringDone seq fl with lateDue := s.cycle + 24 })
  (if trap then s.lateIn24 fcFpx seq fl else s).advance

/-- A vector instruction: it enters the ring and computes, from the state in which it issued, what it writes and the
flags it raises (R204, R206). -/
def vectorBody (op fn : Nat) (f : State → (Slot → Slot) × Nat) (s : State) : State :=
  let (q, s) := s.enterRing op fn
  let r := f s
  (s.updMe r.1).finishVector q r.2

end Sys2Proof.Machine
end

