-- ==== Sys2Proof/Machine/Control.lean ====
section
/-! DEFINITION. The control instructions (R92 to R95), nop (R68), and words that are no instruction (R67). -/

namespace Sys2Proof.Machine

open Sys2Proof

/-- nop has no effect other than its J marker (R68). -/
def execNop (x : Args) (s : State) : Host.Outcome State Fault Refusal := plain 0 0 x s (fun s => s.advance)

/-- A word whose OP and FN are not assigned raises ILLOP exactly, whatever its guard (R67). -/
def execUnassignedOpcode (w : BitVec 96) (s : State) : Host.Outcome State Fault Refusal :=
  .next (s.raise fcIllop (illopDetail w))

/-- A word of an assigned pair whose format is not sound raises ILLOP exactly (check 2 of R47). -/
def State.illFormed (s : State) (w : BitVec 96) : State := s.raise fcIllop (illopDetail w)

/-- The thread goes on at a target, or raises SPACE where it lies outside 0 to 2^32 - 1 (R37, R93); `f` is what else
the instruction writes. -/
def State.branchTo (s : State) (target : Int) (f : State → State) : State :=
  if target < 0 || (2 ^ 32 : Int) ≤ target then s.raise fcSpace (ofSigned 64 target)
  else (f s).jump (BitVec.ofInt 32 target)

/-- pc + off (R37, R92). -/
def State.relTarget (s : State) (x : Args) : Int := (s.me.pc.toNat : Int) + x.c.immInt

/-- The link pc + 1 (R37). DEDUCED, unsafe: log 32. -/
def State.link (s : State) : Word := BitVec.ofNat 64 (s.me.pc.toNat + 1)

def brBody (x : Args) (s : State) : State := s.branchTo (s.relTarget x) id
def briBody (x : Args) (s : State) : State := s.branchTo (s.opVal x.b).toNat id
def callBody (x : Args) (s : State) : State := s.branchTo (s.relTarget x) (fun s => s.writeA x s.link)
def calliBody (x : Args) (s : State) : State := s.branchTo (s.opVal x.b).toNat (fun s => s.writeA x s.link)

/-- dbr: the counter less 1, wrapping; the branch is taken while the register then is not 0 (R92, R94). With A = s0, which
reads 0 after the dropped write too, it never branches. DESIGN CHOICE, unsafe: log 118. -/
def dbrBody (x : Args) (s : State) : State :=
  let n := s.opVal x.a - 1
  let new := if x.a.idx == 0 then 0 else n
  if new != 0 then s.branchTo (s.relTarget x) (fun s => s.writeA x n) else (s.writeA x n).advance

def execBr (x : Args) (s : State) : Host.Outcome State Fault Refusal := plain 0x30 0 x s (brBody x)
def execBri (x : Args) (s : State) : Host.Outcome State Fault Refusal := plain 0x30 1 x s (briBody x)
def execCall (x : Args) (s : State) : Host.Outcome State Fault Refusal := plain 0x30 2 x s (callBody x)
def execCalli (x : Args) (s : State) : Host.Outcome State Fault Refusal := plain 0x30 3 x s (calliBody x)
/-- ret acts exactly as bri does (R92). -/
def execRet (x : Args) (s : State) : Host.Outcome State Fault Refusal := plain 0x30 4 x s (briBody x)
def execDbr (x : Args) (s : State) : Host.Outcome State Fault Refusal := plain 0x30 5 x s (dbrBody x)

/-- The oldest message held for a mailbox is tried on the next cycle, in its producer's order: a packet of the dispatcher with the
packets of its lane, a unit's after them (R284). -/
def State.retryHeld (s : State) (g : Nat) : State :=
  match tget [] s.heldMsgs g with
  | [] => s
  | u :: _ =>
    let m := (s.sent u).msg
    s.post (s.cycle + 1) 1 (if m.kind == 5 then 100 + coreIx g else 800 + bits m.hdr.toNat 34 32) .heldMessageRetry [g]

/-- A slot that its thread has left. A launch's dispatcher looks whether the task has ended, the cluster's migration
queue and dispenser see the slot (R72, R95, R359, R361). A `recv.fe` that
waits for its word stays on the word's list: it takes a fill, whose word is lost (R18, R154). DEDUCED, unsafe: log 82.
DEDUCED, unsafe: log 107. DEDUCED, unsafe: log 108. DESIGN CHOICE, unsafe: log 120. DESIGN CHOICE, unsafe: log 131. -/
def State.emptySlot (s : State) (g : Nat) : State :=
  let x := s.slot g
  let c := clusterOf g
  let m := s.mill (millOf g)
  -- the slots that forward to it (R73)
  let aliases := (s.slots.filter (fun kx => kx.2.st == .forwarding && s.follow kx.1 == g)).map (·.1)
  -- steps the thread staged and has not closed are discarded, on its former cores too (R238)
  let s := (g :: aliases).foldl (fun s h =>
    let core := s.core (coreOf h)
    s.setCore (coreOf h) { core with staging := core.staging.filter (fun t => t.slot != h || t.batch != 0) }) s
  -- its accesses are still performed, and those held inside the core still leave (R18)
  let s := s.setSlot g { open_ := x.open_.map (fun p => { p with old := true, seq := none }), held := x.held, sending := x.sending }
  let s := aliases.foldl (fun s h => ((s.setSlot h {}).post s.cycle 3 (h % 128) .migrationQueueServe [clusterOf h]).post s.cycle 3 900 .dispenserHandout [clusterOf h]) s
  let s := s.post s.cycle 3 (g % 128) .migrationQueueServe [c]
  let s := s.retryHeld g
  let s := s.post s.cycle 3 900 .dispenserHandout [c]
  match m.launch with
  | some l => s.post (s.cycle + 1) 8 m.crew .taskEnd [l, m.crew]
  | none => s

/-- exit ends the thread without writing outstanding entries; accesses already issued are still performed, and the
slot empties at this issue cycle (R18, R95). -/
def execExit (x : Args) (s : State) : Host.Outcome State Fault Refusal :=
  plain 0x30 6 x s (fun s => s.emptySlot s.cur)

end Sys2Proof.Machine
end

