-- ==== Sys2Proof/Machine/Scalar.lean ====
section
/-! DEFINITION. Scalar integer, compare, select, move and immediate instructions (R76 to R84), scalar floating point
(R85 to R90) and predicate logic (R91). -/

namespace Sys2Proof.Machine

open Sys2Proof

abbrev Result := Host.Outcome State Fault Refusal

/-! Integer arithmetic and logic (R78, R79). -/

/-- The shift count: the low six bits of C modulo n. -/
def shiftCount (t : Nat) (c : Word) : Nat := c.toNat % 64 % tyBits t

/-- The low n bits of B under T, as .n and as .i of width n. -/
def unsignedB (t : Nat) (b : Word) : Nat := lowT t b
def signedB (t : Nat) (b : Word) : Int := toSigned (tyBits t) b.toNat

/-- The quotient of R79. -/
def divQ (t : Nat) (b c : Int) : Int :=
  if c == 0 then (if isSignedTy t then -1 else (2 ^ tyBits t : Nat) - 1) else Int.tdiv b c

/-- The remainder of R79. -/
def divR (b c : Int) : Int := if c == 0 then b else Int.tmod b c

/-- Left rotation of the low n bits. -/
def rolT (t : Nat) (b c : Word) : Nat :=
  let n := tyBits t
  let k := shiftCount t c
  let u := unsignedB t b
  (u * 2 ^ k + u / 2 ^ (n - k)) % 2 ^ n

/-- The exact integer x of R78 by FN. -/
def intOp (fn t : Nat) (bw cw : Word) : Int :=
  let b := valT t bw
  let c := valT t cw
  match fn with
  | 0 => b + c
  | 1 => b - c
  | 2 => b * c
  | 3 => (b * c) / (2 ^ tyBits t : Nat)
  | 4 => (b * c) / (2 ^ tyBits t : Nat)
  | 5 => divQ t b c
  | 6 => divQ t b c
  | 7 => divR b c
  | 8 => divR b c
  | 9 => ((bw &&& cw).toNat : Int)
  | 10 => ((bw ||| cw).toNat : Int)
  | 11 => ((bw ^^^ cw).toNat : Int)
  | 12 => ((bw &&& ~~~ cw).toNat : Int)
  | 13 => ((bw ||| ~~~ cw).toNat : Int)
  | 14 => b * (2 ^ shiftCount t cw : Nat)
  | 15 => ((unsignedB t bw / 2 ^ shiftCount t cw : Nat) : Int)
  | 16 => signedB t bw / (2 ^ shiftCount t cw : Nat)
  | 17 => (rolT t bw cw : Int)
  | 18 => min b c
  | 19 => min b c
  | 20 => max b c
  | _ => max b c

/-- An instruction of OP 0x10: Reg(A) := Ext(T, x). -/
def intBody (fn : Nat) (x : Args) (s : State) : State :=
  (s.writeA x (extT x.ty (intOp fn x.ty (s.opVal x.b) (s.opVal x.c)))).advance

def execAdd (x : Args) (s : State) : Result := plain 0x10 0 x s (intBody 0 x)
def execSub (x : Args) (s : State) : Result := plain 0x10 1 x s (intBody 1 x)
def execMul (x : Args) (s : State) : Result := plain 0x10 2 x s (intBody 2 x)
def execMulh (x : Args) (s : State) : Result := plain 0x10 3 x s (intBody 3 x)
def execMulhn (x : Args) (s : State) : Result := plain 0x10 4 x s (intBody 4 x)
def execDiv (x : Args) (s : State) : Result := plain 0x10 5 x s (intBody 5 x)
def execDivn (x : Args) (s : State) : Result := plain 0x10 6 x s (intBody 6 x)
def execRem (x : Args) (s : State) : Result := plain 0x10 7 x s (intBody 7 x)
def execRemn (x : Args) (s : State) : Result := plain 0x10 8 x s (intBody 8 x)
def execAnd (x : Args) (s : State) : Result := plain 0x10 9 x s (intBody 9 x)
def execOr (x : Args) (s : State) : Result := plain 0x10 10 x s (intBody 10 x)
def execXor (x : Args) (s : State) : Result := plain 0x10 11 x s (intBody 11 x)
def execAndn (x : Args) (s : State) : Result := plain 0x10 12 x s (intBody 12 x)
def execOrn (x : Args) (s : State) : Result := plain 0x10 13 x s (intBody 13 x)
def execShl (x : Args) (s : State) : Result := plain 0x10 14 x s (intBody 14 x)
def execShr (x : Args) (s : State) : Result := plain 0x10 15 x s (intBody 15 x)
def execSra (x : Args) (s : State) : Result := plain 0x10 16 x s (intBody 16 x)
def execRol (x : Args) (s : State) : Result := plain 0x10 17 x s (intBody 17 x)
def execMin (x : Args) (s : State) : Result := plain 0x10 18 x s (intBody 18 x)
def execMinn (x : Args) (s : State) : Result := plain 0x10 19 x s (intBody 19 x)
def execMax (x : Args) (s : State) : Result := plain 0x10 20 x s (intBody 20 x)
def execMaxn (x : Args) (s : State) : Result := plain 0x10 21 x s (intBody 21 x)

/-! Bit counts and bit fields (R80, R81). -/

/-- One bits among the low n. -/
def popCount (n u : Nat) : Nat := (List.range n).foldl (fun a i => a + (if u.testBit i then 1 else 0)) 0
/-- Zero bits above the highest one bit of the low n. -/
def leadZeros (n u : Nat) : Nat := if u % 2 ^ n == 0 then n else n - 1 - Nat.log2 (u % 2 ^ n)
/-- Zero bits below the lowest one bit of the low n. -/
def trailZeros (n u : Nat) : Nat := ((List.range n).find? (fun i => u.testBit i)).getD n

/-- A bit count of B, zero-extended for every type (R80). -/
def countBody (f : Nat → Nat → Nat) (x : Args) (s : State) : State :=
  (s.writeA x (BitVec.ofNat 64 (f (tyBits x.ty) (lowT x.ty (s.opVal x.b))))).advance

def execClz (x : Args) (s : State) : Result := plain 0x11 0 x s (countBody leadZeros x)
def execCtz (x : Args) (s : State) : Result := plain 0x11 1 x s (countBody trailZeros x)
def execPopc (x : Args) (s : State) : Result := plain 0x11 2 x s (countBody popCount x)

/-- Position and width of a field descriptor (R81). -/
def fieldPos (c : Word) : Nat := c.toNat % 64
def fieldWidth (c : Word) : Nat := min (bits c.toNat 12 6) 64

/-- The field f of R81. -/
def fieldVal (t : Nat) (b c : Word) : Nat := (lowT t b >>> fieldPos c) % 2 ^ fieldWidth c

/-- bfx: the field, sign-extended from its width. -/
def bfxVal (t : Nat) (b c : Word) : Word :=
  let w := fieldWidth c
  extT t (if w == 0 then 0 else toSigned w (fieldVal t b c))

/-- bfi: the field of the old Reg(A) replaced by the low bits of B. -/
def bfiVal (t : Nat) (a b c : Word) : Word :=
  let n := tyBits t
  let m := ((2 ^ fieldWidth c - 1) <<< fieldPos c) % 2 ^ n
  extT t (((lowT t a &&& (2 ^ n - 1 - m)) ||| ((b.toNat <<< fieldPos c) &&& m) : Nat) : Int)

def execBfx (x : Args) (s : State) : Result :=
  plain 0x11 3 x s (fun s => (s.writeA x (bfxVal x.ty (s.opVal x.b) (s.opVal x.c))).advance)
def execBfxn (x : Args) (s : State) : Result :=
  plain 0x11 4 x s (fun s => (s.writeA x (extT x.ty (fieldVal x.ty (s.opVal x.b) (s.opVal x.c) : Nat))).advance)
def execBfi (x : Args) (s : State) : Result :=
  plain 0x11 5 x s (fun s => (s.writeA x (bfiVal x.ty (s.opVal x.a) (s.opVal x.b) (s.opVal x.c))).advance)

/-! Compare, select, move, immediates (R82 to R84). -/

/-- The relation of R82 by FN. -/
def intCompare (fn : Nat) (b c : Int) : Bool :=
  match fn with
  | 0 => b == c
  | 1 => b != c
  | 2 => decide (b < c)
  | 4 => decide (b < c)
  | _ => decide (b ≤ c)

/-- A bit as a word. -/
def boolWord (b : Bool) : Word := if b then 1 else 0

def cmpBody (fn : Nat) (x : Args) (s : State) : State :=
  (s.writeA x (boolWord (intCompare fn (valT x.ty (s.opVal x.b)) (valT x.ty (s.opVal x.c))))).advance

def execCmpEq (x : Args) (s : State) : Result := plain 0x12 0 x s (cmpBody 0 x)
def execCmpNe (x : Args) (s : State) : Result := plain 0x12 1 x s (cmpBody 1 x)
def execCmpLt (x : Args) (s : State) : Result := plain 0x12 2 x s (cmpBody 2 x)
def execCmpLe (x : Args) (s : State) : Result := plain 0x12 3 x s (cmpBody 3 x)
def execCmpLtn (x : Args) (s : State) : Result := plain 0x12 4 x s (cmpBody 4 x)
def execCmpLen (x : Args) (s : State) : Result := plain 0x12 5 x s (cmpBody 5 x)

/-- sel: B when predicate p(M) is true, else C, on all 64 bits (R83). -/
def execSel (x : Args) (s : State) : Result :=
  plain 0x13 0 x s (fun s => (s.writeA x (if s.me.preg x.mask then s.opVal x.b else s.opVal x.c)).advance)
/-- mov: Reg(B) on all 64 bits, a predicate as 0 or 1 (R83). -/
def execMov (x : Args) (s : State) : Result :=
  plain 0x13 1 x s (fun s => (s.writeA x (s.opVal x.b)).advance)

/-- The 44-bit long immediate of B and C, sign-extended (R41, R84). -/
def longImm (x : Args) : Word :=
  match x.b, x.c with
  | .limm b, .limm c => (b ++ c).signExtend 64
  | _, _ => 0

def execLi (x : Args) (s : State) : Result :=
  plain 0x18 0 x s (fun s => (s.writeA x (longImm x)).advance)
/-- lih: bits [63:44] from C[19:0], bits [43:0] unchanged (R84). -/
def execLih (x : Args) (s : State) : Result :=
  plain 0x18 1 x s (fun s =>
    (s.writeA x (BitVec.ofNat 64 ((s.opVal x.a).toNat % 2 ^ 44 + (s.opVal x.c).toNat % 2 ^ 20 * 2 ^ 44))).advance)

/-! Scalar floating point (R85 to R90). -/

/-- The floating-point value in the low bits of a word (R85). -/
def fpVal (t : Nat) (w : Word) : Num := decodeFloat t (lowT t w)

/-- The exact result of an operation of OP 0x20 by FN and the flags of forming it (R86). -/
def fpOp (fn rm : Nat) (b c a : Num) : Num × Nat :=
  match fn with
  | 0 => numAdd rm b c
  | 1 => numAdd rm b c.neg
  | 2 => numMul b c
  | 3 => numFma rm b c a
  | 4 => numDiv b c
  | _ => numSqrt b

/-- The code and the flags of an exact result rounded once (R86, R182). -/
def roundRes (t rm : Nat) (p : Num × Nat) : Nat × Nat :=
  let r := roundTo t p.1 rm 0
  (r.1, r.2 ||| p.2)

def fpBody (fn : Nat) (x : Args) (s : State) : State :=
  let v := fun o => fpVal x.ty (s.opVal o)
  let r := roundRes x.ty x.rm (fpOp fn x.rm (v x.b) (v x.c) (v x.a))
  s.finishScalarFp x (BitVec.ofNat 64 r.1) r.2

def execFadd (x : Args) (s : State) : Result := plain 0x20 0 x s (fpBody 0 x)
def execFsub (x : Args) (s : State) : Result := plain 0x20 1 x s (fpBody 1 x)
def execFmul (x : Args) (s : State) : Result := plain 0x20 2 x s (fpBody 2 x)
def execFfma (x : Args) (s : State) : Result := plain 0x20 3 x s (fpBody 3 x)
def execFdiv (x : Args) (s : State) : Result := plain 0x20 4 x s (fpBody 4 x)
def execFsqrt (x : Args) (s : State) : Result := plain 0x20 5 x s (fpBody 5 x)

def fpMinMaxBody (larger : Bool) (x : Args) (s : State) : State :=
  let r := floatMinMax x.ty larger (lowT x.ty (s.opVal x.b)) (lowT x.ty (s.opVal x.c))
  s.finishScalarFp x (BitVec.ofNat 64 r.1) r.2

def execFmin (x : Args) (s : State) : Result := plain 0x20 6 x s (fpMinMaxBody false x)
def execFmax (x : Args) (s : State) : Result := plain 0x20 7 x s (fpMinMaxBody true x)

/-- fcvt: the value under T2, rounded to T under RM; an integer result is extended by T (R88). -/
def fcvtBody (x : Args) (s : State) : State :=
  let r := roundTo x.ty (decodeElem x.ty2 (lowT x.ty2 (s.opVal x.b))) x.rm 0
  let w := if isFloat x.ty then BitVec.ofNat 64 r.1 else extT x.ty (r.1 : Nat)
  s.finishScalarFp x w r.2

def execFcvt (x : Args) (s : State) : Result := plain 0x21 0 x s (fcvtBody x)
/-- fclass: exactly one bit of the ten, no flag (R89). -/
def execFclass (x : Args) (s : State) : Result :=
  plain 0x21 1 x s (fun s => (s.writeA x (BitVec.ofNat 64 (2 ^ floatClass x.ty (lowT x.ty (s.opVal x.b))))).advance)

def fcmpBody (fn : Nat) (x : Args) (s : State) : State :=
  let r := floatCompare fn (fpVal x.ty (s.opVal x.b)) (fpVal x.ty (s.opVal x.c))
  s.finishScalarFp x (boolWord r.1) r.2

def execFcmpEq (x : Args) (s : State) : Result := plain 0x22 0 x s (fcmpBody 0 x)
def execFcmpNe (x : Args) (s : State) : Result := plain 0x22 1 x s (fcmpBody 1 x)
def execFcmpLt (x : Args) (s : State) : Result := plain 0x22 2 x s (fcmpBody 2 x)
def execFcmpLe (x : Args) (s : State) : Result := plain 0x22 3 x s (fcmpBody 3 x)
def execFcmpUn (x : Args) (s : State) : Result := plain 0x22 4 x s (fcmpBody 4 x)

/-! Predicate logic (R91). -/

def predBody (f : Bool → Bool → Bool) (x : Args) (s : State) : State :=
  (s.writeA x (boolWord (f (s.opVal x.b != 0) (s.opVal x.c != 0)))).advance

def execPand (x : Args) (s : State) : Result := plain 0x28 0 x s (predBody (fun b c => b && c) x)
def execPor (x : Args) (s : State) : Result := plain 0x28 1 x s (predBody (fun b c => b || c) x)
def execPxor (x : Args) (s : State) : Result := plain 0x28 2 x s (predBody (fun b c => b != c) x)
def execPnot (x : Args) (s : State) : Result := plain 0x28 3 x s (predBody (fun b _ => !b) x)
def execPmov (x : Args) (s : State) : Result := plain 0x28 4 x s (predBody (fun b _ => b) x)

end Sys2Proof.Machine
end

