-- ==== Sys2Proof/Machine/Csr.lean ====
section
/-! DEFINITION. Control registers (R26, R70, R144, R200, R201, R299, R364, R365), trap (R382), the supervisor's reads and
writes of slots (R383, R384), and the cam tables (R142 to R144, R159, R171, R172). -/

namespace Sys2Proof.Machine

open Sys2Proof

/-- The skyclock in parts of a ns, of which a ns holds 21,000,000: the clock's rate is 1.05 GHz, adjusted in parts per million
(R3, R300), so that a cycle is a whole number of them. -/
def State.skyParts (s : State) : Nat := s.skyTime + (((s.cycle - s.skyAt : Nat) : Int) * 20 * (1000000 + s.skyPpm)).toNat

/-- SKYTIME.TIME in ns (R299). The whole ns round down. DESIGN CHOICE, unsafe: log 138. -/
def State.skyNow (s : State) : Nat := s.skyParts / 21000000

/-- A row of an inner cam table (R144). -/
def camRow (t : BitVec 192) (sel : Nat) : Nat := bits t.toNat (24 * sel + 23) (24 * sel)

/-- LATEPEND (R365). -/
def Slot.latepend (x : Slot) : Word :=
  match x.late with
  | some (code, seq) => BitVec.ofNat 64 (2 ^ 63 + code * 2 ^ 32 + seq)
  | none => 0

/-- The launch that runs on the mill of a slot. -/
def State.millLaunch (s : State) (g : Nat) : Option Launch := (s.mill (millOf g)).launch.map s.launchOf

/-- The value of a CSR for the running slot (R26, R365). DEDUCED, unsafe: log 37.
In a supervisor slot, whose thread runs no task,
TASKIX is the slot's own field and CREWN that of launch 0's record. DESIGN CHOICE, unsafe: log 151. -/
def State.csrRead (s : State) (n : Nat) : Word :=
  let g := s.cur
  let x := s.me
  let l := s.launchOf x.launch
  let m := s.mill (millOf g)
  let nat := BitVec.ofNat 64
  if n == 0 then nat (slotIx g)
  else if n == 1 then nat (coreIx g)
  else if n == 2 then nat (clusIx g)
  else if n == 3 then nat (millIx g)
  else if n == 4 then nat (dieOf g)
  else if n == 5 then nat s.part.pkgix
  else if n == 8 then nat x.task
  else if n == 9 then nat m.crewIx
  else if n == 10 then nat (fieldOf l.record 196 192)
  else if n == 0x10 then nat (fieldOf l.record 191 128)
  else if n == 0x11 then nat l.id
  else if n == 0x18 then nat (if hasG g then 1 else 0)
  else if n == 0x20 then nat s.cycle
  else if n == 0x21 then nat ((if s.skyUnsync then 2 ^ 63 else 0) + s.skyNow % 2 ^ 63)
  else if n == 0x30 then x.fpctl
  else if n == 0x31 then x.fpflags
  else if n == 0x40 then x.copseq.setWidth 64
  else if n == 0x41 then x.latepend
  else if n == 0x50 then
    (match s.millLaunch g with
    | some l => nat (((fieldOf l.record 319 288 * 1024 : Nat) - l.charged).toNat / 1024)
    | none => 0)
  else if n == 0x51 then
    (match (s.millLaunch g).bind (·.sliceEnd) with
    | some e => nat ((e - s.cycle) / 1024)
    | none => 0)
  else if n == 0x60 then nat (fieldOf l.record 376 320)
  else if 0x100 ≤ n && n ≤ 0x103 then nat ((s.context l.ctx).featAcc (n - 0x100))
  else if n == 0x108 then nat featAdv0
  else if n == 0x200 then
    nat ((if m.camPend then 2 ^ 63 else 0) + x.camSel * 2 ^ 56 + camRow m.camInStg x.camSel * 2 ^ 24 + camRow m.camInAct x.camSel)
  else if n == 0x201 then nat (m.camOutStg.toNat * 2 ^ 32 + m.camOutAct.toNat)
  else 0

/-- A write of a CSR; reserved bits are ignored as each map gives (R144, R200, R201, R382). DEDUCED, unsafe: log 37. -/
def State.csrWrite (s : State) (n : Nat) (w : Word) : State :=
  if n == 0x30 then s.updMe (fun x => { x with fpctl := w &&& 0x11F })
  else if n == 0x31 then s.updMe (fun x => { x with fpflags := w &&& 0x1F })
  else if n == 0x200 then s.updMe (fun x => { x with camSel := bits w.toNat 58 56 })
  else if n == 0x50 then
    (match (s.mill (millOf s.cur)).launch with
    | some l =>
      let x := s.launchOf l
      let wait := fieldOf x.record 319 288
      (s.setLaunch l { x with charged := (wait * 1024 : Nat) - (w.toNat * 1024 : Nat), spent := false }).checkBudget l
    | none => s)
  else if n == 0x51 then
    (match (s.mill (millOf s.cur)).launch with
    | some l =>
      let e := s.cycle + w.toNat * 1024
      (s.updLaunch l (fun l => { l with sliceEnd := some e })).post e 0 2 .sliceExpiry [l]
    | none => s)
  else s

def execCsrr (x : Args) (s : State) : Result :=
  plain 0x01 0 x s (fun s => (s.writeA x (s.csrRead x.b.idx)).advance)
def execCsrw (x : Args) (s : State) : Result :=
  plain 0x01 1 x s (fun s => (s.csrWrite x.a.idx (s.opVal x.b)).advance)
/-- csrx: the old value is read, C is written, then Reg(A) := the old value (R382). -/
def execCsrx (x : Args) (s : State) : Result :=
  plain 0x01 2 x s (fun s =>
    let old := s.csrRead x.b.idx
    ((s.csrWrite x.b.idx (s.opVal x.c)).writeA x old).advance)

/-- trap raises Fault(0x00, imm) (R382). -/
def execTrap (x : Args) (s : State) : Result :=
  plain 0x00 1 x s (fun s => s.raise fcTrap x.c.immInt.toNat)

/-! The supervisor's instructions. -/

/-- The state code of R383. DEDUCED, unsafe: log 62. -/
def SlotSt.code : SlotSt → Nat
  | .empty => 0 | .running => 1 | .parked _ => 2 | .stopped _ => 3 | .halted => 4
  | .forwarding => 5 | .reserved => 5 | .migrating => 5

/-- Return-buffer entry k, fault records not counted. DEDUCED, unsafe: log 36. -/
def Slot.entryK (x : Slot) (k : Nat) : Option Entry := (x.rb.filter (fun e => !e.isRec))[k]?

/-- A mask over the entries of the return buffer. DEDUCED, unsafe: log 36. -/
def Slot.entryMask (x : Slot) (f : Entry → Bool) : Nat :=
  packBits 1 ((x.rb.filter (fun e => !e.isRec)).map (fun e => if f e then 1 else 0))

/-- The item that a selector names; none for a selector not in R384. DEDUCED, unsafe: log 62. -/
def Slot.select (x : Slot) (sel : Nat) : Option Word :=
  let nat := BitVec.ofNat 64
  if sel < 0x40 then some (x.sreg sel)
  else if sel < 0x48 then some (if x.preg (sel - 0x40) then 1 else 0)
  else if sel < 0x50 then some (x.kreg (sel - 0x48))
  else if sel == 0x50 then some (x.pc.setWidth 64)
  else if sel == 0x51 then some (nat (x.st.code + (match x.st with | .stopped c => c * 256 | _ => 0)))
  else if sel == 0x52 then some x.fpctl
  else if sel == 0x53 then some x.fpflags
  else if sel == 0x54 then some (x.copseq.setWidth 64)
  else if sel == 0x55 then some x.latepend
  else if sel == 0x56 then
    some (nat (x.outstanding % 16 + x.entryMask (·.landed) * 256 + x.entryMask (·.fault.isSome) * 65536))
  else if 0x60 ≤ sel && sel < 0x70 then
    let w := (x.entryK ((sel - 0x60) / 2)).bind (fun e => (e.writes.head?).map (fun w => (w, e)))
    some (match w with
      | some (w, e) =>
        if sel % 2 == 0 then (extendTo e.ext w.val).setWidth 64 else nat (w.idx + w.cls.code * 64)
      | none => 0)
  else if 0x80 ≤ sel && sel < 0xC0 then
    some (match x.ring[(sel - 0x80) / 2]? with
      | some r => nat (if sel % 2 == 0 then r.pack % 2 ^ 64 else r.pack / 2 ^ 64)
      | none => 0)
  else if 0x1000 ≤ sel && sel < 0x1800 then
    some (nat (vget 32 ((sel - 0x1000) % 64) (x.vreg ((sel - 0x1000) / 64))))
  else none

/-- A write of an item; none for a read-only selector or one not in R384. -/
def Slot.assign (x : Slot) (sel : Nat) (w : Word) : Option Slot :=
  if sel < 0x40 then some (x.setS sel w)
  else if sel < 0x48 then some (x.setP (sel - 0x40) (w.getLsbD 0))
  else if sel < 0x50 then some (x.setK (sel - 0x48) w)
  else if sel == 0x50 then some { x with pc := w.setWidth 32 }
  else if sel == 0x52 then some { x with fpctl := w &&& 0x11F }
  else if sel == 0x53 then some { x with fpflags := w &&& 0x1F }
  else if 0x1000 ≤ sel && sel < 0x1800 then
    some (x.setV ((sel - 0x1000) / 64) (vset 32 ((sel - 0x1000) % 64) (x.vreg ((sel - 0x1000) / 64)) w.toNat))
  else none

/-- Whether a target lies in the issuer's cluster; otherwise SPACE (R383). -/
def State.targetOk (s : State) (t : Nat) : Bool := t / 128 == s.cur / 128

/-- An instruction on a target slot: SPACE for a target elsewhere, ILLOP where it must not name itself. -/
def onTarget (fn : Nat) (x : Args) (self : Bool) (body : Nat → State → State) (s : State) : State :=
  let t := (s.opVal x.b).toNat
  if !s.targetOk t then s.raise fcSpace t
  else if !self && t == s.cur then s.raise fcIllop (illopDetail (encWord 2 fn x))
  else body t s

/-- slotr (R384): a target in state 0 reads 0 everywhere, one in state 5 reads 5 at 0x0051 and 0 elsewhere. -/
def slotrBody (x : Args) (s : State) : State :=
  onTarget 0 x true (fun t s =>
    let sel := (s.opVal x.c).toNat
    let y := s.slot t
    match y.select sel with
    | none => s.raise fcIllop (illopDetail (encWord 2 0 x))
    | some w =>
      let w := if y.st.code == 0 then 0 else if y.st.code == 5 then (if sel == 0x51 then 5 else 0) else w
      (s.writeA x w).advance) s

/-- slotw (R383, R384): only on a stopped target. -/
def slotwBody (x : Args) (s : State) : State :=
  onTarget 1 x false (fun t s =>
    let y := s.slot t
    let bad := s.raise fcIllop (illopDetail (encWord 2 1 x))
    if y.st.code != 3 && y.st.code != 4 then bad
    else match y.assign (s.opVal x.c).toNat (s.opVal x.a) with
      | none => bad
      | some y => (s.setSlot t y).advance) s

/-- slotstop (R383): a slot of state 1 or 2 stops from its next issue cycle; its waits stay entered. -/
def slotstopBody (x : Args) (s : State) : State :=
  onTarget 3 x false (fun t s =>
    let y := s.slot t
    let s := if y.st.code == 1 || y.st.code == 2 then s.setSlot t { y with st := .halted, due := none } else s
    (s.writeA x (BitVec.ofNat 64 y.st.code)).advance) s

def execSlotr (x : Args) (s : State) : Result := plain 0x02 0 x s (slotrBody x)
def execSlotw (x : Args) (s : State) : Result := plain 0x02 1 x s (slotwBody x)
def execSlotstop (x : Args) (s : State) : Result := plain 0x02 3 x s (slotstopBody x)

/-! The cam tables. -/

/-- Entry (row, col) of a table of `n`-bit entries in rows of `k`. -/
def camEntry (n k t row col : Nat) : Nat := bits t (n * (k * row + col) + n - 1) (n * (k * row + col))

/-- Whether a table is a Latin square of order k (R143). -/
def latin (n k t : Nat) : Bool :=
  (List.range k).all (fun r => (List.range k).all (fun v => (List.range k).any (fun c => camEntry n k t r c == v)))
  && (List.range k).all (fun c => (List.range k).all (fun v => (List.range k).any (fun r => camEntry n k t r c == v)))

/-- camw (R171): both tables must be Latin squares and s(B+3)[63:32] 0, or CAMBAD. -/
def camwBody (x : Args) (s : State) : State :=
  let v := (s.grp x.b 0).toNat + (s.grp x.b 1).toNat * 2 ^ 64 + (s.grp x.b 2).toNat * 2 ^ 128
  let o := (s.grp x.b 3).toNat
  if !latin 3 8 v || !latin 2 4 (o % 2 ^ 32) || 2 ^ 32 ≤ o then s.raise fcCambad 0
  else (s.updMill (millOf s.cur) (fun m =>
    { m with camInStg := BitVec.ofNat 192 v, camOutStg := BitVec.ofNat 32 o })).advance

/-- camsw (R159, R172): the switch waits for the first round boundary after this cycle; while one waits nothing
changes. -/
def camswBody (s : State) : State :=
  let m := millOf s.cur
  let s := if (s.mill m).camPend then s
    else (s.updMill m (fun m => { m with camPend := true })).post (nextAt (s.cycle + 1) 32 0) 0 0 .camSwitch [m]
  s.advance

def execCamw (x : Args) (s : State) : Result := plain 0x04 0 x s (camwBody x)
def execCamsw (x : Args) (s : State) : Result := plain 0x04 1 x s camswBody

end Sys2Proof.Machine
end

