-- ==== Sys2Proof/Machine/Vector.lean ====
section
/-! DEFINITION. The vector instructions that work inside the core (R203 to R221, R226, R227). -/

namespace Sys2Proof.Machine

open Sys2Proof

/-- The integer that an n-bit element represents under T (R78). -/
def elemInt (t y : Nat) : Int := valT t (BitVec.ofNat 64 y)

/-- A register of elements: element e of A from element e of B, of C and of the old A (R203, R204). -/
def elementwise (x : Args) (f : Nat → Nat → Nat → Nat → Nat × Nat) (s : State) : (Slot → Slot) × Nat :=
  let n := tyBits x.ty
  let old := s.me.vreg x.a.idx
  let r := mapElems n (s.maskM x) x.z old (fun e => f e (s.elemB x n e) (s.elemC x n e) (vget n e old))
  (fun y => y.setV x.a.idx r.1, r.2)

/-- Lanes of 32 bits, whatever the data (R212). -/
def lanewise (x : Args) (f : Nat → Nat) (s : State) : (Slot → Slot) × Nat :=
  let r := mapElems 32 (s.maskM x) x.z (s.me.vreg x.a.idx) (fun i => (f i, 0))
  (fun y => y.setV x.a.idx r.1, 0)

/-- vadd, vsub, vmul, vfma, vfms on one element (R207). -/
def vArith (fn : Nat) (x : Args) (_ b c a : Nat) : Nat × Nat :=
  let t := x.ty
  if isFloat t then
    let v := decodeFloat t
    roundRes t x.rm (if fn == 4 then numFma x.rm (v b).neg (v c) (v a) else fpOp fn x.rm (v b) (v c) (v a))
  else
    let i := elemInt t
    (ofSigned (tyBits t) (match fn with | 0 => i b + i c | 1 => i b - i c | _ => i b * i c), 0)

/-- vmin, vmax on one element (R208). -/
def vMinMax (larger : Bool) (x : Args) (_ b c _ : Nat) : Nat × Nat :=
  let t := x.ty
  if isFloat t then floatMinMax t larger b c
  else (if decide (elemInt t b ≤ elemInt t c) != larger then b else c, 0)

/-- vabs, vneg on one element: sign operations, which pass a NaN unchanged (R208). -/
def vSign (negate : Bool) (x : Args) (_ b _ _ : Nat) : Nat × Nat :=
  let t := x.ty
  let n := tyBits t
  if isFloat t then (if (decodeFloat t b).isNan then b else if negate then (b + 2 ^ (n - 1)) % 2 ^ n else b % 2 ^ (n - 1), 0)
  else (ofSigned n (if negate then -(elemInt t b) else ((elemInt t b).natAbs : Int)), 0)

/-- Logic and shifts on one element (R209). -/
def vLogic (fn : Nat) (x : Args) (_ b c _ : Nat) : Nat × Nat :=
  let w := BitVec.ofNat 64 b
  let v := BitVec.ofNat 64 c
  (ofSigned (tyBits x.ty) (intOp (match fn with | 0 => 9 | 1 => 10 | 2 => 11 | 3 => 14 | 4 => 15 | _ => 16) x.ty w v), 0)

/-- The element whose relation bit i of a lane mask holds: by width and part (R210). -/
def maskElem (n f i : Nat) : Nat := if n == 64 then i / 2 else if n == 32 then i else i * (32 / n) + f

/-- A vector compare: lane-mask register k(A) and the flags (R210). -/
def vCompare (fn : Nat) (x : Args) (s : State) : (Slot → Slot) × Nat :=
  let t := x.ty
  let n := tyBits t
  let k := s.maskM x
  let old := s.me.kreg x.a.idx
  let rel := fun e =>
    let b := s.elemB x n e
    let c := s.elemC x n e
    if isFloat t then floatCompare (if fn == 6 then 4 else fn) (decodeFloat t b) (decodeFloat t c)
    else (intCompare fn (elemInt t b) (elemInt t c), 0)
  let r := (List.range 64).foldr (fun i (a : Nat × Nat) =>
    let e := maskElem n x.f i
    if activeElem n k e then let y := rel e; ((if y.1 then 1 else 0) + 2 * a.1, y.2 ||| a.2)
    else ((if !x.z && old.getLsbD i then 1 else 0) + 2 * a.1, a.2)) (0, 0)
  (fun y => y.setK x.a.idx (BitVec.ofNat 64 r.1), r.2)

/-- vsel: every lane is written (R212). -/
def vSelect (x : Args) (s : State) : (Slot → Slot) × Nat :=
  let k := s.maskM x
  let r := mapElems 32 (BitVec.allOnes 64) false 0
    (fun i => (if k.getLsbD i then s.elemB x 32 i else s.elemC x 32 i, 0))
  (fun y => y.setV x.a.idx r.1, 0)

def vPermute (x : Args) (s : State) : (Slot → Slot) × Nat :=
  lanewise x (fun i => s.elemB x 32 (s.elemC x 32 i % 64)) s

def vSlide (x : Args) (s : State) : (Slot → Slot) × Nat :=
  let k := (s.opVal x.c).toInt
  lanewise x (fun i => let j := (i : Int) + k; if 0 ≤ j && j ≤ 63 then s.elemB x 32 j.toNat else 0) s

def vBroadcast (x : Args) (s : State) : (Slot → Slot) × Nat :=
  let n := tyBits x.ty
  let w := (s.opVal x.b).toNat % 2 ^ n
  let r := mapElems n (s.maskM x) x.z (s.me.vreg x.a.idx) (fun _ => (w, 0))
  (fun y => y.setV x.a.idx r.1, 0)

/-- The element index of vmovs and vins: Op(C) mod N (R212). -/
def State.elemIx (s : State) (x : Args) : Nat := (s.opVal x.c).toNat % elemCount (tyBits x.ty)

/-- A result element as a scalar: Ext(T, x) or placed as R85. -/
def placeT (t y : Nat) : Word := if isFloat t then zeroExt y (tyBits t) else extT t (y : Nat)

def vMoveOut (x : Args) (s : State) : (Slot → Slot) × Nat :=
  let n := tyBits x.ty
  let w := placeT x.ty (s.elemB x n (s.elemIx x))
  (fun y => y.setS x.a.idx w, 0)

def vInsert (x : Args) (s : State) : (Slot → Slot) × Nat :=
  let n := tyBits x.ty
  let v := vset n (s.elemIx x) (s.me.vreg x.a.idx) (s.opVal x.b).toNat
  (fun y => y.setV x.a.idx v, 0)

/-- A function of R213 on one element, rounded once. -/
def vFunc (f : Num → Num × Nat) (x : Args) (_ b _ _ : Nat) : Nat × Nat := roundRes x.ty x.rm (f (decodeFloat x.ty b))

/-- The active elements of B, in ascending order. -/
def State.activeB (s : State) (x : Args) : List Nat :=
  let n := tyBits x.ty
  let k := s.maskM x
  ((List.range (elemCount n)).filter (activeElem n k)).map (s.elemB x n)

/-- The exact sum of values as XAdd forms it: a NaN wins, infinities of both signs set NV, a zero sum is +0 (R196,
R214). -/
def xaSum (l : List Num) : Num × Nat :=
  if l.any Num.isNan then (.nan false, 0) else sumTerms l

/-- vred.xsum (R214). -/
def redXsum (x : Args) (s : State) : Nat × Nat :=
  let l := (s.activeB x).map (decodeFloat x.ty)
  let p := xaSum l
  roundRes x.ty x.rm (p.1, p.2 ||| sigFlag l)

/-- One level of the fixed tree of vred.add (R214). -/
def treeLevel (add : Nat → Nat → Nat × Nat) : List (Option Nat) → List (Option Nat) × Nat
  | a :: b :: t =>
    let r := treeLevel add t
    match a, b with
    | some u, some v => let y := add u v; (some y.1 :: r.1, y.2 ||| r.2)
    | some u, none => (some u :: r.1, r.2)
    | none, v => (v :: r.1, r.2)
  | l => (l, 0)

/-- The tree, level by level. -/
def treeSum (add : Nat → Nat → Nat × Nat) : Nat → List (Option Nat) → Nat → Option Nat × Nat
  | 0, l, fl => (l.head?.getD none, fl)
  | k + 1, l, fl =>
    if l.length ≤ 1 then (l.head?.getD none, fl)
    else let r := treeLevel add l; treeSum add k r.1 (fl ||| r.2)

/-- vred.add: the fixed tree over all elements, inactive ones absent (R214). -/
def redAdd (x : Args) (s : State) : Nat × Nat :=
  let t := x.ty
  let n := tyBits t
  let k := s.maskM x
  let l := (List.range (elemCount n)).map (fun e => if activeElem n k e then some (s.elemB x n e) else none)
  let add := fun a b =>
    if isFloat t then roundRes t x.rm (numAdd x.rm (decodeFloat t a) (decodeFloat t b)) else ((a + b) % 2 ^ n, 0)
  let r := treeSum add 9 l 0
  (r.1.getD 0, r.2)

/-- vred.min, vred.max (R214). -/
def redMinMax (larger : Bool) (x : Args) (s : State) : Nat × Nat :=
  let t := x.ty
  let l := s.activeB x
  if isFloat t then
    let good := l.filter (fun y => !(decodeFloat t y).isNan)
    let fl := sigFlag (l.map (decodeFloat t))
    match good with
    | [] => (if l.isEmpty then (roundTo t (.inf larger) 0 0).1 else canonNaN t, fl)
    | y :: ys => (ys.foldl (fun a b => (floatMinMax t larger a b).1) y, fl)
  else
    let n := tyBits t
    let top : Nat := if isSignedTy t then 2 ^ (n - 1) - 1 else 2 ^ n - 1
    let bot : Nat := if isSignedTy t then 2 ^ (n - 1) else 0
    (l.foldl (fun a b => if decide (elemInt t a ≤ elemInt t b) != larger then a else b) (if larger then bot else top), 0)

/-- A reduction to s(A). -/
def reduceTo (f : Args → State → Nat × Nat) (x : Args) (s : State) : (Slot → Slot) × Nat :=
  let r := f x s
  (fun y => y.setS x.a.idx (placeT x.ty r.1), r.2)

/-- vdot: the exact sum of a and the active products, rounded once to the result format (R215). -/
def vDot (x : Args) (s : State) : (Slot → Slot) × Nat :=
  let t := x.ty
  let n := tyBits t
  let k := s.maskM x
  let es := (List.range (elemCount n)).filter (activeElem n k)
  if t == 1 then
    let sum := es.foldl (fun a e => a + elemInt 1 (s.elemB x 8 e) * elemInt 1 (s.elemC x 8 e)) (valT 3 (s.opVal x.a))
    (fun y => y.setS x.a.idx (extT 3 sum), 0)
  else
    let rt := if t == 9 then 9 else 10
    let a := fpVal rt (s.opVal x.a)
    let ops := es.map (fun e => (decodeFloat t (s.elemB x n e), decodeFloat t (s.elemC x n e)))
    let ps := ops.map (fun p => numMul p.1 p.2)
    let sum := sumTerms (a :: ps.map (·.1))
    let fl := ps.foldl (fun f p => f ||| p.2) (sum.2 ||| sigFlag [a])
    let r := roundRes rt x.rm (sum.1, fl)
    (fun y => y.setS x.a.idx (zeroExt r.1 (tyBits rt)), r.2)

/-- The random bits of source element e (R218). -/
def State.randB (s : State) (x : Args) (e : Nat) : Nat :=
  if x.rm == 4 then
    let w := vget 32 (e % 64) (s.me.vreg (x.b.idx + 1))
    if 64 ≤ e then w / 65536 + w % 65536 * 65536 else w
  else 0

/-- vcvt (R217). -/
def vConvert (x : Args) (s : State) : (Slot → Slot) × Nat :=
  let ns := elemCount (tyBits x.ty2)
  let nd := elemCount (tyBits x.ty)
  let h := x.f % 2
  let n := tyBits x.ty
  let old := s.me.vreg x.a.idx
  let k := s.maskM x
  let src := s.me.vreg x.b.idx
  let conv := fun e => roundTo x.ty (decodeElem x.ty2 (vget (tyBits x.ty2) e src)) x.rm (s.randB x e) (!(x.f.testBit 1))
  let r := (List.range nd).foldr (fun e (a : Nat × Nat) =>
    -- the source element of destination element e, if the conversion maps it
    let m : Option Nat := if nd == ns then some e
      else if 2 * nd == ns then some (e + nd * h)
      else if ns * h ≤ e && e < ns * h + ns then some (e - ns * h) else none
    match m with
    | none => (vget n e old + 2 ^ n * a.1, a.2)
    | some u =>
      if activeElem n k e then let y := conv u; (y.1 + 2 ^ n * a.1, y.2 ||| a.2)
      else ((if x.z then 0 else vget n e old) + 2 ^ n * a.1, a.2)) (0, 0)
  (fun y => y.setV x.a.idx (BitVec.ofNat 2048 r.1), r.2)

/-- vpack: the planes, scales and flags of 64 FP32 lanes as two blocks (R220). -/
def vPack (x : Args) (s : State) : (Slot → Slot) × Nat :=
  let t := x.ty
  let k := s.maskM x
  let v := fun i => if k.getLsbD i then decodeFloat 10 (s.elemB x 32 i) else Num.fin false 0 0
  let vals := (List.range 64).map v
  let rs := (List.range 64).map (s.randB x)
  let r : Nat × Nat :=
    if isFloat t then
      let b0 := encodeBlock t (vals.take 32) x.rm (rs.take 32) (x.f.testBit 0) (x.f.testBit 1)
      let b1 := encodeBlock t (vals.drop 32) x.rm (rs.drop 32) (x.f.testBit 0) (x.f.testBit 1)
      let codes := b0.2.1 ++ b1.2.1
      let planes :=
        if t == 17 then packBits 4 codes
        else if 15 ≤ t then packBits 4 codes + 2 ^ 256 * packBits 2 (codes.map (· / 16))
        else packBits 8 codes
      let sw := if t == 17 then 16 else 8
      (planes + 2 ^ 512 * (b0.1 + 2 ^ sw * b1.1), b0.2.2 ||| b1.2.2)
    else
      let es := (vals.zip rs).map (fun p => roundTo t p.1 x.rm p.2)
      (packBits (tyBits t) (es.map (·.1)), es.foldl (fun f e => f ||| e.2) 0)
  (fun y => y.setV x.a.idx (BitVec.ofNat 2048 r.1), r.2)

/-- Element e of a packed register under T2 (R220, R221). -/
def unpackElem (t2 v e : Nat) : Num :=
  if t2 == 1 || t2 == 18 then decodeElem t2 (v / 2 ^ (tyBits t2 * e) % 2 ^ tyBits t2)
  else
    let b := e / 32
    if t2 == 17 then decodeInBlock 17 (bits v (512 + 16 * b + 15) (512 + 16 * b)) (bits v (4 * e + 3) (4 * e))
    else
      let sc := bits v (512 + 8 * b + 7) (512 + 8 * b)
      let c := if 15 ≤ t2 then bits v (4 * e + 3) (4 * e) + 16 * bits v (256 + 2 * e + 1) (256 + 2 * e)
        else bits v (8 * e + 7) (8 * e)
      decodeInBlock t2 sc c

/-- vunpack: 64 elements, rounded once to .f32 or exact in .i32 (R221). -/
def vUnpack (x : Args) (s : State) : (Slot → Slot) × Nat :=
  let src := (s.me.vreg x.b.idx).toNat
  let r := mapElems 32 (s.maskM x) x.z (s.me.vreg x.a.idx) (fun e => roundTo x.ty (unpackElem x.ty2 src e) x.rm 0)
  (fun y => y.setV x.a.idx r.1, r.2)

/-- A lane-mask operation to k(A) (R211). -/
def maskOp (f : Word → Word → Word) (x : Args) (s : State) : (Slot → Slot) × Nat :=
  let w := f (s.opVal x.b) (s.opVal x.c)
  (fun y => y.setK x.a.idx w, 0)

def maskCount (x : Args) (s : State) : (Slot → Slot) × Nat :=
  let w := BitVec.ofNat 64 (popCount 64 (s.opVal x.b).toNat)
  (fun y => y.setS x.a.idx w, 0)

/-- rmix and vrmix (R227). -/
def mixScalar (x : Args) (s : State) : (Slot → Slot) × Nat :=
  let w := mix (s.opVal x.b) (s.opVal x.c)
  (fun y => y.setS x.a.idx w, 0)
def mixVector (x : Args) (s : State) : (Slot → Slot) × Nat :=
  lanewise x (fun i => (mix (s.opVal x.b) (s.opVal x.c + BitVec.ofNat 64 i)).toNat / 2 ^ 32) s

def execVadd (x : Args) (s : State) : Result := plain 0x40 0 x s (vectorBody 0x40 0 (elementwise x (vArith 0 x)))
def execVsub (x : Args) (s : State) : Result := plain 0x40 1 x s (vectorBody 0x40 1 (elementwise x (vArith 1 x)))
def execVmul (x : Args) (s : State) : Result := plain 0x40 2 x s (vectorBody 0x40 2 (elementwise x (vArith 2 x)))
def execVfma (x : Args) (s : State) : Result := plain 0x40 3 x s (vectorBody 0x40 3 (elementwise x (vArith 3 x)))
def execVfms (x : Args) (s : State) : Result := plain 0x40 4 x s (vectorBody 0x40 4 (elementwise x (vArith 4 x)))
def execVmin (x : Args) (s : State) : Result := plain 0x40 5 x s (vectorBody 0x40 5 (elementwise x (vMinMax false x)))
def execVmax (x : Args) (s : State) : Result := plain 0x40 6 x s (vectorBody 0x40 6 (elementwise x (vMinMax true x)))
def execVabs (x : Args) (s : State) : Result := plain 0x40 7 x s (vectorBody 0x40 7 (elementwise x (vSign false x)))
def execVneg (x : Args) (s : State) : Result := plain 0x40 8 x s (vectorBody 0x40 8 (elementwise x (vSign true x)))
def execVand (x : Args) (s : State) : Result := plain 0x41 0 x s (vectorBody 0x41 0 (elementwise x (vLogic 0 x)))
def execVor (x : Args) (s : State) : Result := plain 0x41 1 x s (vectorBody 0x41 1 (elementwise x (vLogic 1 x)))
def execVxor (x : Args) (s : State) : Result := plain 0x41 2 x s (vectorBody 0x41 2 (elementwise x (vLogic 2 x)))
def execVshl (x : Args) (s : State) : Result := plain 0x41 3 x s (vectorBody 0x41 3 (elementwise x (vLogic 3 x)))
def execVshr (x : Args) (s : State) : Result := plain 0x41 4 x s (vectorBody 0x41 4 (elementwise x (vLogic 4 x)))
def execVsra (x : Args) (s : State) : Result := plain 0x41 5 x s (vectorBody 0x41 5 (elementwise x (vLogic 5 x)))
def execVcmpEq (x : Args) (s : State) : Result := plain 0x42 0 x s (vectorBody 0x42 0 (vCompare 0 x))
def execVcmpNe (x : Args) (s : State) : Result := plain 0x42 1 x s (vectorBody 0x42 1 (vCompare 1 x))
def execVcmpLt (x : Args) (s : State) : Result := plain 0x42 2 x s (vectorBody 0x42 2 (vCompare 2 x))
def execVcmpLe (x : Args) (s : State) : Result := plain 0x42 3 x s (vectorBody 0x42 3 (vCompare 3 x))
def execVcmpLtn (x : Args) (s : State) : Result := plain 0x42 4 x s (vectorBody 0x42 4 (vCompare 4 x))
def execVcmpLen (x : Args) (s : State) : Result := plain 0x42 5 x s (vectorBody 0x42 5 (vCompare 5 x))
def execVcmpUn (x : Args) (s : State) : Result := plain 0x42 6 x s (vectorBody 0x42 6 (vCompare 6 x))
def execVsel (x : Args) (s : State) : Result := plain 0x43 0 x s (vectorBody 0x43 0 (vSelect x))
def execVperm (x : Args) (s : State) : Result := plain 0x43 1 x s (vectorBody 0x43 1 (vPermute x))
def execVbcast (x : Args) (s : State) : Result := plain 0x43 2 x s (vectorBody 0x43 2 (vBroadcast x))
def execVslide (x : Args) (s : State) : Result := plain 0x43 3 x s (vectorBody 0x43 3 (vSlide x))
def execVmovs (x : Args) (s : State) : Result := plain 0x43 4 x s (vectorBody 0x43 4 (vMoveOut x))
def execVins (x : Args) (s : State) : Result := plain 0x43 5 x s (vectorBody 0x43 5 (vInsert x))
def execVexp2 (x : Args) (s : State) : Result := plain 0x44 0 x s (vectorBody 0x44 0 (elementwise x (vFunc numExp2 x)))
def execVlog2 (x : Args) (s : State) : Result := plain 0x44 1 x s (vectorBody 0x44 1 (elementwise x (vFunc numLog2 x)))
def execVrcp (x : Args) (s : State) : Result := plain 0x44 2 x s (vectorBody 0x44 2 (elementwise x (vFunc numRcp x)))
def execVrsq (x : Args) (s : State) : Result := plain 0x44 3 x s (vectorBody 0x44 3 (elementwise x (vFunc numRsq x)))
def execVredXsum (x : Args) (s : State) : Result := plain 0x45 0 x s (vectorBody 0x45 0 (reduceTo (redXsum) x))
def execVredMin (x : Args) (s : State) : Result := plain 0x45 1 x s (vectorBody 0x45 1 (reduceTo (redMinMax false) x))
def execVredMax (x : Args) (s : State) : Result := plain 0x45 2 x s (vectorBody 0x45 2 (reduceTo (redMinMax true) x))
def execVredAdd (x : Args) (s : State) : Result := plain 0x45 3 x s (vectorBody 0x45 3 (reduceTo (redAdd) x))
def execVdot (x : Args) (s : State) : Result := plain 0x45 8 x s (vectorBody 0x45 8 (vDot x))
def execKand (x : Args) (s : State) : Result := plain 0x48 0 x s (vectorBody 0x48 0 (maskOp (· &&& ·) x))
def execKor (x : Args) (s : State) : Result := plain 0x48 1 x s (vectorBody 0x48 1 (maskOp (· ||| ·) x))
def execKnot (x : Args) (s : State) : Result := plain 0x48 2 x s (vectorBody 0x48 2 (maskOp (fun b _ => ~~~ b) x))
def execKpop (x : Args) (s : State) : Result := plain 0x48 3 x s (vectorBody 0x48 3 (maskCount x))
def execVcvt (x : Args) (s : State) : Result := plain 0x50 0 x s (vectorBody 0x50 0 (vConvert x))
def execVpack (x : Args) (s : State) : Result := plain 0x50 1 x s (vectorBody 0x50 1 (vPack x))
def execVunpack (x : Args) (s : State) : Result := plain 0x50 2 x s (vectorBody 0x50 2 (vUnpack x))
def execRmix (x : Args) (s : State) : Result := plain 0x52 0 x s (vectorBody 0x52 0 (mixScalar x))
def execVrmix (x : Args) (s : State) : Result := plain 0x52 1 x s (vectorBody 0x52 1 (mixVector x))

end Sys2Proof.Machine
end

