-- ==== Sys2Proof/Machine/Gext.lean ====
section
/-! DEFINITION. The G extension (R421 to R431). A matrix is a table of its upper triangle, entry (i, j) with i at
most j at 16 i + j; every value is an FP32 code. -/

namespace Sys2Proof.Machine

open Sys2Proof

/-- Lane l of a register or of a pair. -/
def lane (v : VPair) (l : Nat) : Nat := bits v.toNat (32 * l + 31) (32 * l)

/-- The index of (i, j) in the row-major upper triangle of dimension d (R421, R422). -/
def triIx (d i j : Nat) : Nat := i * d - i * (i - 1) / 2 + (j - i)

/-- A Gaussian message or factor, unpacked: dimension, eta and lambda. -/
structure Gauss where
  d : Nat
  eta : Tab Nat
  lam : Tab Nat
  deriving DecidableEq, Repr

/-- The pairs (i, j) with i at most j below d. -/
def upper (d : Nat) : List (Nat × Nat) :=
  (List.range d).flatMap (fun i => ((List.range d).filter (i ≤ ·)).map (fun j => (i, j)))

/-- eta and lambda of dimension d from their first lanes. -/
def unpackG (v : VPair) (d etaL lamL : Nat) : Gauss :=
  { d := d
    eta := (List.range d).foldl (fun t i => tins t i (lane v (etaL + i))) []
    lam := (upper d).foldl (fun t p => tins t (16 * p.1 + p.2) (lane v (lamL + triIx d p.1 p.2))) [] }

/-- The lanes of eta and lambda; unused ones are 0. -/
def packG (g : Gauss) (etaL lamL : Nat) : Nat :=
  (List.range g.d).foldl (fun a i => a + tget 0 g.eta i * 2 ^ (32 * (etaL + i))) 0
  + (upper g.d).foldl (fun a p => a + tget 0 g.lam (16 * p.1 + p.2) * 2 ^ (32 * (lamL + triIx g.d p.1 p.2))) 0

/-- The fields of a GM header (R421). DEDUCED, unsafe: log 33. -/
def gmDim (v : VPair) : Nat := bits (lane v 1) 7 0
def gmSing (v : VPair) : Bool := (lane v 1).testBit 8
def gFac (v : VPair) : Nat := bits (lane v 1) 31 24
def gfDim (v : VPair) : Nat := bits (lane v 1) 7 0
def gfK (v : VPair) : Nat := bits (lane v 1) 15 8

/-- Whether a GM keeps its format (R425). -/
def gmOk (v : VPair) : Bool := gFac v == 0 && gmDim v ≤ 6
/-- Whether a GF keeps its format (R425). -/
def gfOk (v : VPair) : Bool := gFac v == 1 && 1 ≤ gfDim v && gfDim v ≤ 12 && 1 ≤ gfK v && gfK v ≤ gfDim v

def gmOf (v : VPair) : Gauss := unpackG v (gmDim v) 4 10
def gfOf (v : VPair) : Gauss := unpackG v (gfDim v) 4 16

/-- One rounded step in FP32, and its flags (R424). -/
def g32 (p : Num × Nat) : Nat × Nat := roundRes 10 0 p
def gv (x : Nat) : Num := decodeFloat 10 x
def gAdd (a b : Nat) : Nat × Nat := g32 (numAdd 0 (gv a) (gv b))
def gMul (a b : Nat) : Nat × Nat := g32 (numMul (gv a) (gv b))
def gDiv (a b : Nat) : Nat × Nat := g32 (numDiv (gv a) (gv b))
/-- a - l x b, one fused step. -/
def gFnms (a l b : Nat) : Nat × Nat := g32 (numFma 0 (gv l).neg (gv b) (gv a))
/-- a x b + c, one fused step. -/
def gFma (a b c : Nat) : Nat × Nat := g32 (numFma 0 (gv a) (gv b) (gv c))

/-- The addition of a message at an offset (R426): eta, lambda, and flags. -/
def gaddInto (a b : Gauss) (off d : Nat) : Gauss × Nat :=
  let e := (List.range b.d).foldl (fun (r : Tab Nat × Nat) i =>
    let y := gAdd (tget 0 r.1 (off + i)) (tget 0 b.eta i)
    (tins r.1 (off + i) y.1, r.2 ||| y.2)) (a.eta, 0)
  let l := (upper b.d).foldl (fun (r : Tab Nat × Nat) p =>
    let k := 16 * (off + p.1) + off + p.2
    let y := gAdd (tget 0 r.1 k) (tget 0 b.lam (16 * p.1 + p.2))
    (tins r.1 k y.1, r.2 ||| y.2)) (a.lam, e.2)
  ({ d := d, eta := e.1, lam := l.1 }, l.2)

/-- A factorisation in progress: the working copy, the multipliers l(p, i) at 16 p + i, and the flags (R427). -/
structure Factor where
  w : Gauss
  l : Tab Nat := []
  fl : Nat := 0
  deriving DecidableEq, Repr

/-- Entry (i, j) of the symmetric working copy. -/
def Gauss.at' (g : Gauss) (i j : Nat) : Nat := tget 0 g.lam (16 * min i j + max i j)

/-- The largest magnitude on the diagonal over E (R427). -/
def maxDiag (g : Gauss) (es : List Nat) : Num := largestFinite (es.map (fun p => gv (g.at' p p)))

/-- Whether a pivot is singular: a NaN, not positive, or at most 2^-64 times the largest diagonal magnitude; an infinite
diagonal makes every pivot singular (R427). -/
def singularPivot (piv : Nat) (g : Gauss) (es : List Nat) : Bool :=
  let p := gv piv
  let inf := es.any (fun e => (gv (g.at' e e)).isInf)
  p.isNan || p.isZero || p.sign || inf || !(numLt ((maxDiag g es).scale (-64)) p)

/-- Eliminates one pivot from the dimensions not yet eliminated, in ascending order (R427). -/
def eliminate (f : Factor) (p : Nat) (rest : List Nat) : Factor :=
  let piv := f.w.at' p p
  rest.foldl (fun f i =>
    let l := gDiv (f.w.at' p i) piv
    let f := { f with l := tins f.l (16 * p + i) l.1, fl := f.fl ||| l.2 }
    let f := (rest.filter (i ≤ ·)).foldl (fun f j =>
      let y := gFnms (f.w.at' i j) l.1 (f.w.at' p j)
      { f with w := { f.w with lam := tins f.w.lam (16 * i + j) y.1 }, fl := f.fl ||| y.2 }) f
    let y := gFnms (tget 0 f.w.eta i) l.1 (tget 0 f.w.eta p)
    { f with w := { f.w with eta := tins f.w.eta i y.1 }, fl := f.fl ||| y.2 }) f

/-- Eliminates the pivots in order; none when one is singular (R427, R428). -/
def factor (g0 : Gauss) (es : List Nat) : List Nat → List Nat → Factor → Option Factor
  | [], _, f => some f
  | p :: ps, dims, f =>
    if singularPivot (f.w.at' p p) g0 es then none
    else
      let rest := dims.filter (· != p)
      factor g0 es ps rest (eliminate f p rest)

/-- The header lanes of a GM (R421). -/
def gmHeader (src dst d seq beta : Nat) (sing : Bool) : Nat :=
  src % 65536 + dst % 65536 * 65536 + (d + if sing then 256 else 0) * 2 ^ 32 + seq * 2 ^ 64 + beta * 2 ^ 96

/-- What a G instruction does: its register writes, its flags, and a late fault without a write or beside one. -/
structure GResult where
  write : Slot → Slot := id
  fl : Nat := 0
  late : Option Nat := none

/-- A format break: nothing is written and ILLOP is raised late (R425). -/
def gBreak : GResult := { late := some fcIllop }

/-- GSING is raised late unless GSMASK is 1 (R428). -/
def State.gSing (s : State) : Option Nat := if s.me.fpctl.getLsbD 8 then none else some fcGsing

/-- gadd (R426). DEDUCED, unsafe: log 33. -/
def gadd (x : Args) (s : State) : GResult :=
  let ai := x.a.idx
  let off := x.c.immInt.toNat
  let av := s.me.vpair ai
  let bv := s.me.vpair x.b.idx
  let b := gmOf bv
  if !gmOk bv then gBreak
  else if gFac av == 1 then
    if !gfOk av || ai % 2 == 1 || gfDim av < off + b.d then gBreak
    else
      let r := gaddInto (gfOf av) b off (gfDim av)
      -- every lane but those of its eta and its triangle is kept
      let v := BitVec.ofNat 4096 (av.toNat - packG (gfOf av) 4 16 + packG r.1 4 16)
      { write := fun y => (y.setV ai (v.setWidth 2048)).setV (ai + 1) ((v >>> 2048).setWidth 2048), fl := r.2 }
  else if !gmOk av || 6 < off + b.d then gBreak
  else
    let d := max (gmDim av) (off + b.d)
    let r := gaddInto (gmOf av) b off d
    let hdr := lane av 0 + (d + if gmSing av || gmSing bv then 256 else 0) * 2 ^ 32 + lane av 2 * 2 ^ 64 + lane av 3 * 2 ^ 96
    { write := fun y => y.setV ai (BitVec.ofNat 2048 (hdr + packG r.1 4 10)), fl := r.2 }

/-- gelim (R427, R428); a GF at an odd index breaks the formats, late (R425). -/
def gelim (x : Args) (s : State) : GResult :=
  let bv := s.me.vpair x.b.idx
  let n := gfDim bv
  let k := gfK bv
  let mask := x.c.immInt.toNat
  let first := mask == 2 ^ k - 1
  if x.b.idx % 2 == 1 || !gfOk bv || k == n || !(first || mask == 2 ^ n - 2 ^ k) then gBreak
  else
    let dims := List.range n
    let es := if first then dims.filter (· < k) else dims.filter (k ≤ ·)
    let rs := if first then dims.filter (k ≤ ·) else dims.filter (· < k)
    if 6 < rs.length then gBreak
    else
      let g := gfOf bv
      let hdr := gmHeader (lane bv 0) (if first then lane bv 2 / 65536 else lane bv 2 % 65536) rs.length (lane bv 3) 0
      match factor g es es dims { w := g } with
      | none => { write := fun y => y.setV x.a.idx (BitVec.ofNat 2048 (hdr true)), late := s.gSing }
      | some f =>
        let base := rs.headD 0
        let out : Gauss :=
          { d := rs.length
            eta := rs.foldl (fun t i => tins t (i - base) (tget 0 f.w.eta i)) []
            lam := (upper rs.length).foldl (fun t p =>
              tins t (16 * p.1 + p.2) (f.w.at' (base + p.1) (base + p.2))) [] }
        { write := fun y => y.setV x.a.idx (BitVec.ofNat 2048 (hdr false + packG out 4 10)), fl := f.fl }

/-- gdamp (R429). -/
def gdamp (x : Args) (s : State) : GResult :=
  let av := s.me.vpair x.a.idx
  let bv := s.me.vpair x.b.idx
  let beta := lane av 3
  let bn := gv beta
  let out := bn.isNan || (bn.sign && !bn.isZero) || numLt (.fin false 1 0) bn
  if !gmOk av || !gmOk bv || gmDim av != gmDim bv || out then gBreak
  else if gmSing av || gmSing bv then {}
  else
    let u := g32 (numAdd 0 (.fin false 1 0) bn.neg)
    let a := gmOf av
    let b := gmOf bv
    let step := fun (new old : Nat) =>
      let y := gMul beta old
      let r := gFma u.1 new y.1
      (r.1, r.2 ||| y.2)
    let e := (List.range a.d).foldl (fun (r : Tab Nat × Nat) i =>
      let y := step (tget 0 a.eta i) (tget 0 b.eta i)
      (tins r.1 i y.1, r.2 ||| y.2)) ([], u.2)
    let l := (upper a.d).foldl (fun (r : Tab Nat × Nat) p =>
      let i := 16 * p.1 + p.2
      let y := step (tget 0 a.lam i) (tget 0 b.lam i)
      (tins r.1 i y.1, r.2 ||| y.2)) ([], e.2)
    let hdr := lane av 0 + a.d * 2 ^ 32 + lane av 2 * 2 ^ 64 + beta * 2 ^ 96
    { write := fun y => y.setV x.a.idx (BitVec.ofNat 2048 (hdr + packG { d := a.d, eta := e.1, lam := l.1 } 4 10))
      fl := l.2 }

/-- Solve(b) on a factored copy: forward with the multipliers, back with the rows, each row's division last
(R430). -/
def solveG (f : Factor) (b0 : Tab Nat) : Tab Nat × Nat :=
  let d := f.w.d
  let ds := List.range d
  let fw := ds.foldl (fun (r : Tab Nat × Nat) p =>
    (ds.filter (p < ·)).foldl (fun (r : Tab Nat × Nat) i =>
      let y := gFnms (tget 0 r.1 i) (tget 0 f.l (16 * p + i)) (tget 0 r.1 p)
      (tins r.1 i y.1, r.2 ||| y.2)) r) (b0, 0)
  ds.reverse.foldl (fun (r : Tab Nat × Nat) i =>
    let acc := (ds.filter (i < ·)).reverse.foldl (fun (a : Nat × Nat) j =>
      let y := gFnms a.1 (f.w.at' i j) (tget 0 r.1 j)
      (y.1, a.2 ||| y.2)) (tget 0 fw.1 i, r.2)
    let y := gDiv acc.1 (f.w.at' i i)
    (tins r.1 i y.1, acc.2 ||| y.2)) ([], fw.2)

/-- gsolve: means in lanes 0 on, variances in lanes 6 on (R430). The multipliers and rows are those of the
factorisation; eta itself is solved from the belief. -/
def gsolve (x : Args) (s : State) : GResult :=
  let bv := s.me.vpair x.b.idx
  if !gmOk bv then gBreak
  else
    let g := gmOf bv
    let ds := List.range g.d
    let put := fun (mu var : Nat → Nat) => BitVec.ofNat 2048
      (ds.foldl (fun a i => a + mu i * 2 ^ (32 * i) + var i * 2 ^ (32 * (6 + i))) 0)
    let f := if gmSing bv then none else factor g ds ds ds { w := g }
    match f with
    | none =>
      { write := fun y => y.setV x.a.idx (put (fun _ => canonNaN 10) (fun _ => canonNaN 10)), late := s.gSing }
    | some f =>
      let m := solveG f g.eta
      let vs := ds.map (fun i => let r := solveG f [(i, 0x3F800000)]; (tget 0 r.1 i, r.2))
      let fl := vs.foldl (fun a r => a ||| r.2) (f.fl ||| m.2)
      { write := fun y => y.setV x.a.idx (put (tget 0 m.1) (fun i => ((vs[i]?).getD (0, 0)).1)), fl := fl }

/-- gres: the largest rounded difference; any NaN gives the canonical NaN (R431). -/
def gres (x : Args) (s : State) : GResult :=
  let bv := s.me.vpair x.b.idx
  let cv := s.me.vpair x.c.idx
  if !gmOk bv || !gmOk cv || gmDim bv != gmDim cv then gBreak
  else
    let b := gmOf bv
    let c := gmOf cv
    let ps := (List.range b.d).map (fun i => (tget 0 b.eta i, tget 0 c.eta i))
      ++ (upper b.d).map (fun p => (tget 0 b.lam (16 * p.1 + p.2), tget 0 c.lam (16 * p.1 + p.2)))
    let ds := ps.map (fun p => let y := numAdd 0 (gv p.1) (gv p.2).neg; roundRes 10 0 (y.1.abs, y.2))
    let fl := ds.foldl (fun a r => a ||| r.2) 0
    let v := if ds.any (fun r => (gv r.1).isNan) then canonNaN 10
      else ds.foldl (fun a r => if numLt (gv a) (gv r.1) then r.1 else a) 0
    { write := fun y => y.setS x.a.idx (zeroExt v 32), fl := fl }

/-- The G instruction itself, on a core that has G (R424, R425): it enters the ring, writes, and ends as a vector
instruction does, or raises its late fault. DEDUCED, unsafe: log 35. -/
def gBody (fn : Nat) (x : Args) (f : Args → State → GResult) (s : State) : State :=
  let w := encWord 0xD0 fn x
  let (q, s) := s.enterRing 0xD0 fn
  let r := f x s
  match r.late with
  | none => (s.updMe r.write).finishVector q r.fl
  | some code =>
    let s := s.updMe (fun y => (r.write y).ringDone q 0)
    (s.lateIn24 code q (if code == fcIllop then illopDetail w else 0)).advance

/-- A core without G: Marker has run, and the thread waits for cycle m, from which on no late fault of a vector
instruction can arrive; then it starts to migrate (R71). DEDUCED, unsafe: log 59. -/
def gMigrate (s : State) : State :=
  let m := max s.cycle (s.me.lateDue + 1)
  let s := s.updMe (fun t => { t with st := .parked .migration, due := none, parkedAt := s.cycle })
  s.post (if s.me.lateDue == 0 then s.cycle else m) 3 (s.cur % 128) .migrationStart [s.cur]

/-- A meaning of OP 0xD0: on a core with G it executes; on any other, a true guard runs Marker and migrates (R20,
R71). -/
def gIssue (fn : Nat) (x : Args) (f : Args → State → GResult) (s : State) : Result :=
  .next (s.issue 0xD0 fn x false (!hasG s.cur) (if hasG s.cur then gBody fn x f else gMigrate))

def execGadd (x : Args) (s : State) : Result := gIssue 0 x gadd s
def execGelim (x : Args) (s : State) : Result := gIssue 1 x gelim s
def execGdamp (x : Args) (s : State) : Result := gIssue 2 x gdamp s
def execGsolve (x : Args) (s : State) : Result := gIssue 3 x gsolve s
def execGres (x : Args) (s : State) : Result := gIssue 4 x gres s

end Sys2Proof.Machine
end

