-- ==== Sys2Proof/Machine/Network.lean ====
section
/-! DEFINITION. The millrace (R264 to R274): routes, channels, flits and their hops, and what a packet does when it
reaches its destination port. -/

namespace Sys2Proof.Machine

open Sys2Proof

/-- The stop after one in a direction: 0 east on its row ring, 1 south on its column ring (R264). -/
def nextStop (stop dir : Nat) : Nat :=
  if dir == 0 then stop / 8 * 8 + (stop % 8 + 1) % 8 else (stop + 8) % 64

/-- Hops of the route between two stops: east first, then south (R268). -/
def hops (a b : Nat) : Nat := (b % 8 + 8 - a % 8) % 8 + (b / 8 + 8 - a / 8) % 8

/-- The direction of the next link of a route. -/
def dirOf (here dst : Nat) : Nat := if here % 8 != dst % 8 then 0 else 1

/-- Whether a packet from `src` has crossed the dateline, between stops 7 and 0, once it stands at `next` (R271). -/
def pastDateline (src next dir : Nat) : Bool :=
  if dir == 0 then next % 8 < src % 8 else next / 8 < src / 8

def fifoKey (die stop port lane : Nat) : Nat := ((die * 64 + stop) * 3 + port) * 8 + lane
def bufKey (die stop port lane chan : Nat) : Nat := fifoKey die stop port lane * 3 + chan
def laneKey (die stop dir lane : Nat) : Nat := ((die * 64 + stop) * 2 + dir) * 8 + lane

/-- A lane that a packet holds from its head to its tail (R269). DEDUCED, unsafe: log 16. -/
def laneHeld : Nat := 2 ^ 64

def State.packet (s : State) (u : Nat) : Packet := tget {} s.net.packets u
def State.setPacket (s : State) (u : Nat) (p : Packet) : State :=
  { s with net := { s.net with packets := tput {} s.net.packets u p } }
def State.fifoOf (s : State) (k : Nat) : List Nat := tget [] s.net.fifo k
def State.setFifo (s : State) (k : Nat) (l : List Nat) : State :=
  { s with net := { s.net with fifo := tput [] s.net.fifo k l } }
/-- The slots held or granted in a buffer. -/
def State.held (s : State) (k : Nat) : Nat := tget 0 s.net.slots k
/-- DEDUCED, unsafe: log 15. -/
def State.addHeld (s : State) (k n : Nat) : State :=
  { s with net := { s.net with slots := tput 0 s.net.slots k (s.held k + n) } }
/-- DEDUCED, unsafe: log 15. -/
def State.subHeld (s : State) (k n : Nat) : State :=
  { s with net := { s.net with slots := tput 0 s.net.slots k (s.held k - n) } }

/-- Class and order of a flit's event: a request for a slice is accepted last in its cycle, in lane order (R115). -/
def hopClass (p : Packet) (here : Nat) : Nat × Nat :=
  if here == p.dst then (match p.payload with | .req _ => (5, p.lane) | .walkAns _ => (1, 500) | _ => (3, 500))
  else (3, 1000)

/-- The order of heads at one output lane: the same ring, then turning, then injected (R272). -/
def headRank (f : Flit) (dir : Nat) : Nat :=
  if f.port == 0 then 3000 else if f.port == dir + 1 then 1000 else 2000

/-- A flit tries to leave at a cycle. -/
def State.postHop (s : State) (u k t : Nat) : State :=
  let p := s.packet u
  let f : Flit := tget ⟨p.src, 0, 0, 0, none⟩ p.flits k
  let c := hopClass p f.stop
  s.post t c.1 (if c.2 == 1000 then headRank f (dirOf f.stop p.dst) else c.2) .flitHop [u, k]

/-- A flit that cannot leave tries again: later in its cycle where a packet is before it at the port, since that one's tail may leave
in this cycle (R273), but before an injected one where it was not injected itself (R272); else on the next. The fourth number marks the
second try. -/
def State.waitHop (s : State) (u k : Nat) (p : Packet) (f : Flit) : State :=
  if s.arg.length == 2 && (s.fifoOf (fifoKey p.die f.stop f.port p.lane)).head? != some u then
    s.post s.cycle 3 (if f.port == 0 then 3500 else 2500) .flitHop [u, k, 0, 1]
  else s.postHop u k (s.cycle + 1)

/-- Offers a packet on a die, its head free to leave the source stop at `ready`; `rank` is the offering unit's order
at the stop: 0 the mill's network port, 1 and 2 the slices, 3 other units (R266, R272). A packet for the stop it is
at crosses no link, and reaches the port when its head could first have left (R269). DEDUCED, unsafe: log 127. -/
def State.offer (s : State) (die src dst lane len ready rank : Nat) (pl : Payload) : State :=
  let (u, s) := s.fresh
  let p : Packet := { die := die, src := src, dst := dst, lane := lane, len := len, payload := pl }
  let s := s.setPacket u p
  if src == dst then
    let c := hopClass p dst
    s.post ready c.1 c.2 .flitHop [u, len - 1]
  else s.post ready 3 (10 + rank) .flitHop [u, 0]

/-- The dies that a packet for another die passes, after the first: along row links to the column, then by the column link
(R288). DEDUCED, unsafe: log 17. -/
def dieRoute (a b : Nat) : List Nat :=
  let x := a % 4
  let y := b % 4
  let row := if x ≤ y then (List.range (y - x)).map (fun i => a / 4 * 4 + x + i + 1) else (List.range (x - y)).map (fun i => a / 4 * 4 + x - i - 1)
  if a / 4 == b / 4 then row else row ++ [b]

/-- A packet's flits take the first cycles from `t` on at which a link in one direction carries fewer than 30 flits (R287): the cycle
of the last of them, and what the link carries at each cycle then. -/
def fillLink : Nat → Tab Nat → Nat → Nat → Nat × Tab Nat
  | 0, l, t, _ => (t, l)
  | n + 1, l, t, len =>
    let used := tget 0 l t
    let m := min len (30 - used)
    let l := tput 0 l t (used + m)
    if m == len then (t, l) else fillLink n l (t + 1) (len - m)

/-- The stop of the port by which a die's packets go to a neighbour: the row link west or east, or the column link (R265, R287). -/
def linkStop (a b : Nat) : Nat := if a / 4 != b / 4 then 50 else if b < a then 48 else 49

/-- The link port of a die takes a packet's flits, none of them earlier than `t` (R287). DEDUCED, unsafe: log 17. -/
def State.takeLink (s : State) (a b len t : Nat) : Nat × State :=
  let k := 64 * a + linkStop a b
  let l := (tget [] s.net.links k).filter (fun x => s.cycle ≤ x.1)
  let r := fillLink (l.length + 1) l t len
  (r.1, { s with net := { s.net with links := tput [] s.net.links k r.2 } })

/-- Offers a packet to a stop of another die: the time between the two stop positions, plus 48 cycles per class, which
include the legs to and from the link ports (R288), and what it waits for the links on its way (R287). DEDUCED, unsafe: log 17. -/
def State.offerTo (s : State) (dieA src dieB dst lane len ready rank : Nat) (pl : Payload) : State :=
  let r := (dieRoute dieA dieB).foldl (fun (x : Nat × Nat × State) d =>
    let l := x.2.2.takeLink x.1 d len x.2.1
    (d, l.1 + 48, l.2)) (dieA, ready, s)
  r.2.2.offer dieB src dst lane len r.2.1 rank pl

/-- The compute die by which the fabric traffic of a die enters and leaves: the one of its own row that attaches to its I/O
die, IO0 where i mod 4 is at most 1 (R287, R289). -/
def entryDie (die : Nat) : Nat := die / 4 * 4 + (if die % 4 ≤ 1 then 0 else 3)

/-- The stop of the I/O-link port (R265, R287). -/
def ioStop : Nat := 51

/-- Something leaves a stop of a die for a node of the fabric: it crosses to the I/O link (R289). -/
def State.offerOut (s : State) (die src lane len ready rank cls node : Nat) (ls : List Line) (kind id : Nat) : State :=
  s.offerTo die src (entryDie die) ioStop lane len ready rank (.out cls node ls kind id)

/-! Fabric flits (R295 to R297). -/

/-- CRC-16 over one more byte, its most significant bit first: polynomial 0x1021, no reflection (R296). -/
def crcByte (crc b : Nat) : Nat :=
  (List.range 8).foldl (fun c i =>
    let next := c * 2 % 65536
    if c.testBit 15 != b.testBit (7 - i) then next ^^^ 0x1021 else next) crc

/-- The check of a flit: over its 64 bytes, byte 0 first, and sideband bits [63:16], highest byte first (R296). DEDUCED, unsafe: log 79. -/
def flitCrc (data : Line) (side : Word) : Nat :=
  ((List.range 64).map (fun i => bits data.toNat (8 * i + 7) (8 * i)) ++ (List.range 6).map (fun i => bits side.toNat (63 - 8 * i) (56 - 8 * i))).foldl
    crcByte 0xFFFF

def FFlit.dst (f : FFlit) : Nat := bits f.side.toNat 63 52
def FFlit.src (f : FFlit) : Nat := bits f.side.toNat 51 40
def FFlit.cls (f : FFlit) : Nat := bits f.side.toNat 39 37
def FFlit.head (f : FFlit) : Bool := f.side.getLsbD 36
def FFlit.len (f : FFlit) : Nat := bits f.side.toNat 35 33
def FFlit.seq (f : FFlit) : Nat := bits f.side.toNat 31 16
def FFlit.crc (f : FFlit) : Nat := bits f.side.toNat 15 0
/-- Whether a flit passes its check. -/
def FFlit.checks (f : FFlit) : Bool := f.crc == flitCrc f.data f.side

/-- A flit with its sideband (R296). DEDUCED, unsafe: log 79. -/
def mkFlit (dst src cls : Nat) (head : Bool) (len seq : Nat) (data : Line) : FFlit :=
  let side : Word := BitVec.ofNat 64 (dst % 4096 * 2 ^ 52 + src % 4096 * 2 ^ 40 + cls % 8 * 2 ^ 37 + (if head then 2 ^ 36 else 0)
    + (if head then len % 8 * 2 ^ 33 else 0) + seq % 65536 * 2 ^ 16)
  { side := side + BitVec.ofNat 64 (flitCrc data side), data := data }

/-- The live ports of an I/O die (R289). -/
def Part.ioPorts (p : Part) (io : Nat) : List Nat := (List.range (if p.grade == 2 then 12 else 18)).map (· + 18 * io)

/-- The port by which the traffic of a die reaches a node: of its I/O die, the one whose far end is the node, or else the one
that the fabric's wiring gives, which the spec leaves open (R289, R298). -/
def State.portOf (s : State) (die node : Nat) : Nat :=
  let l := s.part.ioPorts (if die % 4 ≤ 1 then 0 else 1)
  match l.find? (fun p => (Config.portPeer p).toNat % 4096 == node) with
  | some p => p
  | none => (l[Config.portRoute node % l.length]?).getD 0

/-- One packet goes out at a port: its flits are numbered, checked and kept for a replay (R296, R297). -/
def Port.send (x : Port) (dst src cls : Nat) (ls : List Line) : Port :=
  let fs := ls.zipIdx.map (fun p => mkFlit dst src cls (p.2 == 0) (ls.length - 1) (x.sendSeq + p.2) p.1)
  { x with sendSeq := (x.sendSeq + ls.length) % 65536, replay := (x.replay ++ fs).drop ((x.replay ++ fs).length - 256) }

/-- A packet of a die leaves for a node (R289, R296). -/
def State.sendFlits (s : State) (die node cls : Nat) (ls : List Line) : State :=
  let p := s.portOf die node
  { s with ports_ := tput {} s.ports_ p ((tget {} s.ports_ p).send node s.part.pkgix cls ls) }

/-- The fabric node that a window's address reaches (R292). DEDUCED, unsafe: log 81. -/
def State.windowNode (s : State) (pa : Nat) : Nat :=
  ((s.fabric.find? (fun w => w.1 ≤ pa && pa < w.1 + w.2.1)).map (·.2.2)).getD 4096

/-- The full/empty operations (R153). -/
def AccKind.isFe : AccKind → Bool
  | .fill => true | .empty => true | .peek => true | .take => true
  | _ => false

/-- The landing of a response at its requester (R114). -/
def State.landReq (s : State) (r t : Nat) : State :=
  match (s.req r).sink with
  | .none => { s with reqs := tdel s.reqs r }
  | .icache c => s.post t 1 0 .icacheFill [c, (s.req r).pa / 64, r]
  | .copy cmd line => s.post s.cycle 3 640 .copyChunkReady [cmd, line, r, t]
  | .windrose run node => ({ s with reqs := tdel s.reqs r }).post t 3 700 .nodeComplete [run, node]
  | .tile op => s.post t 1 0 .tldgAonRetry [op, r]
  | .walk w level => s.post t 1 0 .tlbMissWalk [w, level, r]
  | .l2 slice => s.post t 1 0 .l2Fill [slice, (s.req r).pa / 64, r]
  | .fabric _ _ => s.post t 1 0 .windowAccess [r, 1]
  | _ => s.post t 1 0 .resultLands [r]

/-- The slice at which a request is queued is served from the next cycle on (R115). -/
def State.wakeSlice (s : State) (l : Nat) : State :=
  let x := s.slice l
  if x.busy then s
  else (s.setSlice l { x with busy := true }).post (s.cycle + 1) 1 (300 + l % 128) .sliceServe [l]

/-- A packet has reached its destination port (R269): what it carries goes on. -/
def State.arrive (s : State) (p : Packet) : State :=
  let t := s.cycle
  match p.payload with
  | .req r =>
    let l := (s.req r).slice
    let x := s.slice l
    (s.setSlice l { x with queue := x.queue ++ [r] }).wakeSlice l
  | .resp r => s.landReq r (t + 2)
  | .crewReq _ _ => s
  | .crewResp slot uid data flt =>
    (s.updEntry slot uid (fun e => { (e.orVal 0 (data.setWidth 2048)) with fault := if e.fault.isNone then flt else e.fault })).post
      t 3 600 .crewResponse [slot, uid]
  | .msg m => s.post (t + 2) 1 (100 + p.lane) .messageDelivery [m]
  | .status slot uid val =>
    (s.updEntry slot uid (fun e => e.orVal 0 (BitVec.ofNat 2048 val))).landAt slot uid (t + 2)
  | .walkReq w => s.post t 3 600 .tlbMissWalk [w]
  | .walkAns w => s.post t 1 0 .walkAnswer [w]
  | .chunk cmd i dest data =>
    s.post t 3 600 .chunkWrite [dest, cmd, i, data.toNat]
  | .deposit d => s.post t 3 600 .cbputDeposit [d]
  | .control c => s.post t 3 600 .combineControlServe [p.die, c]
  | .refuse r => s.post (t + 32) 3 600 (if (s.req r).acc.kind.isFe then .feTableRetry else .missListRetry) [r]
  | .out cls node ls kind id =>
    let s := s.sendFlits p.die node cls ls
    if kind == 0 then s
    else
      -- packets of one class for one node arrive in send order (R297)
      let (n, s) := s.draw
      let t := t + 1 + Config.fabricDelay n
      if kind == 1 then
        let d := s.reqs.foldl (fun d kq => if kq.2.attr.testBit 51 && s.windowNode kq.2.pa == node then max d kq.2.dueAt else d) t
        (s.setReq id { s.req id with dueAt := d }).post d 3 100 .windowAccess [id]
      else
        let d := s.sents.foldl (fun d ky => match ky.2.dest with | .fabric m _ => if m == node then max d ky.2.dueAt else d | _ => d) t
        (s.setSent id { s.sent id with dueAt := d }).post d 1 900 .messageDelivery [id]
  | .link l => { s with links := s.links.map (fun y => if y.id == l then { y with left := y.left - 1 } else y) }

/-- A flit leaves the slot it holds. -/
def State.freeFlit (s : State) (p : Packet) (f : Flit) : State :=
  if f.port == 0 then s else s.subHeld (bufKey p.die f.stop f.port p.lane f.chan) 1

/-- After flit `k` has left a stop, the one behind it may follow on the next cycle (R269). DEDUCED, unsafe: log 16. -/
def State.nextFlit (s : State) (u k here : Nat) : State :=
  let p := s.packet u
  if k + 1 < p.len then
    let f : Flit := tget ⟨64, 0, 0, 0, none⟩ p.flits (k + 1)
    if f.stop == here then s.postHop u (k + 1) (max f.ready (s.cycle + 1)) else s
  else s

/-- The tail has left a stop: the packets behind it come to the head of the port (R273). -/
def State.popFifo (s : State) (p : Packet) (f : Flit) : State :=
  let k := fifoKey p.die f.stop f.port p.lane
  s.setFifo k ((s.fifoOf k).drop 1)

/-- Frees all a packet holds at its destination (R276). A flit whose stop is 64 has freed its slot before. -/
def State.dropPacket (s : State) (u : Nat) : State :=
  let p := s.packet u
  let s := if p.src == p.dst then s
    else
      let s := (List.range p.len).foldl (fun s k =>
        let f : Flit := tget ⟨p.dst, 0, 0, 0, none⟩ p.flits k
        if f.stop == p.dst then s.freeFlit p f else s) s
      s.popFifo p (tget ⟨p.dst, 0, 0, 0, none⟩ p.flits (p.len - 1))
  { s with net := { s.net with packets := tdel s.net.packets u } }

/-- A flit at its destination stop (R269, R276): it leaves for the port when the port accepts it. DEDUCED, unsafe: log 15. -/
def ejectFlit (u k : Nat) (p : Packet) (f : Flit) (s : State) : State :=
  let again := s.waitHop u k p f
  let full := match p.payload with | .req r => 16 ≤ (s.slice (s.req r).slice).queue.length | _ => false
  if f.late.isSome || ((s.fifoOf (fifoKey p.die f.stop f.port p.lane)).head? != some u) || full then again
  else
    let last := k + 1 == p.len
    match p.payload with
    | .crewReq _ _ =>
      -- its flits keep their slots until the port has handed the accesses on; of an escape channel, which is shorter
      -- than a packet, only the last two do
      if last then s.post (s.cycle + 1) 3 550 .crewAccessArrive [u]
      else if f.chan != 0 && k + 2 < p.len then
        (s.freeFlit p f).setPacket u { p with flits := tins p.flits k { f with stop := 64 } }
      else s
    | _ =>
      let s := s.freeFlit p f
      if last then
        let s := s.popFifo p f
        ({ s with net := { s.net with packets := tdel s.net.packets u } }).arrive p
      else
        (s.setPacket u { p with flits := tins p.flits k { f with stop := 64 } }).nextFlit u k f.stop

/-- A flit of a packet leaves on its output lane for the next stop, in a channel (R269, R271). DEDUCED, unsafe: log 14. -/
def leaveFlit (u k : Nat) (p : Packet) (f : Flit) (dir chan : Nat) (s : State) : State :=
  let here := f.stop
  let next := nextStop here dir
  let d := s.cycle
  let s := s.freeFlit p f
  let lk := laneKey p.die here dir p.lane
  let s := { s with net := { s.net with lanes := tput 0 s.net.lanes lk (if k + 1 == p.len then d + 1 else laneHeld) } }
  let s := if k == 0 then
      let fk := fifoKey p.die next (dir + 1) p.lane
      s.setFifo fk (s.fifoOf fk ++ [u])
    else s
  let p := { p with
    chans := if k == 0 then tput 0 p.chans next chan else p.chans
    flits := tins p.flits k ⟨next, dir + 1, chan, d + 3, none⟩ }
  let s := s.setPacket u p
  let s := if chan == 0 then s.addHeld (bufKey p.die next (dir + 1) p.lane 0) 1
    else s.post (d + 2) 5 5000 .flitHop [u, k, if f.port == 0 then 0 else bufKey p.die here f.port p.lane f.chan]
  let s := if k + 1 == p.len then s.popFifo p f else s
  -- a flit behind one that still stands at the next stop follows it
  let pred : Flit := tget ⟨64, 0, 0, 0, none⟩ p.flits (k - 1)
  let crew := match p.payload with | .crewReq _ _ => next == p.dst | _ => false
  let s := if k == 0 || pred.stop != next || crew then s.postHop u k (d + 3) else s
  s.nextFlit u k here

/-- Flits in a buffer of an input port, each with its packet and its number. -/
def State.inBuffer (s : State) (die stop port lane chan : Nat) : List (Nat × Nat × Flit) :=
  (s.fifoOf (fifoKey die stop port lane)).flatMap (fun u =>
    ((s.packet u).flits.filter (fun (kf : Nat × Flit) => kf.2.stop == stop && kf.2.port == port && kf.2.chan == chan)).map (fun kf => (u, kf.1, kf.2)))

/-- Whether the port at a flit's destination takes it once it is ready: of a crew request, the flits that keep no slot there (R276);
of a request for a slice, while the slice's queue has room (R115). -/
def State.portTakes (s : State) (p : Packet) (k : Nat) : Bool :=
  match p.payload with
  | .crewReq _ _ => k + 2 < p.len
  | .req r => (s.slice (s.req r).slice).queue.length < 16
  | _ => true

/-- Whether nothing known at the present cycle keeps a flit from having left its stop by the cycle `t`: it is ready by then; the packets
before it at its port and the flit before it leave earlier (R269, R273); at its destination the port takes it; on its way its output
lane is free or its own, and the channel it goes to has a slot for it (R271), where the same is asked of the flits there. The last
number bounds the stops that are looked at. DEDUCED, unsafe: log 14. -/
def State.leavesBy (s : State) : Nat → Nat → Nat → Flit → Nat → Bool
  | 0, _, _, _, _ => true
  | n + 1, u, k, f, t =>
    let p := s.packet u
    let dir := dirOf f.stop p.dst
    let next := nextStop f.stop dir
    let lane := tget 0 s.net.lanes (laneKey p.die f.stop dir p.lane)
    let prev : Flit := tget ⟨64, 0, 0, 0, none⟩ p.flits (k - 1)
    let ahead := (s.fifoOf (fifoKey p.die f.stop f.port p.lane)).takeWhile (· != u)
    let tailGone := fun (v : Nat) =>
      let q := s.packet v
      let g : Flit := tget ⟨64, 0, 0, 0, none⟩ q.flits (q.len - 1)
      -- one that takes another way may leave in the same cycle
      let apart := (q.dst == f.stop) != (p.dst == f.stop) || dirOf f.stop q.dst != dir
      g.stop == f.stop && g.port == f.port && s.leavesBy n v (q.len - 1) g (if apart then t else t - 1)
    f.late.isNone && f.ready ≤ t && ahead.all tailGone
      && (k == 0 || prev.stop != f.stop || s.leavesBy n u (k - 1) prev (t - 1))
      && (if f.stop == p.dst then s.portTakes p k
        else (k != 0 || lane ≤ t || (lane == laneHeld && !ahead.isEmpty))
          && (let chan := if k == 0 then (if pastDateline p.src next dir then 2 else 1) else tget 0 p.chans next
            chan == 0 || ((s.inBuffer p.die next (dir + 1) p.lane chan).filter
              (fun x => !s.leavesBy n x.1 x.2.1 x.2.2 (t + 2))).length < 2))

/-- The slots of an escape channel that are held on the cycle on which a flit that leaves now would take its slot (R271), as far
as the present cycle shows: those of the flits sent there before, less those that leave by then. DEDUCED, unsafe: log 14. -/
def State.escapeHeld (s : State) (die next dir lane chan : Nat) : Nat :=
  ((s.inBuffer die next (dir + 1) lane chan).filter (fun x => !s.leavesBy 4 x.1 x.2.1 x.2.2 (s.cycle + 2))).length

/-- The slots of a buffer: 6 of a pool, 2 of an escape channel (R270). -/
def bufSlots (key : Nat) : Nat := if key % 3 == 0 then 6 else 2

/-- The cycle on which a flit takes its slot of an escape channel (R271). One that finds both held, or one before it that waits, waits
for its own; it takes the slot it came from again while that one is free. DEDUCED, unsafe: log 14. -/
def takeSlot (u k old : Nat) (s : State) : State :=
  let p := s.packet u
  match p.flits.lookup k with
  | none => s
  | some f =>
    let key := bufKey p.die f.stop f.port p.lane f.chan
    let waits := ((s.inBuffer p.die f.stop f.port p.lane f.chan).takeWhile (fun x => !(x.1 == u && x.2.1 == k))).any (fun x => x.2.2.late.isSome)
    if s.held key < 2 && !waits then
      let s := match f.late with | some o => (if o == 0 then s else s.subHeld o 1) | none => s
      (s.addHeld key 1).setPacket u { p with flits := tins p.flits k { f with late := none, ready := max f.ready (s.cycle + 1) } }
    else
      let back := f.late.isNone && old != 0 && s.held old < bufSlots old
      let s := if back then s.addHeld old 1 else s
      let f := if f.late.isNone then { f with late := some (if back then old else 0) } else f
      (s.setPacket u { p with flits := tins p.flits k f }).post (s.cycle + 1) 5 5000 .flitHop [u, k, 0]

/-- A flit at a stop on its way (R271): the head chooses the channel, the others follow it; each takes a slot. DEDUCED, unsafe: log 14. -/
def moveFlit (u k : Nat) (p : Packet) (f : Flit) (s : State) : State :=
  let dir := dirOf f.stop p.dst
  let next := nextStop f.stop dir
  let again := fun (s : State) => s.waitHop u k p f
  let evc := if pastDateline p.src next dir then 2 else 1
  let room := fun (_ : Unit) => s.escapeHeld p.die next dir p.lane evc < 2
  let free := 6 - s.held (bufKey p.die next (dir + 1) p.lane 0)
  let stuck := [1, 2].any (fun c => (s.inBuffer p.die next (dir + 1) p.lane c).any (fun x => x.2.2.late.isSome))
  if k == 0 then
    let busy := (s.fifoOf (fifoKey p.die f.stop f.port p.lane)).head? != some u
      || s.cycle < tget 0 s.net.lanes (laneKey p.die f.stop dir p.lane)
    if busy then again s
    else if !p.escape && min p.len 6 ≤ free then leaveFlit u 0 p f dir 0 s
    else
      let p := { p with escape := true }
      let s := s.setPacket u p
      if !stuck && room () then leaveFlit u 0 p f dir evc s else again s
  else
    let chan := tget 0 p.chans next
    if (if chan == 0 then 0 < free else !stuck && room ()) then leaveFlit u k p f dir chan s else again s

/-- Whether a request for the stop that it is at finds an earlier one of its lane waiting at the port: it goes first (R273). -/
def State.behindOne (s : State) (u : Nat) (p : Packet) : Bool :=
  let since := fun (q : Packet) => (tget ⟨64, 0, 0, s.cycle, none⟩ q.flits 0).ready
  s.net.packets.any (fun kq =>
    let q := kq.2
    q.die == p.die && q.src == p.src && q.dst == p.src && q.lane == p.lane && !q.flits.isEmpty && (match q.payload with | .req _ => true | _ => false)
      && (since q < since p || (since q == since p && kq.1 < u)))

/-- A flit of a packet: the packet is injected, or the flit hops, or reaches the local port. DEDUCED, unsafe: log 16. -/
def execFlitHop (s : State) : Result :=
  let u := s.arg.headD 0
  let k := s.arg.getD 1 0
  let p := s.packet u
  if s.arg.length == 3 then .next (takeSlot u k (s.arg.getD 2 0) s)
  else if p.src == p.dst then
    (match p.payload with
    | .crewReq _ _ => .next (s.post (s.cycle + 1) 3 550 .crewAccessArrive [u])
    | .req r =>
      if 16 ≤ (s.slice (s.req r).slice).queue.length || s.behindOne u p then
        -- it waits at the port, behind those that wait there
        let s := if p.flits.isEmpty then s.setPacket u { p with flits := [(0, ⟨p.src, 0, 0, s.cycle, none⟩)] } else s
        .next (s.post (s.cycle + 1) 5 p.lane .flitHop [u, k])
      else .next (({ s with net := { s.net with packets := tdel s.net.packets u } }).arrive p)
    | _ => .next (({ s with net := { s.net with packets := tdel s.net.packets u } }).arrive p))
  else if p.flits.isEmpty then
    let fs := (List.range p.len).map (fun j => (j, (⟨p.src, 0, 0, s.cycle + j, none⟩ : Flit)))
    let s := s.setPacket u { p with flits := fs }
    let fk := fifoKey p.die p.src 0 p.lane
    .next ((s.setFifo fk (s.fifoOf fk ++ [u])).postHop u 0 s.cycle)
  else
    let f : Flit := tget ⟨p.dst, 0, 0, 0, none⟩ p.flits k
    .next (if s.cycle < f.ready && f.port != 0 then s.postHop u k f.ready
      else if f.stop == p.dst then ejectFlit u k p f s else moveFlit u k p f s)

end Sys2Proof.Machine
end

