-- ==== Sys2Proof/Machine/Fabric.lean ====
section
/-! DEFINITION. What fabric packets carry (R296, R298, R407). The spec gives the sideband and the data flits of collectives;
how the 64-byte payloads of the other flits are laid out, it does not, and the layouts here are the model's own
(DESIGN CHOICE, unsafe: log 124). -/

namespace Sys2Proof.Machine

open Sys2Proof

/-- A number's bits in a line. -/
def lineBits (x : Line) (hi lo : Nat) : Nat := bits x.toNat hi lo

/-- The operation of a class-0 request: 0 a load, 1 a store, from 2 on an atomic. -/
def GReq.fabricOp (q : GReq) : Nat :=
  match q.acc.kind with
  | .store => 1
  | .tileStore => 1
  | .atomic f => 2 + f
  | _ => 0

/-- The flits of a class-0 request: address, number, operation, type, byte mask and operands; then a store's line.
DESIGN CHOICE, unsafe: log 124. -/
def GReq.fabricLines (q : GReq) (r : Nat) : List Line :=
  let off := match q.acc.kind with | .atomic _ => q.acc.addr % 64 | _ => 0
  BitVec.ofNat 512 (q.pa / 64 * 64 + off + r % 2 ^ 32 * 2 ^ 64 + q.fabricOp * 2 ^ 96 + q.acc.ty * 2 ^ 104 + q.wmask.toNat * 2 ^ 128
      + q.acc.data.toNat % 2 ^ 128 * 2 ^ 192) ::
    (if q.fabricOp == 1 then [q.wdata] else [])

/-- What a class-0 request asks for. DESIGN CHOICE, unsafe: log 124. -/
def accOfOp (op ty pa data : Nat) : Access :=
  { kind := if op == 0 then .load else if op == 1 then .store else .atomic (op - 2), ty := ty, addr := pa, data := BitVec.ofNat 4096 data }

/-- The flits of a response: the number it answers and a status; then a line of data. DESIGN CHOICE, unsafe: log 124. -/
def respLines (tag status : Nat) (data : List Line) : List Line := BitVec.ofNat 512 (tag % 2 ^ 32 + status % 256 * 2 ^ 32) :: data

/-- The flits of a message: the mailbox and its number; then its mailbox entries (R280). DESIGN CHOICE, unsafe: log 124. -/
def Msg.fabricLines (m : Msg) (box tag : Nat) : List Line :=
  [BitVec.ofNat 512 (box % 2 ^ 24 + tag % 2 ^ 32 * 2 ^ 32), BitVec.ofNat 512 (m.hdr.toNat + m.pay.toNat % 2 ^ 448 * 2 ^ 64)]
    ++ (if m.long then [BitVec.ofNat 512 (m.pay.toNat / 2 ^ 448)] else [])

/-- The message that such flits carry. -/
def msgOfLines : List Line → Msg
  | a :: t => { hdr := BitVec.ofNat 64 (lineBits a 63 0), pay := BitVec.ofNat 960 (lineBits a 511 64 + (t.headD 0).toNat * 2 ^ 448) }
  | [] => {}

/-- The head flit of a packet of the windrose: 0 data or 1 credit, the die, the ranks, the channel, the run number, whether
records follow, and the data flits of the whole send. DESIGN CHOICE, unsafe: log 124. -/
def linkHead (kind die src dst chan k : Nat) (sx : Bool) (total : Nat) : Line :=
  BitVec.ofNat 512 (kind + die % 8 * 2 ^ 8 + src % 2 ^ 14 * 2 ^ 16 + dst % 2 ^ 14 * 2 ^ 32 + chan % 2 ^ 16 * 2 ^ 48 + k % 2 ^ 16 * 2 ^ 64
    + (if sx then 2 ^ 80 else 0) + total % 2 ^ 32 * 2 ^ 96)

/-- A data flit: the count in byte 0, then the records (R407). -/
def dataFlit (cnt : Nat) (bytes : List Nat) : Line := BitVec.ofNat 512 (cnt + 256 * packBits 8 bytes)

/-- Records, each whole, in as few data flits as their order allows (R407). -/
def packFlits : List (List Nat) → List Nat → Nat → List Line
  | [], cur, cnt => if cnt == 0 then [] else [dataFlit cnt cur]
  | r :: t, cur, cnt =>
    if cur.length + r.length ≤ 63 then packFlits t (cur ++ r) (cnt + 1) else dataFlit cnt cur :: packFlits t r 1

/-- `n` bytes of an element, lowest first. -/
def elemBytes (n x : Nat) : List Nat := (List.range n).map (fun i => bits x (8 * i + 7) (8 * i))

/-- The data flits of a send: accumulators as their XW records, or elements (R197, R198, R405). -/
def flitsOf (sx : Bool) (size : Nat) (l : List Nat) : List Line :=
  packFlits (l.map (fun x => if sx then xwEncode x else elemBytes size x)) [] 0

/-- The records of a data flit, rebuilt; none where one is reserved or overlong (R198), or where the flit ends before its records do.
DESIGN CHOICE, unsafe: log 136. -/
def takeRecs (sx : Bool) (size : Nat) : Nat → List Nat → Option (List Nat)
  | 0, _ => some []
  | n + 1, l =>
    match (if sx then xwDecode l else some (packBits 8 (l.take size), l.drop size)) with
    | some (x, rest) => (takeRecs sx size n rest).map (x :: ·)
    | none => none

def unpackFlit (sx : Bool) (size : Nat) (x : Line) : Option (List Nat) :=
  takeRecs sx size (lineBits x 7 0) ((elemBytes 64 x.toNat).drop 1)

/-- The elements of a send's data flits. -/
def unpackFlits (sx : Bool) (size : Nat) (l : List Line) : List Nat := l.flatMap (fun x => (unpackFlit sx size x).getD [])

/-- An accumulator as a record rebuilds it (R198). -/
def canonXa (x : Nat) : Nat := ((xwDecode (xwEncode x)).map (·.1)).getD 0

end Sys2Proof.Machine
end

