-- ==== Sys2Proof/Machine/Paging.lean ====
section
/-! DEFINITION. Physical addresses and their homes (R99, R111 to R113, R120), device memory at the LLC, and translation:
tables, TLBs, walkers (R100 to R105). An attribute is a leaf entry with the line's virtual address above bit 128. -/

namespace Sys2Proof.Machine

open Sys2Proof

/-! A leaf entry (R101), as the low 128 bits of an attribute. -/

def atOwner (a : Nat) : Nat := bits a 127 120
def atKey (a : Nat) : Nat := bits a 119 112
def atHse (a : Nat) : Bool := a.testBit 111
def atHs (a : Nat) : Nat := bits a 110 108
def atDidx (a : Nat) : Nat := bits a 107 96
def atAddr (a : Nat) : Nat := bits a 51 9 * 512
def atTm (a : Nat) : Bool := a.testBit 7
def atM (a : Nat) : Bool := a.testBit 6
def atCa (a : Nat) : Nat := bits a 5 4
def atX (a : Nat) : Bool := a.testBit 3
def atW (a : Nat) : Bool := a.testBit 2
def atLeaf (a : Nat) : Bool := a.testBit 1
def atV (a : Nat) : Bool := a.testBit 0
/-- The virtual address of the line, kept above the leaf. -/
def atVa (a : Nat) : Nat := a / 2 ^ 128

/-- Whether accesses of a page go straight to the LLC: CA 10, or M for atomics and full/empty words (R118). -/
def atMemSide (a : Nat) : Bool := atM a || atCa a == 2

/-! Homes. -/

/-- The fields of a tensor descriptor (R249). -/
def dBase (d : Nat) : Nat := bits d 56 0
def dRows (d : Nat) : Nat := bits d 87 64 + 1
def dCols (d : Nat) : Nat := bits d 111 88 + 1
def dType (d : Nat) : Nat := bits d 116 112
def dPitch (d : Nat) : Nat := bits d 175 128
def dTRows (d : Nat) : Nat := bits d 207 192 + 1
def dTCols (d : Nat) : Nat := bits d 223 208 + 1
def dSRow (d : Nat) : Nat := bits d 226 224
def dSCol (d : Nat) : Nat := bits d 229 227
def dElsize (d : Nat) : Nat := tyBits (dType d) / 8

/-- Whether a descriptor is malformed (R249). -/
def dBad (d : Nat) : Bool :=
  bits d 511 230 != 0 || bits d 191 176 != 0 || bits d 127 117 != 0 || bits d 63 57 != 0
  || dType d == 0 || 14 < dType d || dPitch d % 16 != 0 || dPitch d < dCols d * dElsize d
  || 16384 < dTRows d * dTCols d * dElsize d

/-- The fold of R111. -/
def foldSlot (pa : Nat) : Nat :=
  bits pa 12 6 ^^^ bits pa 19 13 ^^^ bits pa 26 20 ^^^ bits pa 33 27 ^^^ bits pa 40 34 ^^^ bits pa 47 41 ^^^ bits pa 51 48

/-- TileSlot of R112 for a virtual address under a descriptor; the fold for bytes outside the tensor. A line that holds bytes of
two tiles has the slot of its first byte's tile. DESIGN CHOICE, unsafe: log 13. -/
def tileSlot (d va pa : Nat) : Nat :=
  let off := va - dBase d
  let i := off / dPitch d
  let j := min (off % dPitch d / dElsize d) (dCols d - 1)
  if va < dBase d || dPitch d == 0 || dRows d ≤ i then foldSlot pa
  else
    let tr := i / dTRows d
    let tc := j / dTCols d
    2 * (8 * ((tr + dSRow d) % 8) + ((tc + dSCol d) % 8)) + (tr / 8 + tc / 8) % 2

/-- HomeSlice (R111 to R113): the slice of a die that holds a line. DESIGN CHOICE, unsafe: log 13. -/
def State.homeSlice (s : State) (die pa attr : Nat) : Nat :=
  let slot := if atTm attr then tileSlot (Config.tileDescriptor (atOwner attr) (atDidx attr)).toNat (atVa attr) pa
    else foldSlot pa
  die * 128 + s.part.remap die slot

/-- The home stack of a line (R120). -/
def homeStack (pa attr : Nat) : Nat :=
  if atHse attr then atHs attr else bits pa 14 12 ^^^ bits pa 17 15 ^^^ bits pa 20 18

/-- The stop of a slice (R113). -/
def sliceStop (l : Nat) : Nat := l % 128 / 2

/-- Whether an address is populated device memory, or lies in a listed fabric window (R99). -/
def State.physOk (s : State) (pa : Nat) : Bool :=
  if pa.testBit 51 then s.fabric.any (fun w => w.1 ≤ pa && pa < w.1 + w.2.1) else pa < 640 * 2 ^ 30

/-! Device memory at the LLC. HBM holds a line of a page with a key encrypted, the LLC holds it decrypted (R121). -/

/-- The XTS key of a context. -/
def State.xtsKey (s : State) (attr : Nat) : BitVec 512 := tget 0 (s.context (atOwner attr)).keys (atKey attr)

/-- A line as HBM holds it. -/
def State.hbmLine (s : State) (line : Nat) : Line :=
  match s.saveAreas.find? (fun a => a.base ≤ line && line < a.base + Config.saveLines a.draw && !a.written.contains line) with
  | some a => Config.saveData a.draw line
  | none => BitVec.ofNat 512 (memRead s.mem (64 * line) 64)

/-- The full/empty bits that the HBM metadata holds for a line (R306). DEDUCED, unsafe: log 25. -/
def State.hbmFe (s : State) (line : Nat) : BitVec 8 :=
  BitVec.ofNat 8 (packBits 1 ((List.range 8).map (fun i => if tget false s.full (8 * line + i) then 1 else 0)))

/-- A line of HBM, decrypted for its page. An access that names no page (attribute 0: a walker, the
planes of a format window) reads it as its writer's page had it. PRESUMED, unsafe: log 6. DESIGN CHOICE, unsafe: log 110. -/
def State.plainLine (s : State) (line attr : Nat) : Line :=
  let at_ := if attr == 0 then tget 0 s.hbmAttr line else attr
  if atKey at_ == 0 then s.hbmLine line else xtsDecrypt (s.xtsKey at_) line (s.hbmLine line)

/-- A line as the LLC reads it: its own copy, or HBM's. -/
def State.llcLine (s : State) (line attr : Nat) : Line :=
  match (tget { tag := 2 ^ 64 } s.llc line) with
  | c => if c.tag == line then c.data else s.plainLine line attr

/-- `n` bytes of device memory at the LLC. -/
def State.llcBytes (s : State) (pa attr : Nat) : Nat → Nat
  | 0 => 0
  | n + 1 => bits (s.llcLine (pa / 64) attr).toNat (8 * (pa % 64) + 7) (8 * (pa % 64)) + 256 * s.llcBytes (pa + 1) attr n

/-! Walks (R100 to R102). -/

/-- The table index of a level: T3 is 3. -/
def vaIndex (va level : Nat) : Nat :=
  match level with
  | 3 => bits va 56 39
  | 2 => bits va 38 30
  | 1 => bits va 29 21
  | _ => bits va 20 16

/-- The page size of a leaf of a level. -/
def pageSize (level : Nat) : Nat := match level with | 2 => 2 ^ 30 | 1 => 2 ^ 21 | _ => 2 ^ 16

/-- What an entry says. -/
inductive WalkStep where
  | next (table : Nat)
  | leaf (t : Trans)
  | fault (code : Nat)
  deriving DecidableEq, Repr

/-- One entry of a walk (R102). In a pointer entry, only V, LEAF and ADDR are read (R101). -/
def State.walkEntry (s : State) (ctx va level e : Nat) : WalkStep :=
  if !atV e then .fault fcPage
  else if !atLeaf e then
    if level == 0 then .fault fcPage else if s.physOk (atAddr e) then .next (atAddr e) else .fault fcPage
  else
    let size := pageSize level
    let last := atAddr e + size - 1
    if level == 3 || bits e 95 52 != 0 || e.testBit 8 || atCa e == 3 || atAddr e % size != 0
        || (atM e && atCa e != 2) || (e.testBit 51 && atCa e != 2) || !s.physOk (atAddr e) || !s.physOk last then
      .fault fcPage
    else if atOwner e != ctx then .fault fcPerm
    else .leaf { ctx := ctx, base := va / size * size, size := size, leaf := BitVec.ofNat 128 e }

/-- The whole walk at once, over the tables as the LLC holds them now. -/
def State.walkFrom (s : State) (ctx va : Nat) : Nat → Nat → WalkStep
  | 0, _ => .fault fcPage
  | fuel + 1, table =>
    match s.walkEntry ctx va fuel (s.llcBytes (table + 16 * vaIndex va fuel) 0 16) with
    | .next t => s.walkFrom ctx va fuel t
    | r => r

/-- The translation root of a context (R100, R354). -/
def State.root (s : State) (ctx : Nat) : Nat := fieldOf (s.context ctx).record 51 0

def State.walkNow (s : State) (ctx va : Nat) : WalkStep := s.walkFrom ctx va 4 (s.root ctx)

/-! TLBs (R104). -/

def Trans.covers (t : Trans) (ctx va : Nat) : Bool := t.ctx == ctx && t.base ≤ va && va < t.base + t.size

/-- The physical address of a virtual one under a translation. -/
def Trans.pa (t : Trans) (va : Nat) : Nat := atAddr t.leaf.toNat + (va - t.base)

/-- The attribute of a line under a translation. -/
def Trans.attr (t : Trans) (va : Nat) : Nat := t.leaf.toNat + 2 ^ 128 * (va / 64 * 64)

/-- A lookup in a TLB or walk cache. -/
def findTrans (l : List Trans) (ctx va : Nat) : Option Trans := l.find? (fun t => t.covers ctx va)

/-- The list with the entry as its most recent one, of at most `n`. -/
def useTrans (n : Nat) (l : List Trans) (t : Trans) : List Trans := (t :: l.filter (· != t)).take n

/-- A TLB lookup, which makes the entry the most recent. -/
def State.tlb (s : State) (cluster ctx va : Nat) : Option Trans × State :=
  match findTrans (s.cluster cluster).tlb ctx va with
  | none => (none, s)
  | some t => (some t, s.updCluster cluster (fun c => { c with tlb := useTrans 512 c.tlb t }))

/-- A miss: one walk request per block of a cluster; further misses to the block wait inside the cluster (R104). The
request leaves the cluster's stop as a packet that a core issues (R269). DEDUCED, unsafe: log 18. -/
def State.missTlb (s : State) (cluster ctx va : Nat) (w : Waiter) : State :=
  let block := va / 65536
  let old := (s.cluster cluster).walks.find? (fun k =>
    let x := tget {} s.walks k
    x.ctx == ctx && x.block == block)
  match old with
  | some k =>
    let x := tget {} s.walks k
    { s with walks := tput {} s.walks k { x with waiters := if x.waiters.contains w then x.waiters else x.waiters ++ [w] } }
  | none =>
    let (k, s) := s.fresh
    let s := { s with walks := tput {} s.walks k { cluster := cluster, ctx := ctx, block := block, waiters := [w] } }
    let s := s.updCluster cluster (fun c => { c with walks := c.walks ++ [k] })
    let die := cluster / 256
    s.offer die (s.part.stopOf (cluster / 4)) (56 + block % 128 / 32) 0 1 (s.cycle + 6) 0 (.walkReq k)

/-! Walkers (R105). -/

def State.walker (s : State) (die n : Nat) : Walker := tget {} (s.die die).walkers n
def State.setWalker (s : State) (die n : Nat) (w : Walker) : State :=
  s.updDie die (fun d => { d with walkers := tput {} d.walkers n w })

/-- The walker of a block: VA bits [22:21]. -/
def walkerOf (block : Nat) : Nat := block / 32 % 4

/-- The answer of a walk is known now: a packet carries it to the cluster. -/
def State.answerWalk (s : State) (k : Nat) (a : Trans ⊕ Nat) (t : Nat) : State :=
  let w : Walk := tget {} s.walks k
  let s := { s with walks := tput {} s.walks k { w with answer := some a } }
  s.offer (w.cluster / 256) (56 + walkerOf w.block) (s.part.stopOf (w.cluster / 4)) 0 1 t 3 (.walkAns k)

/-- Reads an entry of a level at the LLC, with the figures of R120 from the walker's die. The read names no page: no KEY and
no home-stack override apply. DESIGN CHOICE, unsafe: log 110. -/
def State.readEntry (s : State) (k level table : Nat) : State :=
  let w : Walk := tget {} s.walks k
  let pa := table + 16 * vaIndex (w.block * 65536) level
  let (r, s) := s.fresh
  let s := s.setReq r { id := r, pa := pa, llc := true, die := w.cluster / 256, at_ := s.cycle, ctx := w.ctx, sink := .walk k level }
  s.post (s.cycle + 150 + 48 * dieClass (w.cluster / 256) (homeStack pa 0)) 3 100 .llcAccess [r]

/-- Whether a walk under way is of the page that holds a block: its own block, or one that the leaf it will find covers.
DESIGN CHOICE, unsafe: log 111. -/
def State.walkCovers (s : State) (y : Walking) (ctx block : Nat) : Bool :=
  y.ctx == ctx && (y.block == block || (match s.walkNow ctx (y.block * 65536) with
    | .leaf t => t.covers ctx (block * 65536)
    | _ => false))

/-- The clusters whose requests a list holds. -/
def State.walkClusters (s : State) (l : List Nat) : List Nat :=
  l.foldr (fun k cs => let c := (tget ({} : Walk) s.walks k).cluster; if cs.contains c then cs else c :: cs) []

/-- A request at its walker: answered from the walk cache, joined to a walk of its page, refused, or walked (R105). A walker
walks any number of pages at once. DEDUCED, unsafe: log 20. DESIGN CHOICE, unsafe: log 111. -/
def State.walkArrives (s : State) (k : Nat) : State :=
  let w : Walk := tget {} s.walks k
  let die := w.cluster / 256
  let n := walkerOf w.block
  let x := s.walker die n
  match findTrans x.cache w.ctx (w.block * 65536) with
  -- the cache keeps the last 64 that were completed, whatever is used since (R105)
  | some t => s.answerWalk k (.inl t) (s.cycle + 1)
  | none =>
    match x.walks.find? (fun y => s.walkCovers y w.ctx w.block) with
    | some y =>
      let cs := s.walkClusters y.list
      if 16 ≤ cs.length && !cs.contains w.cluster then s.post (s.cycle + 32) 3 600 .walkRetry [k]
      else s.setWalker die n { x with walks := x.walks.map (fun z => if z = y then { z with list := z.list ++ [k] } else z) }
    | none =>
      (s.setWalker die n { x with walks := x.walks ++ [⟨w.ctx, w.block, [k]⟩] }).readEntry k 3 (s.root w.ctx)

/-- A walk's outcome is known: every request of its list that it covers is answered, and the others arrive anew. -/
def State.walkDone (s : State) (k : Nat) (a : Trans ⊕ Nat) : State :=
  let w : Walk := tget {} s.walks k
  let die := w.cluster / 256
  let n := walkerOf w.block
  let x := s.walker die n
  let list := (x.walks.filter (fun y => y.ctx == w.ctx && y.block == w.block)).flatMap (·.list)
  let cache := match a with | .inl t => useTrans 64 x.cache t | .inr _ => x.cache
  let s := s.setWalker die n { walks := x.walks.filter (fun y => !(y.ctx == w.ctx && y.block == w.block)), cache := cache }
  list.foldl (fun s j =>
    let v : Walk := tget {} s.walks j
    let mine := v.block == w.block || (match a with | .inl t => t.covers v.ctx (v.block * 65536) | .inr _ => false)
    if mine then s.answerWalk j a s.cycle else s.walkArrives j) s

/-- A walk request arrives at its walker; or an entry it reads has been read, and the walk goes on (R105). -/
def execTlbMissWalk (s : State) : Result :=
  let k := s.arg.headD 0
  match s.arg.drop 1 with
  | [level, r] =>
    let w : Walk := tget {} s.walks k
    let q := s.req r
    let e := bits q.rdata.toNat (8 * (q.pa % 64) + 127) (8 * (q.pa % 64))
    let s := { s with reqs := tdel s.reqs r }
    (match s.walkEntry w.ctx (w.block * 65536) level e with
    | .next t => .next (s.readEntry k (level - 1) t)
    | .leaf t => .next (s.walkDone k (.inl t))
    | .fault c => .next (s.walkDone k (.inr c)))
  | _ => .next (s.walkArrives k)

/-- A refused walk request tries again (R105). -/
def execWalkRetry (s : State) : Result := .next (s.walkArrives (s.arg.headD 0))

end Sys2Proof.Machine
end

