-- ==== Sys2Proof/Machine/Access.lean ====
section
/-! DEFINITION. How an access leaves its core: the lines it touches, their translation, the L1 (R106 to R110), requests
to home slices and to the LLC, pond queues and crew packets; fences that hold it (R316), and its performance (R333). -/

namespace Sys2Proof.Machine

open Sys2Proof

/-! Lines and pond words of an access. -/

/-- The elements of an access grouped by their 64-byte line, in order of first touch (R126, R127). -/
def groupElems : List Elem → List (Nat × List Elem) → List (Nat × List Elem)
  | [], acc => acc
  | e :: t, acc =>
    let l := e.addr / 64
    groupElems t (if acc.any (fun g => g.1 == l) then acc.map (fun g => if g.1 == l then (l, g.2 ++ [e]) else g)
      else acc ++ [(l, [e])])

/-- The lines that an access touches, with the elements in each: ascending over its whole extent where it has one
(R126), else in order of the lowest lane (R127). DEDUCED, unsafe: log 22. -/
def Access.lines (a : Access) : List (Nat × List Elem) :=
  if a.span == 0 then groupElems a.elems []
  else
    let l0 := a.addr / 64
    (List.range ((a.addr + a.span - 1) / 64 + 1 - l0)).map (fun i =>
      (l0 + i, a.elems.filter (fun e => e.addr / 64 == l0 + i)))

/-- `x` with `n` bits from `off` on replaced. -/
def putBits (x off n v : Nat) : Nat := x - bits x (off + n - 1) off * 2 ^ off + v % 2 ^ n * 2 ^ off

/-- The bytes of a line that elements cover, as a byte mask. -/
def elemsMask (es : List Elem) : BitVec 64 :=
  es.foldl (fun m e => m ||| BitVec.ofNat 64 ((2 ^ e.n - 1) * 2 ^ (e.addr % 64))) 0

/-- The data of elements in their places of a line; a later element remains (R127). -/
def elemsData (data : VPair) (es : List Elem) : Line :=
  BitVec.ofNat 512 (es.foldl (fun x e =>
    putBits x (8 * (e.addr % 64)) (8 * e.n) (bits data.toNat (e.bit + 8 * e.n - 1) e.bit)) 0)

/-- What a line gives the elements of an access: their bits in a register. -/
def elemsValue (ln : Line) (es : List Elem) : VReg :=
  BitVec.ofNat 2048 (es.foldl (fun x e =>
    putBits x e.bit (8 * e.n) (bits ln.toNat (8 * (e.addr % 64) + 8 * e.n - 1) (8 * (e.addr % 64)))) 0)

/-- A line with the bytes of a mask replaced. -/
def mergeLine (old new : Line) (mask : BitVec 64) : Line :=
  BitVec.ofNat 512 (mergeBytes 64 old.toNat new.toNat mask.toNat)

/-- Whether an access is an atomic or a full/empty word, which `bar` and an atomic's order concern (R35, R130). -/
def AccKind.isAtomic : AccKind → Bool
  | .atomic _ => true | .fill => true | .empty => true | .peek => true | .take => true
  | _ => false

/-- Whether an access needs W = 1 on its page (R102, R304, R392). -/
def AccKind.writes : AccKind → Bool
  | .store => true | .atomic _ => true | .fill => true | .empty => true | .take => true | .tileStore => true
  | _ => false

/-- Whether an access holds a return-buffer entry. -/
def AccKind.hasEntry : AccKind → Bool
  | .load => true | .atomic _ => true | .peek => true | .take => true | .chk => true | .blkLoad => true
  | .xrnd => true | .tileLoad _ => true | .tileStore => true | .deposit => true | .launchRec => true
  | _ => false

/-! Requests to the homes of device memory. -/

/-- A request of a core for a line, as it stands when it is sent. -/
def State.mkReq (s : State) (a : Access) (core pa attr t : Nat) (es : List Elem) (sink : Sink) : GReq :=
  { acc := a, pa := pa, elems := es, wdata := elemsData a.data es, wmask := elemsMask es, attr := attr
    ctx := atOwner attr, core := core + 1, die := core / 2048, stop := s.part.stopOf (core / 32), lane := bits pa 8 6, at_ := t
    sink := sink, slice := s.homeSlice (core / 2048) pa attr }

/-- Sends a request to its home slice: it reaches the slice's queue at t + 6 + 3q (R114, R434). -/
def State.toSlice (s : State) (q : GReq) (t : Nat) : State :=
  let (r, s) := s.fresh
  (s.setReq r { q with id := r, at_ := t }).offer q.die q.stop (sliceStop q.slice) q.lane 1 (t + 6) 0 (.req r)

/-- Sends a request to the LLC of its home stack: it arrives there at t + 150 + 48c (R120). DEDUCED, unsafe: log 19. -/
def State.toLlc (s : State) (q : GReq) (t : Nat) : State :=
  let (r, s) := s.fresh
  (s.setReq r { q with id := r, at_ := t, llc := true }).post
    (t + 150 + 48 * dieClass q.die (homeStack q.pa q.attr)) 3 100 (if q.acc.kind.isFe then .feHomeServe else .llcAccess) [r]

/-- A fabric-window access crosses to the I/O link of its row and goes out as a class-0 request at the port that the window's
node is reached by (R289, R298). DEDUCED, unsafe: log 81. -/
def State.toWindow (s : State) (q : GReq) : State :=
  let (r, s) := s.fresh
  let ls := q.fabricLines r
  (s.setReq r { q with id := r }).offerOut q.die q.stop q.lane 1 (s.cycle + 6) 0 0 (s.windowNode q.pa) ls 1 r

/-! The L1 (R106 to R108). -/

def l1Set (pa : Nat) : Nat := pa / 64 % 256

/-- The line of a core's L1, if it is present. -/
def State.l1Find (s : State) (core pa : Nat) : Option CLine :=
  (tget [] (s.core core).l1 (l1Set pa)).find? (fun l => l.tag == pa / 64)

def State.setL1 (s : State) (core set : Nat) (ls : List CLine) : State :=
  let c := s.core core
  s.setCore core { c with l1 := tput [] c.l1 set ls }

/-- A write-back of a line's dirty bytes to the home slice (R108, R434). DEDUCED, unsafe: log 24. -/
def State.wbL1 (s : State) (core : Nat) (l : CLine) (t : Nat) (sink : Sink) : State :=
  if l.dirty == 0 then s
  else
    let q := s.mkReq { kind := .store } core (l.tag * 64) l.attr t [] sink
    s.toSlice { q with wdata := l.data, wmask := l.dirty, writeBack := true } t

/-- Puts a line into its set as the most recent; the least recent of four goes, written back (R106, R108). -/
def State.putL1 (s : State) (core : Nat) (l : CLine) (t : Nat) : State :=
  let set := l.tag % 256
  let ls := (tget [] (s.core core).l1 set).filter (fun x => x.tag != l.tag)
  let s := s.setL1 core set ((l :: ls).take 4)
  (ls.drop 3).foldl (fun s x => s.wbL1 core x t .none) s

/-- Removes a line from an L1, its dirty bytes written back first (R110, R130). DEDUCED, unsafe: log 23. -/
def State.flushL1 (s : State) (core pa t : Nat) (sink : Sink) : State :=
  match s.l1Find core pa with
  | none => s
  | some l =>
    let set := l1Set pa
    let s := s.setL1 core set ((tget [] (s.core core).l1 set).filter (fun x => x.tag != l.tag))
    s.wbL1 core l t sink

/-- A line's data and dirty bytes in an L1, from which the line goes (R130). -/
def State.takeL1 (s : State) (core pa : Nat) : (Line × BitVec 64) × State :=
  let set := l1Set pa
  (match s.l1Find core pa with | some l => (l.data, l.dirty) | none => (0, 0),
    s.setL1 core set ((tget [] (s.core core).l1 set).filter (fun x => x.tag != pa / 64)))

/-- A core's L1 gives up what it has not stored itself of the lines that `hit` names, and what it fetches of them (R110, R131, R310). -/
def State.dropStale (s : State) (core : Nat) (hit : CLine → Bool) : State :=
  let c := s.core core
  let keep := fun (l : CLine) => if !hit l then some l else if l.dirty == 0 then none
    else some { l with valid := l.dirty, miss := none, newer := 0 }
  s.setCore core { c with l1 := (c.l1.map (fun kl => (kl.1, kl.2.filterMap keep))).filter (fun kl => !kl.2.isEmpty) }

/-- Whether a byte mask covers whole 32-byte sectors only. -/
def wholeSectors (m : BitVec 64) : Bool :=
  let lo := m.toNat % 2 ^ 32
  let hi := m.toNat / 2 ^ 32
  m != 0 && (lo == 0 || lo == 2 ^ 32 - 1) && (hi == 0 || hi == 2 ^ 32 - 1)

/-- A load or a `pfg core` of a line of a CA 00 page (R107): parts not performed at once, and the state. A `pfg core`
fetches whatever the line holds, since it reaches the home slice too (R129). Bytes that are valid the load takes from the lookup, so
that no later load that hits them takes older ones (R335, R341). -/
def State.l1Load (s : State) (a : Access) (core pa attr t : Nat) (es : List Elem) : State × Nat :=
  let need := elemsMask es
  let pf := a.kind == .prefetch 1
  let q := s.mkReq a core pa attr t es .none
  match s.l1Find core pa with
  | some l =>
    if !pf && need &&& ~~~ l.valid == 0 then
      let s := s.putL1 core l t
      let (r, s) := s.fresh
      ((s.setReq r { q with id := r, rdata := l.data, wmask := 0, sink := .entry a.slot a.uid }).landReq r (t + 10), 0)
    else
      let sink := if pf then Sink.prefetchL1 core else Sink.l1 core a.slot a.uid
      let r := s.uid
      -- the bytes stored from now on are newer than this fetch, and those before it go home ahead of it
      let s := s.putL1 core { l with miss := some (r :: l.miss.getD []), newer := 0 } t
      (s.toSlice { q with wdata := l.data, wmask := l.dirty, keep := l.valid, sink := sink } t, if pf then 0 else 1)
  | none =>
    if a.bud != 0 then
      (s.toSlice { q with wmask := 0, sink := if pf then .none else .entry a.slot a.uid } t, if pf then 0 else 1)
    else
      let sink := if pf then Sink.prefetchL1 core else Sink.l1 core a.slot a.uid
      let r := s.uid
      let s := s.toSlice { q with wmask := 0, sink := sink } t
      (s.putL1 core { tag := pa / 64, attr := attr, miss := some [r] } t, if pf then 0 else 1)

/-- A store to a line of a CA 00 page (R107). -/
def State.l1Store (s : State) (a : Access) (core pa attr t : Nat) (es : List Elem) : State × Nat :=
  let mask := elemsMask es
  let data := elemsData a.data es
  if mask == 0 then (s, 0)
  else
    match s.l1Find core pa with
    | some l =>
      let newer := if l.miss.isSome then l.newer ||| mask else 0
      (s.putL1 core { l with data := mergeLine l.data data mask, valid := l.valid ||| mask, dirty := l.dirty ||| mask, newer := newer, attr := attr } t, 0)
    | none =>
      if wholeSectors mask then
        (s.putL1 core { tag := pa / 64, data := mergeLine 0 data mask, valid := mask, dirty := mask, attr := attr } t, 0)
      else (s.toSlice (s.mkReq a core pa attr t es .none) t, 1)

/-- One line of a global access, whose page is known, leaves at `t`: the parts it leaves to be performed. DEDUCED, unsafe: log 23.
A `pfg` or `clg`
of a fabric-window page is a class-0 request, and a `pfg` at core or die scope of a page of CA 10 does nothing. DESIGN CHOICE, unsafe: log 155. -/
def State.startLine (s : State) (a : Access) (core pa attr t : Nat) (es : List Elem) : State × Nat :=
  let entry := Sink.entry a.slot a.uid
  let q := s.mkReq a core pa attr t es entry
  if attr.testBit 51 then
    (match a.kind with
    | .launchRec =>
      let m := s.sent a.aux
      ((s.setSent a.aux { m with msg := { m.msg with pay := BitVec.ofNat 960 (pa + 2 ^ 64 * attr) } }).post t 3 620 .sendStatus [1, a.aux], 0)
    | _ => (s.toWindow q, 1))
  else
    let ca := atCa attr
    match a.kind with
    | .prefetch sc =>
      let q := { q with sink := .none, wmask := 0 }
      if sc == 6 then (s.toLlc q t, 0)
      else if ca == 2 then (s, 0)
      else if sc == 1 && ca == 0 then s.l1Load a core pa attr t es
      else (s.toSlice q t, 0)
    | .clean sc =>
      -- dirty bytes go to the home slice whatever page now reaches the line
      let w := s.takeL1 core pa
      let q := { q with wdata := w.1.1, wmask := w.1.2, sink := .none, writeBack := true }
      if w.1.2 == 0 && sc < 6 then (w.2, 0) else (w.2.toSlice q t, 1)
    | .launchRec =>
      -- as `clg` at pkg scope does; the message, which names the record's place, leaves once all is performed (R318)
      let m := s.sent a.aux
      let s := s.setSent a.aux { m with msg := { m.msg with pay := BitVec.ofNat 960 (pa + 2 ^ 64 * attr) } }
      let w := s.takeL1 core pa
      let (j, s) := w.2.fresh
      let s := { s with joins := tput {} s.joins j { left := 1, stage := 2, sent := some a.aux } }
      (s.toSlice { q with acc := { kind := .clean 6 }, wdata := w.1.1, wmask := w.1.2, sink := .join j, writeBack := true } t, 0)
    | .load =>
      if ca == 0 then s.l1Load a core pa attr t es
      else
        let s := s.flushL1 core pa t .none
        let q := { q with wmask := 0 }
        (if ca == 2 then s.toLlc q t else s.toSlice q t, 1)
    | .store =>
      if ca == 0 then s.l1Store a core pa attr t es
      else if q.wmask == 0 then (s, 0)
      else
        let s := s.flushL1 core pa t .none
        let q := { q with sink := .none }
        (if ca == 2 then s.toLlc q t else s.toSlice q t, 1)
    | k =>
      -- an XA64 covers five lines (R392)
      let s := (List.range (if k == .atomic 11 then 5 else 1)).foldl (fun s i => s.flushL1 core (pa + 64 * i) t .none) s
      (if atMemSide attr then s.toLlc q t else s.toSlice q t, 1)

/-! Faults of an access (R19, R128). -/

/-- The fault of an access after issue: on its entry, or in a fault record that the slot keeps for the thread, in order of
issue; a thread that has left takes none, and a prefetch does nothing (R18, R19, R128, R129). -/
def State.accessFault (s : State) (a : Access) (code addr : Nat) : State :=
  match a.kind with
  | .prefetch _ => s
  | _ =>
    let g := s.follow a.slot
    if (s.entry g a.uid).isSome then s.faultEntry g a.uid s.cycle code addr
    else if (s.slot g).thread != a.thread then s
    else
      (s.updSlot g (fun x => { x with rb := insertEntry { uid := a.uid, ix := a.ix, isRec := true, fault := some (code, addr), acc := some a } x.rb })).landAt
        g a.uid s.cycle

/-- Whether a page denies an access (R102): a write without W; a full/empty form on a window (R304); `.xadd64` on a page
whose atomics a slice performs; exact addition on a window to a host (R392). -/
def State.denies (s : State) (a : Access) (t : Trans) (va : Nat) : Bool :=
  let l := t.leaf.toNat
  let win := l.testBit 51
  (a.kind.writes && !atW l) || (win && a.kind.isFe) || (a.kind == .atomic 11 && !atMemSide l && !win)
    || (win && 1024 ≤ s.windowNode (t.pa va) && (a.kind == .atomic 10 || a.kind == .atomic 11))

/-- Whether the translation of an access would fail at an address, by the cluster's TLB or else the tables as they stand.
DEDUCED, unsafe: log 28. -/
def State.willFault (s : State) (a : Access) (va : Nat) : Bool :=
  let bad := fun (t : Trans) => s.denies a t va
  match findTrans (s.cluster (clusterOf (s.follow a.slot))).tlb a.ctx va with
  | some t => bad t
  | none => match s.walkNow a.ctx va with
    | .leaf t => bad t
    | .fault _ => true
    | .next _ => true

/-- A store whose translation will fail keeps a record in the order of issue until its walk ends (R128). DEDUCED, unsafe: log 28. -/
def State.provisional (s : State) (a : Access) : State :=
  let g := s.follow a.slot
  let recs := match a.kind with | .store => true | .clean _ => true | .fill => true | .empty => true | _ => false
  if a.space == .glob && recs && (s.slot g).thread == a.thread && a.lines.any (fun l => s.willFault a (64 * l.1)) && (s.entry g a.uid).isNone then
    s.updSlot g (fun x => { x with rb := insertEntry { uid := a.uid, ix := a.ix, isRec := true, acc := some a } x.rb })
  else s

/-- The record of a store that has translated after all goes. -/
def State.unrecord (s : State) (a : Access) : State :=
  if (s.entry a.slot a.uid).any (·.isRec) then
    s.updSlot (s.follow a.slot) (fun x => { x with rb := x.rb.filter (fun e => !(e.isRec && e.uid == a.uid)) })
  else s

/-- The address a fault of a line names: the lowest byte the access touches there. -/
def Access.faultVa (a : Access) (g : Nat × List Elem) : Nat :=
  match g.2 with
  | e :: _ => if a.span == 0 then e.addr else max a.addr (64 * g.1)
  | [] => max a.addr (64 * g.1)

/-- The set of a line in its slice (R117). -/
def l2Set (pa : Nat) : Nat := bits pa 22 13

/-- A line by its place in this package: a window to the own node reaches the same one (R298). -/
def State.ownLine (s : State) (line : Nat) : Nat :=
  if line.testBit 45 && s.windowNode (64 * line) == s.part.pkgix then line % 2 ^ 45 else line

/-- A line with every store to it that has been performed, wherever its bytes stand: at home, in slices and L1s, and on the way between
them. -/
def State.newestLine (s : State) (line attr : Nat) : Line :=
  let own := fun (d : Line) (l : List CLine) => l.foldl (fun d c => if c.tag == line then mergeLine d c.data c.dirty else d) d
  let sent := fun (llc : Bool) (d : Line) => s.reqs.foldl (fun d kq =>
    if kq.2.writeBack && kq.2.llc == llc && kq.2.pa / 64 == line then mergeLine d kq.2.wdata kq.2.wmask else d) d
  let d := s.slices.foldl (fun d ks => own d (tget [] ks.2.sets (l2Set (64 * line)))) (sent true (s.llcLine line attr))
  s.cores.foldl (fun d kc => own d (tget [] kc.2.l1 (l1Set (64 * line)))) (sent false d)

/-- Whether a line may be fetched as code: an instruction cache holds or awaits it, or a cluster holds a translation with X to it. -/
def State.codeLine (s : State) (line : Nat) : Bool :=
  s.clusters.any (fun kc => kc.2.icache.any (fun x => s.ownLine x.1 == line) || kc.2.ifill.any (fun x => s.ownLine x == line)
    || kc.2.tlb.any (fun t => atX t.leaf.toNat && atAddr t.leaf.toNat ≤ 64 * line && 64 * line < atAddr t.leaf.toNat + t.size))

/-- A store that writes some lines, not all at once, begins: where one of them may be fetched as code, the lines are kept as they
are before it (R38). Each comes with its attribute and the bytes that are written. DESIGN CHOICE, unsafe: log 114. -/
def State.codeStore (s : State) (ls : List (Nat × Nat × BitVec 64)) : State :=
  let ls := (ls.map (fun l => (s.ownLine l.1, l.2))).filter (fun l => !l.1.testBit 45)
  if ls.any (fun l => s.codeLine l.1) then
    { s with codeStores := s.codeStores ++ [{ lines := ls.map (fun l => (l.1, s.newestLine l.1 l.2.1, l.2.2)) }] }
  else s

/-- The next line of an access leaves on the next cycle (R126). -/
def State.postSend (s : State) (g uid : Nat) : State := s.post (s.cycle + 1) 1 850 .writeBack [5, g, uid]

/-- A global access leaves the core: every line is translated before any byte moves, and the lines are sent on
consecutive cycles (R126), the first of them now; the parts it leaves to be performed. DEDUCED, unsafe: log 40.
Of several lines that fault the report
names one. DESIGN CHOICE, unsafe: log 156. -/
def State.startGlobal (s : State) (a : Access) : State × Nat :=
  let slot := s.follow a.slot
  let ctx := a.ctx
  let cl := clusterOf slot
  let core := coreOf slot
  let gs := a.lines
  let r := gs.foldl (fun (r : State × List (Nat × Nat × Nat × List Elem) × List Nat × Option (Nat × Nat)) g =>
    let va := 64 * g.1
    let (t, s) := r.1.tlb cl ctx va
    match t with
    | none => (s, r.2.1, r.2.2.1 ++ [va], r.2.2.2)
    | some t =>
      let bad := s.denies a t va
      (s, r.2.1 ++ [(g.1, t.pa va, t.attr va, g.2)], r.2.2.1,
        if bad && r.2.2.2.isNone then some (fcPerm, a.faultVa g) else r.2.2.2)) (s, [], [], none)
  let s := r.1
  if !r.2.2.1.isEmpty then
    (r.2.2.1.foldl (fun s va => s.missTlb cl ctx va (.access a)) (s.provisional a), 1)
  else
    match r.2.2.2 with
    | some f => (s.accessFault a f.1 f.2, 0)
    | none =>
      let s := s.unrecord a
      let s := if a.kind == .store && 1 < r.2.1.length then s.codeStore (r.2.1.map (fun l => (l.2.1 / 64, l.2.2.1, elemsMask l.2.2.2))) else s
      match r.2.1 with
      | [] => (s, 0)
      | l :: rest =>
        let (s, n) := s.startLine a core l.2.1 l.2.2.1 s.cycle l.2.2.2
        if rest.isEmpty then (s, n) else ((s.updSlot slot (fun x => { x with sending := x.sending ++ [⟨a, rest⟩] })).postSend slot a.uid, n + rest.length)

/-! The pond side (R147, R276). -/

/-- The pond queue of port X of a core (R145). -/
def portX (g : Nat) : Nat := (clusterOf g * 8 + coreIx g) * 2
/-- The pond queue of a guest lane on port Y (R145). No rule gives the windrose or the combine logic a bank-ALU command, so that lane 7
stays empty. DESIGN CHOICE, unsafe: log 158. -/
def portY (cluster lane : Nat) : Nat := (cluster * 8 + lane) * 2 + 1

/-- Whether a kind is a block operation (R147, R150, R170, R222 to R224). -/
def AccKind.isBlock : AccKind → Bool
  | .blkLoad => true | .blkStore => true | .xacc => true | .xrnd => true | .xclr => true | .atomic 11 => true
  | .deposit => true | .chunkStore => true | .chunkLoad => true | .tileLoad _ => true | .tileStore => true
  | _ => false

/-- The requests of an access: one per pond word it covers, or one per stripe of block operations (R147, R222). -/
def Access.words (a : Access) : List (Nat × List Elem) :=
  if a.kind.isBlock then (List.range (a.span / 512)).map (fun k => (a.addr / 64 + 8 * k, [])) else a.lines

/-- Entry (omega, c) of the active outer table, entry (phi, j) of the active inner one (R142). -/
def Mill.outer (m : Mill) (t c : Nat) : Nat := camEntry 2 4 m.camOutAct.toNat (t / 8 % 4) c
def Mill.inner (m : Mill) (t j : Nat) : Nat := camEntry 3 8 m.camInAct.toNat (t % 8) j

/-- Group and bank of a pond offset (R139). -/
def offGroup (off : Nat) : Nat := bits off 20 19
def offBank (off : Nat) : Nat := bits off 8 6

/-- The first cycle at or after `t` at which lane `j` of a cluster meets a bank of a group; two rounds are searched. -/
def Mill.meets (m : Mill) (c j g b t : Nat) : Nat :=
  ((List.range 64).find? (fun k => m.outer (t + k) c == g && m.inner (t + k) j == b)).elim (t + 64) (t + ·)

/-- The first turn that begins at or after `t` in which a cluster faces a group. -/
def Mill.faces (m : Mill) (c g t : Nat) : Nat :=
  let t0 := nextAt t 8 0
  ((List.range 8).find? (fun k => m.outer (t0 + 8 * k) c == g)).elim (t0 + 64) (t0 + 8 * ·)

/-- Class within a cycle: port X before port Y (R146). DEDUCED, unsafe: log 106. -/
def portClass (port : Nat) : Nat := if port % 2 == 0 then 3 else 4

/-- Puts the next try of a pond request on the agenda, no earlier than `t`. -/
def State.postPond (s : State) (q : PondReq) (t : Nat) : State :=
  let cl := q.port / 16
  let lane := q.port / 2 % 8
  let m := s.mill (cl / 4)
  let t := max t q.entry
  if q.block then s.post (m.faces (cl % 4) (offGroup q.off) t) (portClass q.port) lane .blockTurn [q.port, q.id]
  else s.post (m.meets (cl % 4) lane (offGroup q.off) (offBank q.off) t) (portClass q.port) (lane + 16) .pondWordService [q.port, q.id]

/-- Requests enter a pond queue at a cycle, in ascending word order (R147, R276). -/
def State.enqueuePond (s : State) (a : Access) (port entry : Nat) (packet : Option Nat) : State :=
  (a.words.foldl (fun (r : State × Nat) w =>
    let (u, s) := r.1.fresh
    let q : PondReq := { id := u, acc := { a with elems := if a.kind.isBlock then a.elems else w.2 }, off := w.1 * 64, block := a.kind.isBlock,
                         entry := entry, part := r.2, packet := packet, port := port }
    ((s.setPort port (s.port port ++ [q])).postPond q entry, r.2 + 1)) (s, 0)).1

/-- A crew access leaves for its member's network port: by its own port at issue + 4, or as a packet (R276). -/
def State.startCrew (s : State) (a : Access) : State :=
  let g := s.follow a.slot
  let m := s.mill (millOf g)
  let k := bits a.addr 24 21
  let off := a.addr % 2 ^ 21
  let die := dieOf g
  let stop := s.part.stopOf (millOf g)
  let mine := k == m.crewIx
  -- the crew table maps a crew index to a physical mill (R275), which is its stop
  let dst := if mine then stop else (m.members[k]?).getD stop
  let len := match a.kind with | .store => a.lines.length | _ => 1
  if mine then s.offer die stop stop (bits off 8 6) 1 (s.cycle + 4) 0 (.crewReq a stop)
  else s.offer die stop dst (bits off 8 6) len (s.cycle + 6) 0 (.crewReq a dst)

/-! Tile operations (R131). -/

/-- A list without its repeats, in order. -/
def onceEach (l : List Nat) : List Nat := l.foldl (fun a x => if a.contains x then a else a ++ [x]) []

/-- Rows of the tile that the tensor has, and the bytes of such a row from its first address on. -/
def Tile.rows (x : Tile) : Nat := min (dTRows x.desc.toNat) (dRows x.desc.toNat - x.tr * dTRows x.desc.toNat)
def Tile.rowBytes (x : Tile) : Nat :=
  min (dTCols x.desc.toNat) (dCols x.desc.toNat - x.tc * dTCols x.desc.toNat) * dElsize x.desc.toNat

/-- The lines of the tile's elements. -/
def Tile.linesOf (x : Tile) : List Nat :=
  onceEach ((List.range x.rows).flatMap (fun r =>
    let a := x.acc.addr + r * dPitch x.desc.toNat
    (List.range ((a + x.rowBytes + 63) / 64 - a / 64)).map (a / 64 + ·)))

/-- The bytes of a line that belong to the tile. -/
def Tile.lineMask (x : Tile) (line : Nat) : BitVec 64 :=
  (List.range x.rows).foldl (fun m r =>
    let a := x.acc.addr + r * dPitch x.desc.toNat
    let lo := max a (64 * line)
    let hi := min (a + x.rowBytes) (64 * line + 64)
    if lo < hi then m ||| BitVec.ofNat 64 ((2 ^ (hi - lo) - 1) * 2 ^ (lo % 64)) else m) 0

/-- The lines of a tile that is stored, with their attributes and bytes, by the pages it has. -/
def Tile.stores (x : Tile) : List (Nat × Nat × BitVec 64) :=
  x.linesOf.filterMap (fun l => (findTrans x.pages x.ctx (64 * l)).map (fun t => (t.pa (64 * l) / 64, t.attr (64 * l), x.lineMask l)))

/-- The row and column of the tile whose origin an address is (R112, R131). -/
def tileOrigin (d va : Nat) : Option (Nat × Nat) :=
  if dBad d || va < dBase d then none
  else
    let off := va - dBase d
    let i := off / dPitch d
    let q := off % dPitch d
    if dElsize d == 0 || q % dElsize d != 0 || dRows d ≤ i || dCols d ≤ q / dElsize d || i % dTRows d != 0 || q / dElsize d % dTCols d != 0 then none
    else some (i / dTRows d, q / dElsize d / dTCols d)

/-- A tile operation leaves: its descriptor and pages come next. -/
def State.startTile (s : State) (a : Access) : State :=
  let slot := s.follow a.slot
  ({ s with tiles := tins s.tiles a.uid { acc := a, ctx := a.ctx, core := coreOf slot } }).post s.cycle 3 640 .tldgAonRetry [a.uid, 0, 0]

/-! Leaving, holding and performing. -/

/-- The access leaves its core now, and how many of its parts remain to be performed. -/
def State.start (s : State) (a0 : Access) : State × Nat :=
  let a := { a0 with at_ := s.cycle }
  match a.space with
  | .glob =>
    (match a.kind with
    | .tileLoad _ => (s.startTile a, 1)
    | .tileStore => (s.startTile a, 1)
    | _ => s.startGlobal a)
  -- it leaves by the queue of the core that issued it, which its thread may have left (R147, R163)
  | .pond => (s.enqueuePond a (portX a.slot) (s.cycle + 2) none, a.words.length)
  | .crew => (s.startCrew a, a.words.length)

/-- The whole access has been performed (R333): fences, held accesses and barrier arrivals no longer await it; an
arrival that awaited only this access leaves 16 cycles later (R315, R316). -/
def State.finish (s : State) (g uid : Nat) (counts : Bool) : State :=
  let s := s.updSlot g (fun x =>
    let x := match (x.open_.find? (fun q => q.uid == uid)).bind (·.seq) with
      | some q => x.ringDone q 0
      | none => x
    { x with
    open_ := x.open_.filter (fun q => q.uid != uid)
    lastPerf := if counts then s.cycle else x.lastPerf
    fence := x.fence.filter (· != uid)
    held := x.held.map (fun h => { h with waits := h.waits.filter (· != uid) }) })
  s.arrivals.foldl (fun (s : State) ka =>
    if ka.2.waits.contains uid then
      let w := ka.2.waits.filter (· != uid)
      let s := { s with arrivals := tins s.arrivals ka.1 { ka.2 with waits := w } }
      if w.isEmpty then s.post (s.cycle + 16) 3 700 .barrierArrival [g, ka.1] else s
    else s) s

/-- The access goes on, and the number of parts left is noted, and whether it leaves by a core that its thread has left; with none
left it has been performed (R333). -/
def State.begin (s : State) (a : Access) : State :=
  let (s, n) := s.start a
  let g := s.follow a.slot
  if n == 0 then s.finish g a.uid false
  else s.updSlot g (fun x => { x with open_ := x.open_.map (fun p => if p.uid == a.uid then { p with left := n, moved := a.space == .pond && coreOf a.slot != coreOf g } else p) })

/-! The order of a thread's accesses to one line or word (R110, R163, R278, R341). DEDUCED, unsafe: log 104. -/

def AccKind.isTile : AccKind → Bool
  | .tileLoad _ => true | .tileStore => true
  | _ => false

/-- The lines of a tile that an access names, by its page as the TLB or the tables have it; none where it is no tile's origin. -/
def State.tilePlaces (s : State) (a : Access) : List Nat :=
  let leaf := match findTrans (s.cluster (clusterOf (s.follow a.slot))).tlb a.ctx a.addr with
    | some t => some t.leaf.toNat
    | none => match s.walkNow a.ctx a.addr with
      | .leaf t => some t.leaf.toNat
      | _ => none
  match leaf with
  | none => []
  | some l =>
    let d := Config.tileDescriptor a.ctx (atDidx l)
    match (if atTm l then tileOrigin d.toNat a.addr else none) with
    | some (tr, tc) => Tile.linesOf { acc := a, desc := BitVec.ofNat 512 d.toNat, tr := tr, tc := tc }
    | none => []

/-- The 64-byte places that an access touches: lines of global memory, or words of a pond. -/
def Access.places (a : Access) : List Nat :=
  if a.kind.isBlock && a.space != .glob then (List.range (a.span / 64)).map (a.addr / 64 + ·)
  else if a.kind == .atomic 11 then (List.range 5).map (a.addr / 64 + ·)
  else a.lines.map (·.1)

/-- The places of an access in global memory, or in the crew, where those of the own pond are the ones that the crew index `k` of its
mill gives. -/
def State.touches (s : State) (k : Nat) (a : Access) : Bool × List Nat :=
  match a.space with
  | .glob => (true, if a.kind.isTile then s.tilePlaces a else a.places)
  | .pond => (false, a.places.map (· + k * 2 ^ 15))
  | .crew => (false, a.places)

def meetsPlaces (x y : Bool × List Nat) : Bool := x.1 == y.1 && x.2.any (fun l => y.2.contains l)

/-- The way of an access to a pond: the own pond's queue, the own network port, or a lane of the millrace. -/
def Access.way (k : Nat) (a : Access) : Nat :=
  if a.space == .pond then 9 else if bits a.addr 24 21 == k then 8 else bits a.addr 8 6

/-- Whether an access that has left the core may be met there by a later one of its thread: it left by another core, or one of the
two is a tile operation or goes to the pond by another way. -/
def Pending.crosses (k : Nat) (p : Pending) (a : Access) : Bool :=
  p.acc.thread == a.thread && (p.acc.space == .glob) == (a.space == .glob)
    && (p.moved || p.acc.kind.isTile || a.kind.isTile || (a.space != .glob && p.acc.way k != a.way k))

/-- The accesses of a slot that await the walk of one of their pages. -/
def State.walking (s : State) (g : Nat) : List Access :=
  s.walks.flatMap (fun kw => kw.2.waiters.filterMap (fun v => match v with
    | .access b => if s.follow b.slot == g then some b else none
    | _ => none))

/-- The lines of an access that have not left, as an access of its own. -/
def Sending.rest (x : Sending) : Access :=
  { x.acc with span := 0, elems := x.lines.map (fun l => ⟨64 * l.1, 64, 0⟩) }

/-- The accesses that issued before one and that it must not pass: those of its thread that have not left the core, or that left by
another way and have not been performed; and for the own pond those that its core issued from other slots and that are held, wherever
their threads are, since a core's requests to one word are served in issue order (R163). DEDUCED, unsafe: log 104. -/
def State.ahead (s : State) (g : Nat) (a : Access) : List Access :=
  let x := s.slot g
  let k := (s.mill (millOf g)).crewIx
  let others := if a.space == .pond then (s.slots.filter (fun kx => clusterOf kx.1 == clusterOf g && kx.1 != g)).flatMap (fun kx =>
      (kx.2.held.map (·.acc)).filter (fun b => b.space == .pond && coreOf b.slot == coreOf a.slot)) else []
  (s.walking g ++ x.held.map (·.acc) ++ x.sending.map (·.rest) ++ ((x.open_.filter (fun p => p.crosses k a)).map (·.acc)) ++ others).filter
    (fun b => b.uid < a.uid)

/-- Whether an access follows none to a line or word of its own that it must not pass (R110, R163, R278, R341). -/
def State.inOrder (s : State) (g : Nat) (a : Access) : Bool :=
  match s.ahead g a with
  | [] => true
  | l =>
    let k := (s.mill (millOf g)).crewIx
    let mine := s.touches k a
    l.all (fun b => !meetsPlaces (s.touches k b) mine)

/-- The physical ranges of a join are being found, page by page (R309): the next page goes through the cluster's TLB, or
a walk is asked for, after whose answer the join goes on; then the core walks its L1 in 16 cycles. A page that fails is passed over.
DEDUCED, unsafe: log 26. -/
def State.joinPages (s : State) (j : Nat) : Nat → State
  | 0 => s.post s.cycle 1 800 .writeBack [4, j]
  | n + 1 =>
    let x : Join := tget {} s.joins j
    let set := fun (s : State) (x : Join) => { s with joins := tput {} s.joins j x }
    match x.todo ++ x.todoWide with
    | [] => s.post (s.cycle + 16) 1 800 .writeBack [3, j]
    | (va, len) :: _ =>
      let (t, s) := s.tlb (x.core / 8) x.ctx va
      match t with
      | none => s.missTlb (x.core / 8) x.ctx va (.join j)
      | some t =>
        let m := min len (t.base + t.size - va)
        let rest := if m < len then [(va + m, len - m)] else []
        let got := if t.leaf.toNat.testBit 51 then [] else [(t.pa va, m)]
        (if x.todo.isEmpty then set s { x with todoWide := rest ++ x.todoWide.drop 1, physWide := x.physWide ++ got }
         else set s { x with todo := rest ++ x.todo.drop 1, phys := x.phys ++ got }).joinPages j n

/-- A walk for a join has failed: the block is passed over. DEDUCED, unsafe: log 26. -/
def State.joinSkip (s : State) (j : Nat) : State :=
  let x : Join := tget {} s.joins j
  let skip := fun (l : List (Nat × Nat)) => match l with
    | (va, len) :: t =>
      let m := 65536 - va % 65536
      if m < len then (va + m, len - m) :: t else t
    | [] => []
  let x := if x.todo.isEmpty then { x with todoWide := skip x.todoWide } else { x with todo := skip x.todo }
  ({ s with joins := tput {} s.joins j x }).joinPages j 1024

/-- A release or an acquire with ranges begins. -/
def State.openJoin (s : State) (x : Join) : State :=
  let (j, s) := s.fresh
  ({ s with joins := tput {} s.joins j { x with stage := 0, todo := x.ranges, todoWide := x.wide } }).joinPages j 1024

/-- Whether the thread of a slot is in transfer to a G core: its accesses that have not left wait for its arrival, so that none
merges into the L1 that it leaves (R339). DEDUCED, unsafe: log 121. -/
def State.inTransfer (s : State) (g : Nat) : Bool := (s.slot g).st == .migrating && (s.slot g).link.isSome

/-- Whether a store of a thread, older than `uid`, still waits on its way to the core's L1: a release does not start before it, so that
it carries it (R309, R337, R339). DEDUCED, unsafe: log 104. -/
def State.storeWaits (s : State) (g uid : Nat) : Bool :=
  let x := s.slot g
  (s.walking g ++ x.held.map (·.acc) ++ x.sending.map (·.acc)).any (fun b =>
    b.uid < uid && b.thread == x.thread && b.space == .glob && b.kind.writes)

/-- The oldest access that the slots of a cluster hold and that may leave now, with its slot. -/
def State.oldestFree (s : State) (c : Nat) : Option (Nat × Held) :=
  (s.slots.filter (fun kx => clusterOf kx.1 == c && !kx.2.held.isEmpty)).foldl (fun b kx =>
    if s.inTransfer kx.1 then b
    else (kx.2.held.filter (fun h => h.waits.isEmpty && s.inOrder kx.1 h.acc && (h.rel.isNone || !s.storeWaits kx.1 h.acc.uid))).foldl (fun b h =>
      match b with
      | some (_, y) => if h.acc.uid < y.acc.uid then some (kx.1, h) else b
      | none => some (kx.1, h)) b) none

/-- What has become free leaves a cluster, at most `n` times: a held release starts, on the core that its thread runs on then, and its
access awaits it, unless it is a message's, which leaves by itself (R309, R316, R337); any other access leaves. -/
def State.drainCluster (s : State) (c : Nat) : Nat → State
  | 0 => s
  | n + 1 =>
    match s.oldestFree c with
    | none => s
    | some (g, h) =>
      let without := fun (s : State) => s.updSlot g (fun x => { x with held := x.held.filter (fun y => y.acc.uid != h.acc.uid) })
      match h.rel with
      | some r =>
        let r := { r with core := coreOf g }
        if r.sent.isSome then ((without s).openJoin r).drainCluster c n
        else
          let (k, s) := s.fresh
          let s := s.updSlot g (fun x => { x with
            held := x.held.map (fun y => if y.acc.uid == h.acc.uid then { y with waits := [k], rel := none } else y) })
          (s.openJoin { r with token := some (g, k) }).drainCluster c n
      | none => ((without s).begin h.acc).drainCluster c n

/-- Accesses that no fence and no order holds any more leave a cluster, one after another (R316); a held release starts then, and its
access awaits it (R309). The slots of a core serve their accesses to a word in issue order, also once a thread has moved to another
core of the cluster (R163). DEDUCED, unsafe: log 104. -/
def State.drain (s : State) (g : Nat) : State :=
  let c := clusterOf g
  s.drainCluster c (2 * (s.slots.foldl (fun n kx => if clusterOf kx.1 == c then n + kx.2.held.length else n) 0) + 1)

/-- An access issues (R316): it leaves at once, or the fences before it, for an atomic an unfinished `clg` (R130), and an
earlier access to one of its lines or words that it must not pass (R110, R163, R278, R341) hold it inside the core; so does a release
`rel` of its own. -/
def State.issueAccess (s : State) (a0 : Access) (rel : Option Join := none) : State :=
  let g := s.follow a0.slot
  let x := s.slot g
  let a := { a0 with ctx := s.ctxOfSlot g, thread := x.thread }
  let cleans := match a.kind with | .atomic _ => (x.open_.filter (fun p => p.clean && !p.old)).map (·.uid) | _ => []
  let waits := x.fence ++ cleans
  let track := match a.kind with | .prefetch _ => false | _ => true
  let isClean := match a.kind with | .clean _ => true | _ => false
  let y := if track then
      { x with open_ := x.open_ ++ [{ uid := a.uid, space := a.space, atomic := a.kind.isAtomic, left := 1, clean := isClean, seq := a.seq, acc := a }] }
    else x
  if waits.isEmpty && rel.isNone && s.inOrder g a then (s.setSlot g y).begin a
  else ((s.setSlot g { y with held := y.held ++ [⟨a, waits, rel⟩] }).provisional a).drain g

/-- The slot in which an access is open: where its thread runs, or where that thread's slot has kept it after its end (R18). -/
def State.holder (s : State) (g0 uid : Nat) : Nat :=
  let g := s.follow g0
  let has := fun (x : Slot) => x.open_.any (fun p => p.uid == uid) || x.sending.any (fun y => y.acc.uid == uid)
  if has (s.slot g) then g
  else match s.slots.find? (fun kx => has kx.2) with
    | some kx => kx.1
    | none => g

/-- One part of an access has been performed at its place (R333). When it was the last, fences and barriers that await
the access go on (R315, R316); accesses that it alone held leave. -/
def State.done (s : State) (g0 uid : Nat) : State :=
  let g := s.holder g0 uid
  let x := s.slot g
  match x.open_.find? (fun p => p.uid == uid) with
  | none => s.drain g
  | some p =>
    if 1 < p.left then s.setSlot g { x with open_ := x.open_.map (fun q => if q.uid == uid then { q with left := q.left - 1 } else q) }
    else (s.finish g uid (p.space != .glob || p.atomic)).drain g

/-- The next line of an access leaves its core (R126, R127); while its thread is in transfer it waits for the arrival. -/
def State.sendNext (s : State) (g0 uid : Nat) : State :=
  let g := s.holder g0 uid
  let x := s.slot g
  if s.inTransfer g then s
  else match x.sending.find? (fun y => y.acc.uid == uid) with
    | some ⟨a, l :: rest⟩ =>
      let s := s.setSlot g { x with sending := (x.sending.map (fun y => if y.acc.uid == uid then ⟨a, rest⟩ else y)).filter (fun y => !y.lines.isEmpty) }
      let s := if rest.isEmpty then s else s.postSend g uid
      let (s, n) := s.startLine a (coreOf g) l.2.1 l.2.2.1 s.cycle l.2.2.2
      if n == 0 then s.done g uid else s.drain g
    | _ => s

/-- The answer of a walk arrives at its cluster: the TLB takes a valid leaf, and what waited goes on as if it had issued
now; a fault ends it (R104, R105). DEDUCED, unsafe: log 28. DEDUCED, unsafe: log 121. An access that faults is no longer awaited
by a `bar`. DESIGN CHOICE, unsafe: log 139.
Of several lines that fault
the report names that of the first answer. DESIGN CHOICE, unsafe: log 156. -/
def execWalkAnswer (s : State) : Result :=
  let k := s.arg.headD 0
  let w : Walk := tget {} s.walks k
  let s := { s with walks := tdel s.walks k }
  let s := s.updCluster w.cluster (fun c => { c with walks := c.walks.filter (· != k) })
  let waits := fun (s : State) (a : Access) => s.walks.any (fun (kw : Nat × Walk) => kw.2.waiters.any (fun v => match v with
    | .access b => b.uid == a.uid
    | _ => false))
  match w.answer with
  | some (.inl t) =>
    let s := s.updCluster w.cluster (fun c => { c with tlb := useTrans 512 c.tlb t })
    .next (w.waiters.foldl (fun s v => match v with
      | .access a =>
        if waits s a then s
        else
          let g := s.follow a.slot
          if s.inTransfer g then s.updSlot g (fun x => { x with held := ⟨a, [], none⟩ :: x.held })
          else (s.begin a).drain g
      | .copy c => s.post s.cycle 3 650 .copyChunkReady [c]
      | .fetch g line => s.post s.cycle 3 600 .icacheMiss [g, line]
      | .ahead g line ctx => s.post s.cycle 3 601 .icacheMiss [g, line, ctx, 0]
      | .join j => s.joinPages j 1024
      | .table => s) s)
  | some (.inr code) =>
    .next (w.waiters.foldl (fun s v => match v with
      | .access a =>
        -- the other walks of the access no longer matter
        let s := { s with walks := s.walks.map (fun (kw : Nat × Walk) => (kw.1, { kw.2 with waiters := kw.2.waiters.filter (fun v => match v with
          | .access b => b.uid != a.uid
          | _ => true) })) }
        let va := ((a.lines.find? (fun g => 64 * g.1 / 65536 == w.block)).map a.faultVa).getD a.addr
        (s.accessFault a code va).done a.slot a.uid
      | .fetch g _ => if s.ctxOfSlot g == w.ctx then s.updSlot g (fun x => { x with fetchFault := some (code, w.block) }) else s
      | .copy c => s.post s.cycle 3 650 .copyLateFault [c, code, w.block]
      | .join j => s.joinSkip j
      | .ahead _ _ _ => s
      | .table => s) s)
  | none => .next s

end Sys2Proof.Machine
end

