-- ==== Sys2Proof/Machine/Cache.lean ====
section
/-! DEFINITION. The homes of device memory: what a request does where it is performed, the slices (R114 to R119), the
LLC and HBM (R120, R121), format windows (R122, R123), the memory-side units (R393), full/empty words (R306), and the
write-backs that releases and acquires await (R309, R310, R434). -/

namespace Sys2Proof.Machine

open Sys2Proof

/-! What an atomic computes (R169). -/

/-- The new value of an integer form, from the old value and the operands as patterns of n bits. -/
def atomicInt (form ty old c new : Nat) : Nat :=
  let n := tyBits ty
  let w (x : Nat) : Word := BitVec.ofNat 64 x
  let lt := valT ty (w c) < valT ty (w old)
  let r := match form with
    | 0 => old + c
    | 1 => old &&& c
    | 2 => old ||| c
    | 3 => old ^^^ c
    | 4 => if lt then c else old
    | 6 => if lt then c else old
    | 5 => if lt then old else c
    | 7 => if lt then old else c
    | 8 => c
    | _ => if old == c % 2 ^ n then new else old
  r % 2 ^ n

/-- Bytes of the place an atomic acts on: its type's, a line, or the five lines of an XA64. -/
def atomicSize (form ty : Nat) : Nat := if form == 10 then 64 else if form == 11 then 320 else tyBits ty / 8

/-- An atomic on the bytes at its address: the new bytes, and what its register receives. -/
def atomicApply (a : Access) (form old : Nat) : Nat × Nat :=
  let c := bits a.data.toNat 63 0
  if form == 10 then
    let x := xaAdd false (old % 2 ^ 483) (decodeFloat 10 (c % 2 ^ 32))
    (x, xaStatus false x)
  else if form == 11 then
    let x := xaAdd true (old % 2 ^ 2531) (decodeFloat 9 c)
    (x, xaStatus true x)
  else (atomicInt form a.ty old c (bits a.data.toNat 127 64), old)

/-! Joins. -/

def State.join (s : State) (j : Nat) : Join := tget {} s.joins j
def State.setJoin (s : State) (j : Nat) (x : Join) : State := { s with joins := tput {} s.joins j x }

/-- What waited for the write-backs goes on. -/
def State.joinEnd (s : State) (x : Join) : State :=
  let s := match x.token with
    | some (g0, k) =>
      let g := s.follow g0
      let s := s.updSlot g (fun y => { y with held := y.held.map (fun h => { h with waits := h.waits.filter (· != k) }) })
      s.drain g
    | none => s
  let s := match x.land with
    | some (g, u) => s.landAt g u s.cycle
    | none => s
  let s := match x.sent with
    | some m => s.post s.cycle 3 620 .sendStatus [1, m]
    | none => s
  let s := match x.tile with
    | some o => s.post s.cycle 3 650 .tldgAonRetry [o, 1, 0]
    | none => s
  match x.copy with
  | some c => s.post s.cycle 3 650 .copyChunkReady [c]
  | none => s

/-- Whether a line of device memory lies in one of the physical ranges of a join. DEDUCED, unsafe: log 26. -/
def inRanges (line : Nat) (rs : List (Nat × Nat)) : Bool :=
  rs.any (fun r => r.1 < 64 * line + 64 && 64 * line < r.1 + r.2)

/-- A stage's write-backs have all been performed: the next stage, or the end. -/
def State.joinNext (s : State) (j : Nat) : State :=
  let x := s.join j
  if x.stage == 0 && !x.wide.isEmpty then
    (s.setJoin j { x with stage := 1 }).post (s.cycle + 64) 1 800 .writeBack [3, j]
  else
    -- what the L1 has fetched between the two walks of an acquire may be older than what the second one removed (R310)
    let s := if x.inval && x.stage == 1 then s.dropStale x.core (fun l => inRanges l.tag x.physWide) else s
    ({ s with joins := tdel s.joins j }).joinEnd x

/-- One write-back of a join has been performed. -/
def State.joinDone (s : State) (j : Nat) : State :=
  let x := s.join j
  if 1 < x.left then s.setJoin j { x with left := x.left - 1 }
  else (s.setJoin j { x with left := 0 }).joinNext j

/-- A release or an acquire begins: its ranges are translated and the core walks its L1 sets in 16 cycles (R309, R310). With
no range there is nothing to wait for. -/
def State.startJoin (s : State) (x : Join) : State := if x.ranges.isEmpty then s.joinEnd x else s.openJoin x

/-- Makes a join wait for the write-backs under way that a test picks, and tells how many they are (R309). -/
def State.awaitReqs (s : State) (j : Nat) (pick : GReq → Bool) : Nat × State :=
  let hit := s.reqs.filter (fun kq => kq.2.writeBack && pick kq.2)
  (hit.length, hit.foldl (fun s kq => { s with reqs := tins s.reqs kq.1 { kq.2 with joins := j :: kq.2.joins } }) s)

/-! The LLC: format windows, fills and writes. -/

/-- The fields of a format window (R122). -/
def wEn (w : BitVec 256) : Bool := w.getLsbD 255
def wFmt (w : BitVec 256) : Nat := bits w.toNat 254 250
def wNblk (w : BitVec 256) : Nat := bits w.toNat 231 192
def wPbase (w : BitVec 256) : Nat := bits w.toNat 185 140
def wSbase (w : BitVec 256) : Nat := bits w.toNat 133 88
def wAbase (w : BitVec 256) : Nat := bits w.toNat 81 36

/-- A byte of device memory at the LLC. -/
def State.devByte (s : State) (pa : Nat) : Nat := s.llcBytes pa 0 1

/-- The codes and the scale of block k of a window (R187, R190, R191). -/
def State.winCode (s : State) (w : BitVec 256) (i : Nat) : Nat :=
  let p := wPbase w * 64
  match wFmt w with
  | 13 => s.devByte (p + i)
  | 14 => s.devByte (p + i)
  | 17 => bits (s.devByte (p + i / 2)) (4 * (i % 2) + 3) (4 * (i % 2))
  | _ => fp6Code (s.devByte (p + i / 2)) (s.devByte (p + fp6Plane (32 * wNblk w) + i / 4)) i

def State.winScale (s : State) (w : BitVec 256) (k : Nat) : Nat :=
  if wFmt w == 17 then s.llcBytes (wSbase w * 64 + 2 * k) 0 2 else s.devByte (wSbase w * 64 + k)

/-- The line of block k: 32 BF16 values, each the element's exact value rounded (R123). -/
def State.winLine (s : State) (w : BitVec 256) (k : Nat) : Line :=
  let h := s.winScale w k
  BitVec.ofNat 512 (packBits 16 ((List.range 32).map (fun e =>
    (roundTo 11 (decodeInBlock (wFmt w) h (s.winCode w (32 * k + e))) 0 0).1)))

/-- The window of a stack that maps a line as one of its blocks, and the block. -/
def State.winOf (s : State) (stack line : Nat) : Option (BitVec 256 × Nat) :=
  (List.range 16).findSome? (fun i =>
    let w := tget (0 : BitVec 256) s.windows (16 * stack + i)
    if wEn w && wAbase w ≤ line && line < wAbase w + wNblk w then some (w, line - wAbase w) else none)

/-- The line of the LLC by its number. -/
def State.llcGet (s : State) (line : Nat) : Option CLine := s.llc.lookup line

/-- Brings a line into the LLC: from a format window, or from HBM (R120, R121, R123). -/
def State.llcFill (s : State) (line attr : Nat) : State :=
  match s.llcGet line with
  | some _ => s
  | none =>
    let data := match s.winOf (homeStack (64 * line) attr) line with
      | some (w, k) => s.winLine w k
      | none => s.plainLine line attr
    let at_ := if attr == 0 then tget 0 s.hbmAttr line else attr
    { s with llc := tins s.llc line { tag := line, data := data, valid := BitVec.allOnes 64, attr := at_, fe := s.hbmFe line } }

/-- Writes bytes of a line of the LLC, which is present; a write that names no page keeps the line's attributes.
DESIGN CHOICE, unsafe: log 110. -/
def State.llcPut (s : State) (line attr : Nat) (data : Line) (mask : BitVec 64) : State :=
  let s := s.llcFill line attr
  match s.llcGet line with
  | some l => { s with llc := tins s.llc line { l with data := mergeLine l.data data mask, dirty := l.dirty ||| mask, attr := if attr == 0 then l.attr else attr } }
  | none => s

/-- Writes `n` bytes of device memory at the LLC. -/
def State.llcPoke (s : State) (pa attr : Nat) : Nat → Nat → State
  | 0, _ => s
  | n + 1, x =>
    (s.llcPut (pa / 64) attr (BitVec.ofNat 512 (x % 256 * 2 ^ (8 * (pa % 64)))) (BitVec.ofNat 64 (2 ^ (pa % 64)))).llcPoke
      (pa + 1) attr n (x / 256)

/-- Block k of a window is encoded from its line into the planes, as `vpack` does with rounding to nearest even
(R123, R185, R188). The planes' lines name no page, so that their own attributes stand; the planes start at PBASE, however it is aligned
(R191). DESIGN CHOICE, unsafe: log 110. DESIGN CHOICE, unsafe: log 135. -/
def State.winStore (s : State) (w : BitVec 256) (k : Nat) (data : Line) : State :=
  let t := wFmt w
  let vs := (List.range 32).map (fun e => decodeFloat 11 (bits data.toNat (16 * e + 15) (16 * e)))
  let r := encodeBlock t vs 0 (vs.map (fun _ => 0)) false false
  let p := wPbase w * 64
  let i := 32 * k
  let s := if t == 17 then s.llcPoke (wSbase w * 64 + 2 * k) 0 2 r.1 else s.llcPoke (wSbase w * 64 + k) 0 1 r.1
  if t == 13 || t == 14 then s.llcPoke (p + i) 0 32 (packBits 8 r.2.1)
  else if t == 17 then s.llcPoke (p + i / 2) 0 16 (packBits 4 r.2.1)
  else (s.llcPoke (p + i / 2) 0 16 (packBits 4 r.2.1)).llcPoke (p + fp6Plane (32 * wNblk w) + i / 4) 0 8
    (packBits 2 (r.2.1.map (· / 16)))

/-- The blocks of a window that a line of its packed range or its scale plane holds part of. -/
def winBlocks (w : BitVec 256) (line : Nat) : List Nat :=
  let t := wFmt w
  let n := wNblk w
  let span (base per : Nat) : List Nat :=      -- per: blocks in a line
    if base ≤ line && line < base + (n + per - 1) / per then (List.range per).map (fun j => (line - base) * per + j) else []
  let blocks :=
    (if t == 13 || t == 14 then span (wPbase w) 2
     else if t == 17 then span (wPbase w) 4
     else span (wPbase w) 4 ++ span (wPbase w + fp6Plane (32 * n) / 64) 8)
    ++ span (wSbase w) (if t == 17 then 32 else 64)
  blocks.filter (· < n)

/-- Writes a line of the LLC to HBM, encrypted for its page, or through its format window, and drops it (R121, R123,
R306). PRESUMED, unsafe: log 6. -/
def State.llcEvict (s : State) (line : Nat) : State :=
  match s.llcGet line with
  | none => s
  | some l =>
    let s := { s with llc := tdel s.llc line }
    let s := { s with full := (List.range 8).foldl (fun f i => tput false f (8 * line + i) (l.fe.getLsbD i)) s.full }
    if l.dirty == 0 then s
    else match s.winOf (homeStack (64 * line) l.attr) line with
      | some (w, k) => s.winStore w k l.data
      | none =>
        let d := if atKey l.attr == 0 then l.data else xtsEncrypt (s.xtsKey l.attr) line l.data
        let over_ := fun (a : SaveArea) => if a.base ≤ line && !a.written.contains line then { a with written := line :: a.written } else a
        { s with mem := memWrite s.mem (64 * line) 64 d.toNat, saveAreas := s.saveAreas.map over_, hbmAttr := tput 0 s.hbmAttr line (if atKey l.attr == 0 then 0 else l.attr) }

/-- The alias lines of format windows, of any stack, whose blocks a line holds part of. -/
def State.aliasLines (s : State) (line : Nat) : List Nat :=
  s.windows.flatMap (fun kw => if wEn kw.2 then (winBlocks kw.2 line).map (fun k => wAbase kw.2 + k) else [])

/-- A write at the LLC (R123): lines of format windows whose blocks it covers are written back if dirty, and dropped;
then it applies. -/
def State.llcWrite (s : State) (line attr : Nat) (data : Line) (mask : BitVec 64) : State :=
  ((s.aliasLines line).foldl State.llcEvict s).llcPut line attr data mask

/-- The LLC may write a line back to HBM at any access: the spec gives it no replacement rule. DESIGN CHOICE, safe: log 12. -/
def State.llcReplace (s : State) : State :=
  let (n, s) := s.draw
  match s.llc[Config.llcVictim n]? with
  | some (line, _) => s.post (s.cycle + 1) 3 900 .writeBack [2, line]
  | none => s

/-! Full/empty words at a home (R153, R306). -/

/-- The value of a word of a line. -/
def wordOf (l : CLine) (va : Nat) : Nat := bits l.data.toNat (8 * (va % 64 / 8 * 8) + 63) (8 * (va % 64 / 8 * 8))

/-- A line that carries a value at an offset. -/
def valueLine (va n v : Nat) : Line := BitVec.ofNat 512 (v % 2 ^ (8 * n) * 2 ^ (8 * (va % 64)))

/-- A full/empty operation on a line: the line, and the value the request receives, none when it must wait. -/
def feApply (a : Access) (l : CLine) : CLine × Option Nat :=
  let w := a.addr % 64 / 8
  let bit := BitVec.ofNat 8 (2 ^ w)
  match a.kind with
  | .fill => ({ l with data := mergeLine l.data (valueLine (8 * w) 8 (bits a.data.toNat 63 0)) (BitVec.ofNat 64 (255 * 2 ^ (8 * w)))
                       dirty := l.dirty ||| BitVec.ofNat 64 (255 * 2 ^ (8 * w)), fe := l.fe ||| bit, feDirty := true }, some 0)
  | .empty => ({ l with fe := l.fe &&& ~~~ bit, feDirty := true }, some 0)
  | .peek => (l, some (if l.fe.getLsbD w then 1 else 0))
  | _ => if l.fe.getLsbD w then ({ l with fe := l.fe &&& ~~~ bit, feDirty := true }, some (wordOf l a.addr)) else (l, none)

/-! Slices. -/

def State.l2Lines (s : State) (l set : Nat) : List CLine := tget [] (s.slice l).sets set
def State.setL2 (s : State) (l set : Nat) (ls : List CLine) : State :=
  let x := s.slice l
  s.setSlice l { x with sets := tput [] x.sets set ls }

/-- Puts a line into its set as the most recent. -/
def State.touchL2 (s : State) (l : Nat) (c : CLine) : State :=
  let set := l2Set (c.tag * 64)
  s.setL2 l set (c :: (s.l2Lines l set).filter (fun y => y.tag != c.tag))

/-- A slice writes a line's dirty bytes to the LLC, where they are performed 150 + 48c cycles later (R117, R434). DEDUCED, unsafe: log 24. -/
def State.wbL2 (s : State) (l : Nat) (c : CLine) (acc : Access) (sink : Sink) : State :=
  let (r, s) := s.fresh
  let die := l / 128
  let q : GReq := { id := r, acc := acc, pa := c.tag * 64, wdata := c.data, wmask := c.dirty, attr := c.attr, die := die
                    fe := if c.feDirty then some c.fe else none, at_ := s.cycle, sink := sink, writeBack := true, llc := true }
  (s.setReq r q).post (s.cycle + 150 + 48 * dieClass die (homeStack q.pa q.attr)) 1 100 .writeBack [1, r]

/-- The cycle by which a slice's write-backs of a line under way have been performed at the LLC, or the present one (R434). -/
def State.wbEnd (s : State) (die line : Nat) : Nat :=
  s.reqs.foldl (fun t kq =>
    if kq.2.writeBack && kq.2.llc && kq.2.die == die && kq.2.pa / 64 == line then
      max t (kq.2.at_ + 150 + 48 * dieClass die (homeStack kq.2.pa kq.2.attr))
    else t) s.cycle

def CLine.isDirty (c : CLine) : Bool := c.dirty != 0 || c.feDirty

/-- The response of a request: its head may leave 9 cycles after the service (R114). DEDUCED, unsafe: log 127. -/
def State.respond (s : State) (l r : Nat) : State :=
  let q := s.req r
  match q.sink with
  | .copy cmd line =>
    -- the copy unit counts with the time at which it would land (R251); the response travels all the same
    (s.offerTo (l / 128) (sliceStop l) q.die q.stop q.lane 1 (s.cycle + 9) (1 + l % 2) (.resp 0)).post s.cycle 3 640 .copyChunkReady
      [cmd, line, r, s.cycle + 11 + 3 * hops (sliceStop l) q.stop]
  | _ => s.offerTo (l / 128) (sliceStop l) q.die q.stop q.lane 1 (s.cycle + 9) (1 + l % 2) (.resp r)

/-- A refusal travels back as a response does; its requester sends the request again 32 cycles after it arrives
(R116, R306). DEDUCED, unsafe: log 20. -/
def State.refuse (s : State) (l r : Nat) : State :=
  let q := s.req r
  s.offerTo (l / 128) (sliceStop l) q.die q.stop q.lane 1 (s.cycle + 9) (1 + l % 2) (.refuse r)

def State.delReq (s : State) (r : Nat) : State := { s with reqs := tdel s.reqs r }

/-- A request sent to a home has been performed there. -/
def State.reqDone (s : State) (r : Nat) : State :=
  let q := s.req r
  let s := q.joins.foldl (fun s j => s.joinDone j) s
  match q.sink with
  | .join j => s.joinDone j
  | .combine r => s.post s.cycle 3 660 .combineRelease [r]
  | .windrose run node => s.post s.cycle 3 700 .nodeComplete [run, node]
  | _ => if q.acc.uid == 0 then s else s.done q.acc.slot q.acc.uid

/-- Whether a request's read counts against a read budget (R119); a copy unit's read of a descriptor, whose lines it numbers 0, is
no gather. -/
def GReq.isRead (q : GReq) : Bool :=
  match q.acc.kind with
  | .load => (match q.sink with | .icache _ => false | .copy _ 0 => false | _ => !q.writeBack)
  | .prefetch _ => true
  | .tileLoad _ => true
  | _ => false

/-- A line after one more read: a count it has falls (R119). -/
def CLine.readOnce (c : CLine) : CLine := { c with bud := c.bud.map (fun b => (b.1 - 1, b.2)) }

/-- A read of a line under its budget (R119): the first read of a line without one installs it. -/
def budgetRead (c : CLine) (q : GReq) : CLine :=
  if !q.isRead then c
  else match c.bud with
    | some _ => c.readOnce
    | none => if q.acc.bud == 0 then c else { c with bud := some (q.acc.bud - 1, q.acc.d) }

/-- A full/empty operation at a slice, and the take of the head waiter after a fill (R306). -/
def State.feSlice (s : State) (l r : Nat) (c : CLine) : State :=
  let q := s.req r
  let word := q.pa / 64 * 8 + q.acc.addr % 64 / 8
  match feApply q.acc c with
  | (_, none) =>
    let x := s.slice l
    if 64 ≤ x.feWait.foldl (fun n kw => n + kw.2.length) 0 then s.refuse l r
    else
      let s := s.setSlice l { x with feWait := tput [] x.feWait word (tget [] x.feWait word ++ [r]) }
      s.reqDone r
  | (c, some v) =>
    let s := s.touchL2 l c
    let s := if q.acc.kind.hasEntry then (s.setReq r { q with rdata := valueLine q.acc.addr 8 v }).respond l r else s
    let s := s.reqDone r
    let s := if q.acc.kind.hasEntry then s else s.delReq r
    let x := s.slice l
    match q.acc.kind, tget [] x.feWait word with
    | .fill, w :: rest =>
      let p := s.req w
      let (c, v) := feApply p.acc c
      let s := s.setSlice l { x with feWait := tput [] x.feWait word rest }
      ((s.touchL2 l c).setReq w { p with rdata := valueLine p.acc.addr 8 (v.getD 0) }).respond l w
    | _, _ => s

/-- A request is performed on its line, which is present in its slice (R114, R119, R131). -/
def State.serveLine (s : State) (l r : Nat) (c : CLine) : State :=
  let q := s.req r
  let c := budgetRead { c with attr := if q.attr == 0 then c.attr else q.attr } q
  let s := s.touchL2 l c
  let s := match c.bud with
    | some (0, _) => if q.isRead then s.post s.cycle 3 400 .readBudgetExpiry [l, c.tag] else s
    | _ => s
  if q.acc.kind.isFe then s.feSlice l r c
  else
    match q.acc.kind with
    | .prefetch _ =>
      let s := s.reqDone r
      (match q.sink with
      | .prefetchL1 _ => (s.setReq r { q with rdata := mergeLine c.data q.wdata q.wmask }).respond l r
      | _ => s.delReq r)
    | .clean sc =>
      let c := { c with data := mergeLine c.data q.wdata q.wmask, dirty := c.dirty ||| q.wmask }
      if sc < 6 then ((s.touchL2 l c).reqDone r).delReq r
      else
        let set := l2Set q.pa
        let s := s.setL2 l set ((s.l2Lines l set).filter (fun y => y.tag != c.tag))
        if c.isDirty then (s.wbL2 l c q.acc q.sink).delReq r else (s.reqDone r).delReq r
    | .atomic form =>
      let off := q.acc.addr % 64
      let n := atomicSize form q.acc.ty
      let p := atomicApply q.acc form (bits c.data.toNat (8 * off + 8 * n - 1) (8 * off))
      let mask := BitVec.ofNat 64 ((2 ^ n - 1) * 2 ^ off)
      let c := { c with data := mergeLine c.data (valueLine off n p.1) mask, dirty := c.dirty ||| mask }
      let s := (s.touchL2 l c).setReq r { q with rdata := valueLine q.acc.addr (min n 8) p.2 }
      (s.respond l r).reqDone r
    | .load => ((s.setReq r { q with rdata := mergeLine c.data q.wdata q.wmask }).respond l r).reqDone r
    | .tileLoad _ => ((s.setReq r { q with rdata := c.data }).respond l r).reqDone r
    | _ =>
      let c := { c with data := mergeLine c.data q.wdata q.wmask, dirty := c.dirty ||| q.wmask }
      let s := (s.touchL2 l c).reqDone r
      -- a line of a tile store is answered to the tile operation, which counts it
      (match q.sink with
      | .tile _ => s.respond l r
      | .copy _ _ => s.respond l r
      | .windrose _ _ => s.respond l r
      | _ => s.delReq r)

/-- Room for a line in a set: the least recently used way that holds no miss list goes, written back if dirty (R117); none
where every way holds one. -/
def State.roomL2 (s : State) (l set : Nat) : Option State :=
  let ls := s.l2Lines l set
  if ls.length < 16 then some s
  else match ls.reverse.find? (fun c => c.miss.isNone) with
    | none => none
    | some v =>
      let s := s.setL2 l set (ls.filter (fun c => c.tag != v.tag))
      some (if v.isDirty then s.wbL2 l v {} .none else s)

/-- A miss (R116, R120): the line's way becomes its miss list, and the line comes from the LLC, with the latencies of
R120 counted as if from issue; the fill reaches the slice so that the first response lands at R120's figure. DEDUCED, unsafe: log 112. -/
def State.missL2 (s : State) (l r : Nat) : State :=
  let q := s.req r
  match s.roomL2 l (l2Set q.pa) with
  | none => (s.setReq r { q with refused := true }).refuse l r
  | some s =>
    let s := s.touchL2 l { tag := q.pa / 64, attr := q.attr, miss := some [r] }
    let qh := hops q.stop (sliceStop l)
    let virt := s.cycle - 7 - 3 * qh
    let (f, s) := s.fresh
    let s := s.setReq f { id := f, pa := q.pa / 64 * 64, attr := q.attr, ctx := q.ctx, die := l / 128, stop := q.stop, at_ := virt, sink := .l2 l, llc := true }
    -- not before the write-backs of the line that the die has under way (R335)
    s.post (max (virt + 150 + 48 * dieClass (l / 128) (homeStack q.pa q.attr)) (s.wbEnd (l / 128) (q.pa / 64))) 3 100 .llcAccess [f]

/-- A request for a line that a miss list has no room for, or whose older request from the same core was so refused and has
not been accepted yet (R116, R341), is refused. DEDUCED, unsafe: log 112. -/
def State.listRefuse (s : State) (l r : Nat) : State := (s.setReq r { s.req r with refused := true }).refuse l r

/-- Whether an older request of a core for a line awaits its retry. -/
def State.afterRefused (s : State) (r : Nat) (q : GReq) : Bool :=
  s.reqs.any (fun kp => kp.2.refused && kp.1 < r && kp.2.core == q.core && kp.2.core != 0 && kp.2.pa / 64 == q.pa / 64 && kp.2.die == q.die && !kp.2.llc)

/-- A request at the head of a slice. DEDUCED, unsafe: log 112. -/
def State.serveReq (s0 : State) (l r : Nat) : State :=
  let q := { s0.req r with refused := false }
  if s0.afterRefused r q then s0.listRefuse l r
  else
  let s := if (s0.req r).refused then s0.setReq r q else s0
  match (s.l2Lines l (l2Set q.pa)).find? (fun c => c.tag == q.pa / 64) with
  | some c =>
    (match c.miss with
    | some list =>
      if c.drop || 16 ≤ list.length then s.listRefuse l r
      else
        let set := l2Set q.pa
        s.setL2 l set ((s.l2Lines l set).map (fun y => if y.tag == c.tag then { y with miss := some (list ++ [r]) } else y))
    | none => s.serveLine l r c)
  | none =>
    match q.acc.kind with
    | .clean _ => if q.wmask == 0 then (s.reqDone r).delReq r else s.missL2 l r
    | _ => s.missL2 l r

/-- A line that an acquire invalidated under its fill goes once no request of its list is left (R310). -/
def State.dropAnswered (s : State) (l line : Nat) : State :=
  let set := l2Set (line * 64)
  match (s.l2Lines l set).find? (fun c => c.tag == line) with
  | some c =>
    if c.drop && c.miss.isNone && (s.slice l).answer.all (fun r => (s.req r).pa / 64 != line) then
      let s := s.setL2 l set ((s.l2Lines l set).filter (fun y => y.tag != line))
      if c.isDirty then s.wbL2 l c {} .none else s
    else s
  | none => s

/-- SLICE_SERVE: one request per cycle; those of a filled miss list before the queue (R115, R116). DEDUCED, unsafe: log 127. -/
def execSliceServe (s : State) : Result :=
  let l := s.arg.headD 0
  let x := s.slice l
  let s := match x.answer, x.queue with
    | r :: t, _ => ((s.setSlice l { x with answer := t }).serveReq l r).dropAnswered l ((s.req r).pa / 64)
    | [], r :: t => (s.setSlice l { x with queue := t }).serveReq l r
    | [], [] => s
  let x := s.slice l
  .next (if x.answer.isEmpty && x.queue.isEmpty then s.setSlice l { x with busy := false }
    else s.post (s.cycle + 1) 1 (300 + l % 128) .sliceServe [l])

/-- A refused request is sent again (R116); when it was first sent stays known, for the excess of R251. -/
def execMissListRetry (s : State) : Result :=
  let r := s.arg.headD 0
  let q := s.req r
  .next (s.offerTo q.die q.stop (q.slice / 128) (sliceStop q.slice) q.lane 1 (s.cycle + 6) 0 (.req r))

/-- The fill overwrites the miss list; the slice answers the listed requests, one per cycle from this cycle on
(R116). -/
def execL2Fill (s : State) : Result :=
  let l := s.arg.headD 0
  let line := s.arg.getD 1 0
  let f := s.req (s.arg.getD 2 0)
  let set := l2Set (line * 64)
  let s := s.delReq (s.arg.getD 2 0)
  match (s.l2Lines l set).find? (fun c => c.tag == line) with
  | none => .next s
  | some c =>
    let list := c.miss.getD []
    let s := s.setL2 l set ((s.l2Lines l set).map (fun y =>
      if y.tag == line then { y with data := f.rdata, valid := BitVec.allOnes 64, miss := none, fe := f.fe.getD 0 } else y))
    let x := s.slice l
    let s := s.setSlice l { x with answer := x.answer ++ list, busy := true }
    let s := s.dropAnswered l line
    .next (if x.busy then s else s.post s.cycle 1 (300 + l % 128) .sliceServe [l])

/-- A line whose count has reached 0 is freed, written back if dirty, or discarded when its D is 1 (R119). -/
def State.expireL2 (s : State) (l line : Nat) : State :=
  let set := l2Set (line * 64)
  match (s.l2Lines l set).find? (fun c => c.tag == line) with
  | some c =>
    (match c.bud with
    | some (0, d) =>
      let s := s.setL2 l set ((s.l2Lines l set).filter (fun y => y.tag != line))
      if c.isDirty && !d then s.wbL2 l { c with bud := none } {} .none else s
    | _ => s)
  | none => s

/-- READ_BUDGET_EXPIRY: [slice, line] the count of a line has reached 0 (R119). -/
def execReadBudgetExpiry (s : State) : Result := .next (s.expireL2 (s.arg.headD 0) (s.arg.getD 1 0))

/-! The LLC. -/

/-- The memory-side unit of an address (R393). DEDUCED, unsafe: log 113. -/
def unitOf (stack pa : Nat) : Nat := stack * 32 + bits pa 13 9

/-- The response of a request performed at the LLC lands 150 + 48c cycles later (R120); a fill of a slice reaches it as
much earlier as the way from the slice takes. DEDUCED, unsafe: log 19. -/
def State.llcRespond (s : State) (r : Nat) : State :=
  let q := s.req r
  let t := s.cycle + 150 + 48 * dieClass q.die (homeStack q.pa q.attr)
  match q.sink with
  | .l2 l => s.landReq r (t - 11 - 3 * hops (sliceStop l) q.stop)
  | _ => s.landReq r t

/-- The line of a base-die unit with its new value. -/
def State.setLlc (s : State) (c : CLine) : State := { s with llc := tins s.llc c.tag c }

/-- A full/empty operation has made its line so: the word that a fill stores is a write at the LLC (R123). -/
def State.feStore (s : State) (a : Access) (attr : Nat) (c : CLine) : State :=
  let s := match a.kind with
    | .fill => s.llcWrite c.tag attr c.data (BitVec.ofNat 64 (255 * 2 ^ (8 * (a.addr % 64 / 8))))
    | _ => s
  match s.llcGet c.tag with
  | some l => s.setLlc { l with fe := c.fe, feDirty := c.feDirty }
  | none => s.setLlc c

/-- A full/empty operation at a base die, and the take of the head waiter after a fill (R306). DEDUCED, unsafe: log 25. -/
def State.feBase (s : State) (r : Nat) (c : CLine) : State :=
  let q := s.req r
  let word := q.pa / 64 * 8 + q.acc.addr % 64 / 8
  let stack := homeStack q.pa q.attr
  match feApply q.acc c with
  | (_, none) =>
    if 1024 ≤ s.feWait.foldl (fun n kw => n + (kw.2.filter (fun w => homeStack (s.req w).pa (s.req w).attr == stack)).length) 0 then
      -- the refusal returns as a result does, and the request is sent 32 cycles later
      s.post (s.cycle + 150 + 48 * dieClass q.die stack + 32) 3 620 .feTableRetry [r]
    else ({ s with feWait := tput [] s.feWait word (tget [] s.feWait word ++ [r]) }).reqDone r
  | (c1, some v) =>
    let s := s.feStore q.acc q.attr c1
    let s := if q.acc.kind.hasEntry then (s.setReq r { q with rdata := valueLine q.acc.addr 8 v }).llcRespond r else s
    let s := s.reqDone r
    let s := if q.acc.kind.hasEntry then s else s.delReq r
    match q.acc.kind, tget [] s.feWait word with
    | .fill, w :: rest =>
      let p := s.req w
      let c := (s.llcGet (q.pa / 64)).getD c1
      let (c, v) := feApply p.acc c
      let s := { s with feWait := tput [] s.feWait word rest }
      ((s.setLlc c).setReq w { p with rdata := valueLine p.acc.addr 8 (v.getD 0) }).llcRespond w
    | _, _ => s

/-- A request is performed at the LLC or at a memory-side unit, its line present. -/
def State.llcPerform (s : State) (r : Nat) (c : CLine) : State :=
  let q := s.req r
  let line := q.pa / 64
  if q.acc.kind.isFe then s.feBase r c
  else
    match q.acc.kind with
    | .prefetch _ => s.delReq r
    | .atomic 11 =>
      let old := s.llcBytes (line * 64) q.attr 320
      let p := atomicApply q.acc 11 old
      let s := (List.range 5).foldl (fun s i =>
        s.llcWrite (line + i) q.attr (BitVec.ofNat 512 (p.1 / 2 ^ (512 * i))) (BitVec.allOnes 64)) s
      ((s.setReq r { q with rdata := valueLine q.acc.addr 8 p.2 }).llcRespond r).reqDone r
    | .atomic form =>
      let off := q.acc.addr % 64
      let n := atomicSize form q.acc.ty
      let p := atomicApply q.acc form (bits c.data.toNat (8 * off + 8 * n - 1) (8 * off))
      let s := s.llcWrite line q.attr (valueLine off n p.1) (BitVec.ofNat 64 ((2 ^ n - 1) * 2 ^ off))
      ((s.setReq r { q with rdata := valueLine q.acc.addr (min n 8) p.2 }).llcRespond r).reqDone r
    | .load => ((s.setReq r { q with rdata := c.data, fe := some c.fe }).llcRespond r).reqDone r
    | .tileLoad _ => ((s.setReq r { q with rdata := c.data }).llcRespond r).reqDone r
    | .clean _ => (s.reqDone r).delReq r
    | _ =>
      let s := (s.llcWrite line q.attr q.wdata q.wmask).reqDone r
      (match q.sink with
      | .tile _ => s.llcRespond r
      | .copy _ _ => s.llcRespond r
      | .windrose _ _ => s.llcRespond r
      | _ => s.delReq r)

/-- Cycles for which a request holds its unit: 5 for `.xadd64` (R393), 1 for any other (R334). -/
def GReq.unitCycles (q : GReq) : Nat := if q.acc.kind == .atomic 11 then 5 else 1

/-- The requests for a line that wait for its unit, each with the cycle at which it tries again. -/
def State.unitWaits (s : State) (line : Nat) : List (Nat × Nat) :=
  s.agenda.filterMap (fun d => match d.what with
    | .event .llcAccess [r] => if d.pri == 95 && (s.req r).pa / 64 == line then some (d.at_, r) else none
    | _ => none)

/-- A line that is absent is asked of HBM for a request, whose time the spec leaves open beyond 200 cycles. Those that wait for
the line's unit wait for the fill instead, in the order of arrival: before it those that are due later, since they came before. -/
def State.openFill (s : State) (line r : Nat) : State :=
  let (n, s) := s.draw
  let w := s.unitWaits line
  let gone := w.map (·.2)
  let list := (w.filter (fun x => s.cycle < x.1)).map (·.2) ++ r :: (w.filter (fun x => x.1 ≤ s.cycle)).map (·.2)
  let s := if w.isEmpty then s else { s with agenda := s.agenda.filter (fun d => match d.what with
    | .event .llcAccess [r] => !(d.pri == 95 && gone.contains r)
    | _ => true) }
  ({ s with fills := tput [] s.fills line list }).post (s.cycle + 200 + Config.hbmExtra n) 3 90 .hbmFill [line]

/-- A request at the LLC (R120): performed on a hit, one per cycle at the unit of its address (R334, R393); else it awaits the
fill from HBM, whose time the spec leaves open beyond 200 cycles, behind the earlier requests for the line. DEDUCED, unsafe: log 113. -/
def State.llcServe (s : State) (r : Nat) : State :=
  let q := s.req r
  let line := q.pa / 64
  let s := s.llcReplace
  match tget [] s.fills line, s.llcGet line with
  | [], none => s.openFill line r
  | f :: l, _ => { s with fills := tput [] s.fills line (f :: l ++ [r]) }
  | [], some c =>
    let u := unitOf (homeStack q.pa q.attr) q.pa
    let busy := tget 0 s.unitBusy u
    if s.cycle < busy then s.post busy 3 95 .llcAccess [r]
    else ({ s with unitBusy := tput 0 s.unitBusy u (s.cycle + q.unitCycles) }).llcPerform r c

def execLlcAccess (s : State) : Result := .next (s.llcServe (s.arg.headD 0))

/-- HBM_FILL: [line] the fill from HBM reaches the LLC, decrypted or through its format window, and the requests that await
it are performed in order of arrival (R120, R121, R123). DEDUCED, unsafe: log 113. -/
def execHbmFill (s : State) : Result :=
  let line := s.arg.headD 0
  let list := tget [] s.fills line
  let s := ({ s with fills := tput [] s.fills line [] }).llcFill line (s.req (list.headD 0)).attr
  .next (list.foldl (fun s r => s.post s.cycle 3 95 .llcAccess [r]) s)

/-- A request that a home's full wait table refused is sent again (R306). -/
def execFeTableRetry (s : State) : Result :=
  let r := s.arg.headD 0
  let q := s.req r
  let s := s.setReq r { q with at_ := s.cycle }
  .next (if q.llc then s.post (s.cycle + 150 + 48 * dieClass q.die (homeStack q.pa q.attr)) 3 100 .feHomeServe [r]
    else s.offerTo q.die q.stop (q.slice / 128) (sliceStop q.slice) q.lane 1 (s.cycle + 6) 0 (.req r))

/-- The home of a full/empty word serves a request (R306). -/
def execFeHomeServe (s : State) : Result := .next (s.llcServe (s.arg.headD 0))

/-! Lines as a unit reaches them through the L2 ports of its die (R407). -/

/-- A line's data and full/empty bits as the write-backs of a die under way leave them, in their order (R306, R335). -/
def State.afterWbs (s : State) (die line : Nat) (x : Line × BitVec 8) : Line × BitVec 8 :=
  s.reqs.foldl (fun x kq =>
    if kq.2.writeBack && kq.2.llc && kq.2.die == die && kq.2.pa / 64 == line then
      (mergeLine x.1 kq.2.wdata kq.2.wmask, kq.2.fe.getD x.2)
    else x) x

/-- Brings a line into its home slice from the LLC, where it is absent and the set has room (R117, R407). -/
def State.bringL2 (s : State) (die pa attr : Nat) : State :=
  let l := s.homeSlice die pa attr
  if (s.l2Lines l (l2Set pa)).any (fun c => c.tag == pa / 64) then s
  else match s.roomL2 l (l2Set pa) with
    | none => s
    | some s =>
      let s := s.llcFill (pa / 64) attr
      match s.llcGet (pa / 64) with
      | some c =>
        let x := s.afterWbs die (pa / 64) (c.data, c.fe)
        s.touchL2 l { tag := pa / 64, data := x.1, valid := BitVec.allOnes 64, attr := attr, fe := x.2 }
      | none => s

/-- A line of a page at its home, as a read of the die's windrose returns it, which its read budget counts: in the die's slice, or
at the LLC for an M or CA 10 page (R119, R407). -/
def State.readHome (s : State) (die pa attr : Nat) : Line × State :=
  if atMemSide attr then
    let s := s.llcFill (pa / 64) attr
    (match s.llcGet (pa / 64) with | some c => c.data | none => 0, s)
  else
    let s := s.bringL2 die pa attr
    let l := s.homeSlice die pa attr
    match (s.l2Lines l (l2Set pa)).find? (fun c => c.tag == pa / 64) with
    | some c => (c.data, (s.touchL2 l c.readOnce).expireL2 l c.tag)
    | none => (0, s)

/-- Writes bytes of a line at its home (R118, R407). -/
def State.writeHome (s : State) (die pa attr : Nat) (data : Line) (mask : BitVec 64) : State :=
  if atMemSide attr then s.llcWrite (pa / 64) attr data mask
  else
    let s := s.bringL2 die pa attr
    let l := s.homeSlice die pa attr
    match (s.l2Lines l (l2Set pa)).find? (fun c => c.tag == pa / 64) with
    | some c => s.touchL2 l { c with data := mergeLine c.data data mask, dirty := c.dirty ||| mask, attr := attr }
    | none => s

/-- Whether a line can be reached at its home now: no fill of it is on its way to its slice, and its set has room (R116). -/
def State.homeFree (s : State) (die pa attr : Nat) : Bool :=
  atMemSide attr || (
    let ls := s.l2Lines (s.homeSlice die pa attr) (l2Set pa)
    match ls.find? (fun c => c.tag == pa / 64) with
    | some c => c.miss.isNone
    | none => ls.length < 16 || ls.any (fun c => c.miss.isNone))

/-- The L1 walk of a release or an acquire ends: dirty bytes of the ranges leave, and an acquire removes the lines; those
that left before are awaited too (R309, R310). DEDUCED, unsafe: log 26. -/
def State.walkL1 (s : State) (j : Nat) : State :=
  let x := s.join j
  let hit := fun (l : CLine) => inRanges l.tag x.phys
  let (n, s) := s.awaitReqs j (fun q => !q.llc && q.core == x.core + 1 && inRanges (q.pa / 64) x.phys)
  let c := s.core x.core
  let dirty := (c.l1.flatMap (·.2)).filter (fun l => hit l && l.dirty != 0)
  let l1 := (c.l1.map (fun kl => (kl.1, if x.inval then kl.2.filter (fun l => !hit l)
    else kl.2.map (fun l => if hit l then { l with dirty := 0 } else l)))).filter (fun kl => !kl.2.isEmpty)
  let s := s.setCore x.core { c with l1 := l1 }
  let s := s.setJoin j { x with left := n + dirty.length }
  let s := dirty.foldl (fun s l => s.wbL1 x.core l s.cycle (.join j)) s
  if n + dirty.length == 0 then s.joinNext j else s

/-- The walk of the die's slices ends: dirty lines of the wide ranges go to the LLC, and an acquire removes the lines, those
under fill once their lists are answered; write-backs of the ranges that left before are awaited too (R309, R310). DEDUCED, unsafe: log 26. -/
def State.walkL2 (s : State) (j : Nat) : State :=
  let x := s.join j
  let die := x.core / 2048
  let inR := fun (l : CLine) => inRanges l.tag x.physWide
  let hit := fun (l : CLine) => l.miss.isNone && !l.drop && inR l
  let (n, s) := s.awaitReqs j (fun q => q.llc && q.die == die && inRanges (q.pa / 64) x.physWide)
  let sl := s.slices.filter (fun kv => kv.1 / 128 == die)
  let dirty := sl.flatMap (fun kv => (kv.2.sets.flatMap (·.2)).filterMap (fun l =>
    if hit l && l.isDirty then some (kv.1, l) else none))
  let s := sl.foldl (fun s kv =>
    let sets := (kv.2.sets.map (fun (ks : Nat × List CLine) => (ks.1,
      if x.inval then (ks.2.filter (fun l => !hit l)).map (fun l => if inR l then { l with drop := true } else l)
      else ks.2.map (fun l => if hit l then { l with dirty := 0, feDirty := false } else l)))).filter (fun ks => !ks.2.isEmpty)
    s.setSlice kv.1 { kv.2 with sets := sets }) s
  let s := s.setJoin j { x with left := n + dirty.length }
  let s := dirty.foldl (fun s kl => s.wbL2 kl.1 kl.2 {} (.join j)) s
  if n + dirty.length == 0 then s.joinNext j else s

/-- WRITE_BACK: 1, a slice's write-back is performed at the LLC (R434); 2, the LLC writes a line to HBM (R121, R123);
3, a walk of a release or an acquire ends; 4, the translation of its ranges goes on (R309); 5, the next line of an access leaves its
core (R126). DESIGN CHOICE, safe: log 12.
DEDUCED, unsafe: log 113. -/
def execWriteBack (s : State) : Result :=
  let k := s.arg.headD 0
  let r := s.arg.getD 1 0
  if k == 1 then
    let q := s.req r
    let line := q.pa / 64
    let u := unitOf (homeStack q.pa q.attr) q.pa
    let s := { s with unitBusy := tput 0 s.unitBusy u (max (tget 0 s.unitBusy u) (s.cycle + 1)) }
    let s := (s.llcFill line q.attr).llcWrite line q.attr q.wdata q.wmask
    let s := match q.fe, s.llcGet line with
      | some fe, some c => s.setLlc { c with fe := fe }
      | _, _ => s
    .next ((s.reqDone r).delReq r)
  else if k == 2 then .next (s.llcEvict r)
  else if k == 4 then .next (s.joinPages r 1024)
  else if k == 5 then .next (s.sendNext r (s.arg.getD 2 0))
  else if (s.join r).stage == 0 then .next (s.walkL1 r)
  else .next (s.walkL2 r)

end Sys2Proof.Machine
end

