-- ==== Sys2Proof/Machine/Global.lean ====
section
/-! DEFINITION. The global access instructions (R125 to R130, R133), the global full/empty forms (R304, R306) and the
global atomics (R392). -/

namespace Sys2Proof.Machine

open Sys2Proof

/-- The range and alignment checks of an access of `n` bytes from an address, in a space of `lim` bytes (R98, R125): SPACE
for an address outside it, then ALIGN, then SPACE for an access that runs past the end; the fault, exact, and the address
it names. DEDUCED, unsafe: log 21. DEDUCED, unsafe: log 31. -/
def addrFault (lim : Nat) (va : Int) (n al : Nat) : Option (Nat × Nat) :=
  if va < 0 || (lim : Int) ≤ va then some (fcSpace, ofSigned 64 va)
  else if va % al != 0 then some (fcAlign, va.toNat)
  else if (lim : Int) < va + n then some (fcSpace, va.toNat)
  else none

/-- The checks of an access to the own pond (R163): SPACE where any byte lies outside, then ALIGN. -/
def spanFault (lim : Nat) (off : Int) (n al : Nat) : Option (Nat × Nat) :=
  if off < 0 || (lim : Int) < off + n then some (fcSpace, ofSigned 64 off)
  else if off % al != 0 then some (fcAlign, off.toNat)
  else none

/-- The global space (R98). -/
def globLim : Nat := 2 ^ 57

/-- The elements of a vector access from an address: those active under the mask (R126, R203). -/
def vecElems (n : Nat) (k : Word) (va : Nat) : List Elem :=
  ((List.range (elemCount n)).filter (activeElem n k)).map (fun e => ⟨va + e * (n / 8), n / 8, e * n⟩)

/-- The bits that a vector load writes: the active elements, and with Z the others too, as 0 (R126). -/
def vecMask (n : Nat) (k : Word) (z : Bool) : VReg :=
  if z then BitVec.allOnes 2048
  else (List.range (elemCount n)).foldl (fun m e => if activeElem n k e then m ||| elemMask n e else m) 0

/-- A load issues: it takes an entry that writes register A, and the access leaves (R13). -/
def State.issueLoad (s : State) (a : Access) (ws : List RegW) (left ext : Nat) : State :=
  let (u, s) := s.fresh
  let a := { a with uid := u, slot := s.cur }
  ((s.takeEntry { uid := u, writes := ws, left := left, ext := ext, acc := some a }).issueAccess a).advance

/-- A store issues: it takes no entry (R13). -/
def State.issueStore (s : State) (a : Access) : State :=
  let (u, s) := s.fresh
  (s.issueAccess { a with uid := u, slot := s.cur, ix := s.me.pc.toNat }).advance

/-- The scalar write of register A. -/
def regS (x : Args) : List RegW := [⟨.s, x.a.idx, 0, BitVec.allOnes 2048⟩]

/-- The budget and D hints of a load, and its type (R40, R119). -/
def hinted (x : Args) (a : Access) : Access := { a with bud := x.bud.toNat, d := x.d, ty := x.ty }

/-- ldg (R125). -/
def ldgBody (x : Args) (s : State) : State :=
  let n := tyBits x.ty
  let va := s.baseOff x
  match addrFault globLim va (n / 8) (n / 8) with
  | some f => s.raise f.1 f.2
  | none => s.issueLoad (hinted x { kind := .load, addr := va.toNat, elems := [⟨va.toNat, n / 8, 0⟩] }) (regS x) 1 x.ty

/-- stg (R125). -/
def stgBody (x : Args) (s : State) : State :=
  let n := tyBits x.ty
  let va := s.baseOff x
  match addrFault globLim va (n / 8) (n / 8) with
  | some f => s.raise f.1 f.2
  | none => s.issueStore { kind := .store, addr := va.toNat, elems := [⟨va.toNat, n / 8, 0⟩], data := (s.opVal x.a).setWidth 4096, ty := x.ty }

/-- The accesses of `vldg` and `vstg`, whose lines are those of all 256 bytes (R126). DEDUCED, unsafe: log 22. -/
def vecAccess (kind : AccKind) (space : Space) (x : Args) (s : State) (va : Nat) : Access :=
  { kind := kind, space := space, addr := va, span := 256, elems := vecElems (tyBits x.ty) (s.maskM x) va
    data := (s.me.vreg x.a.idx).setWidth 4096, ty := x.ty }

/-- vldg (R126). -/
def vldgBody (x : Args) (s : State) : State :=
  let n := tyBits x.ty
  let va := s.baseOff x
  match addrFault globLim va 256 (n / 8) with
  | some f => s.raise f.1 f.2
  | none =>
    let a := hinted x (vecAccess .load .glob x s va.toNat)
    s.issueLoad a [⟨.v, x.a.idx, 0, vecMask n (s.maskM x) x.z⟩] a.lines.length 0

/-- vstg (R126). -/
def vstgBody (x : Args) (s : State) : State :=
  let va := s.baseOff x
  match addrFault globLim va 256 (tyBits x.ty / 8) with
  | some f => s.raise f.1 f.2
  | none => s.issueStore (vecAccess .store .glob x s va.toNat)

/-- The active lanes of a gather or scatter and their addresses (R127). -/
def State.laneAddrs (s : State) (x : Args) : List (Nat × Int) :=
  ((List.range 64).filter (fun i => (s.maskM x).getLsbD i)).map (fun i =>
    (i, ((s.opVal x.b).toNat : Int) + toSigned 32 (vget 32 i (s.me.vreg x.c.idx))))

/-- SPACE of every active lane first, then ALIGN; each names the lowest lane that fails it (R127). -/
def laneFault (l : List (Nat × Int)) : Option (Nat × Nat) :=
  match l.find? (fun p => p.2 < 0 || (globLim : Int) ≤ p.2) with
  | some p => some (fcSpace, ofSigned 64 p.2)
  | none => (l.find? (fun p => p.2 % 4 != 0)).map (fun p => (fcAlign, p.2.toNat))

def laneElems (l : List (Nat × Int)) : List Elem := l.map (fun p => ⟨p.2.toNat, 4, 32 * p.1⟩)

/-- vgthg (R127). With no active lane the entry lands at once. -/
def vgthgBody (x : Args) (s : State) : State :=
  let l := s.laneAddrs x
  match laneFault l with
  | some f => s.raise f.1 f.2
  | none =>
    let es := laneElems l
    let a := hinted x { kind := .load, addr := (es.head?.map (·.addr)).getD 0, elems := es }
    let u := s.uid
    let s := s.issueLoad a [⟨.v, x.a.idx, 0, vecMask 32 (s.maskM x) x.z⟩] (max 1 a.lines.length) 0
    if es.isEmpty then s.landAt s.cur u s.cycle else s

/-- vsctg (R127). -/
def vsctgBody (x : Args) (s : State) : State :=
  let l := s.laneAddrs x
  match laneFault l with
  | some f => s.raise f.1 f.2
  | none =>
    let es := laneElems l
    s.issueStore { kind := .store, addr := (es.head?.map (·.addr)).getD 0, elems := es, data := (s.me.vreg x.a.idx).setWidth 4096, ty := x.ty }

/-- pfg (R129): it never faults; an address out of the space does nothing. DEDUCED, unsafe: log 40. -/
def pfgBody (x : Args) (s : State) : State :=
  let va := s.baseOff x
  if va < 0 || (globLim : Int) ≤ va then s.advance
  else s.issueStore (hinted x { kind := .prefetch x.a.immInt.toNat, addr := va.toNat, span := 1 })

/-- clg (R130). -/
def clgBody (x : Args) (s : State) : State :=
  let va := s.baseOff x
  match addrFault globLim va 1 1 with
  | some f => s.raise f.1 f.2
  | none => s.issueStore { kind := .clean x.a.immInt.toNat, addr := va.toNat, span := 1 }

def execLdg (x : Args) (s : State) : Result := buffered 0x60 0 x s (ldgBody x)
def execStg (x : Args) (s : State) : Result := plain 0x60 1 x s (stgBody x)
def execVldg (x : Args) (s : State) : Result := buffered 0x61 0 x s (vldgBody x)
def execVstg (x : Args) (s : State) : Result := plain 0x61 1 x s (vstgBody x)
def execVgthg (x : Args) (s : State) : Result := buffered 0x61 2 x s (vgthgBody x)
def execVsctg (x : Args) (s : State) : Result := plain 0x61 3 x s (vsctgBody x)
def execPfg (x : Args) (s : State) : Result := plain 0x62 0 x s (pfgBody x)
def execClg (x : Args) (s : State) : Result := plain 0x62 1 x s (clgBody x)

/-! Global full/empty words (R304, R306). -/

/-- The access of a global full/empty form, on an 8-byte word. -/
def feAccess (kind : AccKind) (x : Args) (s : State) (va : Nat) : Access :=
  { kind := kind, addr := va, elems := [⟨va, 8, 0⟩], data := (s.opVal x.a).setWidth 4096, ty := 8 }

/-- empty.g and peek.g. -/
def emptyGBody (x : Args) (s : State) : State :=
  match addrFault globLim (s.baseOff x) 8 8 with
  | some f => s.raise f.1 f.2
  | none => s.issueStore (feAccess .empty x s (s.baseOff x).toNat)

def peekGBody (x : Args) (s : State) : State :=
  match addrFault globLim (s.baseOff x) 8 8 with
  | some f => s.raise f.1 f.2
  | none => s.issueLoad (feAccess .peek x s (s.baseOff x).toNat) (regS x) 1 8

def execEmptyG (x : Args) (s : State) : Result := plain 0x72 1 x s (emptyGBody x)
def execPeekG (x : Args) (s : State) : Result := buffered 0x72 2 x s (peekGBody x)

/-! Atomics. -/

/-- The access of an atomic (R169): its address, its operands as they stand at issue, and the bytes of its result. -/
def atomicAccess (space : Space) (form : Nat) (x : Args) (s : State) (addr : Nat) : Access :=
  let c := if form == 9 then s.grp x.c 0 else s.opVal x.c
  let new := if form == 9 then s.grp x.c 1 else 0
  { kind := .atomic form, space := space, addr := addr
    elems := [⟨addr, if form == 10 || form == 11 then 4 else tyBits x.ty / 8, 0⟩]
    data := BitVec.ofNat 4096 (c.toNat + new.toNat * 2 ^ 64), ty := x.ty }

/-- The alignment of an atomic (R169). -/
def atomicAlign (form ty : Nat) : Nat := if form == 10 then 64 else if form == 11 then 512 else tyBits ty / 8

/-- How the result of an atomic is extended: Ext(T, old), or a status of 32 bits (R169). -/
def atomicExt (form ty : Nat) : Nat := if form == 10 || form == 11 then 7 else ty

/-- amog (R392). -/
def amogBody (form : Nat) (x : Args) (s : State) : State :=
  let va : Int := (s.opVal x.b).toNat
  match addrFault globLim va (atomicSize form x.ty) (atomicAlign form x.ty) with
  | some f => s.raise f.1 f.2
  | none => s.issueLoad (atomicAccess .glob form x s va.toNat) (regS x) 1 (atomicExt form x.ty)

def execAmogAdd (x : Args) (s : State) : Result := buffered 0x80 0 x s (amogBody 0 x)
def execAmogAnd (x : Args) (s : State) : Result := buffered 0x80 1 x s (amogBody 1 x)
def execAmogOr (x : Args) (s : State) : Result := buffered 0x80 2 x s (amogBody 2 x)
def execAmogXor (x : Args) (s : State) : Result := buffered 0x80 3 x s (amogBody 3 x)
def execAmogMin (x : Args) (s : State) : Result := buffered 0x80 4 x s (amogBody 4 x)
def execAmogMax (x : Args) (s : State) : Result := buffered 0x80 5 x s (amogBody 5 x)
def execAmogMinn (x : Args) (s : State) : Result := buffered 0x80 6 x s (amogBody 6 x)
def execAmogMaxn (x : Args) (s : State) : Result := buffered 0x80 7 x s (amogBody 7 x)
def execAmogSwap (x : Args) (s : State) : Result := buffered 0x80 8 x s (amogBody 8 x)
def execAmogCas (x : Args) (s : State) : Result := buffered 0x80 9 x s (amogBody 9 x)
def execAmogXadd32 (x : Args) (s : State) : Result := buffered 0x80 10 x s (amogBody 10 x)
def execAmogXadd64 (x : Args) (s : State) : Result := buffered 0x80 11 x s (amogBody 11 x)

/-! tlbi (R133). -/

/-- Whether a translation is named: its context, and a page that meets the range; a length of 0 means every address. -/
def tlbiHits (ctx : Option Nat) (start len : Nat) (t : Trans) : Bool :=
  (match ctx with | none => true | some c => t.ctx == c) && (len == 0 || (t.base < start + len && start < t.base + t.size))

/-- The requests that wait in the tables of full/empty words (R306). -/
def State.feWaiters (s : State) : List Nat := s.feWait.flatMap (·.2) ++ s.slices.flatMap (fun kx => kx.2.feWait.flatMap (·.2))

/-- What has translated through one of the dropped entries and has not been performed, in the units named, as pairs: a slot and its
access, one that waits at its word among them, or, from 2^40 on, a copy command, a prefetch or fetch, a run (R133). Copies and runs
count by the pages they hold. DEDUCED, unsafe: log 115. -/
def State.openGlobal (s : State) (scope : Nat) (gone : List Trans) (hit : Trans → Bool) : List Nat :=
  let thru := fun (c va : Nat) => gone.any (fun t => t.ctx == c && t.base ≤ va && va < t.base + t.size)
  let inCluster := fun (c : Nat) => match scope with
    | 2 => c == s.cur / 128
    | 5 => c / 256 == dieOf s.cur
    | _ => true
  let slots := s.slots.flatMap (fun kx =>
    if inCluster (kx.1 / 128) then
      let early := kx.2.held.map (·.acc.uid) ++ (s.walking kx.1).map (·.uid)
      (kx.2.open_.filter (fun p => p.space == .glob && !early.contains p.uid
        && (if p.acc.kind.isTile then s.tilePlaces p.acc else p.acc.places).any (fun l => thru p.acc.ctx (64 * l)))).flatMap (fun p => [kx.1, p.uid])
    else [])
  let waits := s.feWaiters.flatMap (fun r =>
    let q := s.req r
    if inCluster ((q.core - 1) / 8) && thru q.acc.ctx (q.attr / 2 ^ 128) then [q.acc.slot, q.acc.uid] else [])
  let copies := s.copies.flatMap (fun kc => if inCluster (clusterOf kc.2.slot) && kc.2.pages.any hit then [2 ^ 40, kc.1] else [])
  let reqs := s.reqs.flatMap (fun kq =>
    let mine := match kq.2.acc.kind, kq.2.sink with
      | .prefetch _, _ => some kq.2.acc.ctx
      | _, .icache _ => some kq.2.ctx
      | _, _ => none
    if inCluster ((kq.2.core - 1) / 8) && mine.any (fun c => thru c (kq.2.attr / 2 ^ 128)) then [2 ^ 40 + 1, kq.1] else [])
  let runs := s.runs.flatMap (fun kr => if scope == 6 || kr.2.die == dieOf s.cur then
    (if kr.2.pages.any hit then [2 ^ 40 + 2, kr.1] else []) else [])
  slots ++ waits ++ copies ++ reqs ++ runs

/-- tlbi: every matching entry is dropped from the TLBs and walk caches of the scope; the completion waits for the
accesses that had translated.
A walk under way goes on. DESIGN CHOICE, unsafe: log 157. -/
def tlbiBody (x : Args) (s : State) : State :=
  let who := s.grp x.b 0
  let ctx := if who.getLsbD 63 then none else some (bits who.toNat 7 0)
  let start := (s.grp x.b 1).toNat
  let len := (s.grp x.b 2).toNat
  let scope := x.a.immInt.toNat
  let hit := tlbiHits ctx start len
  let inC (c : Nat) : Bool :=
    if scope == 2 then c == s.cur / 128 else if scope == 5 then c / 256 == dieOf s.cur else true
  let inD (d : Nat) : Bool := scope == 6 || (scope == 5 && d == dieOf s.cur)
  let gone := s.clusters.flatMap (fun kc => if inC kc.1 then kc.2.tlb.filter hit else [])
    ++ s.dies.flatMap (fun kd => if inD kd.1 then kd.2.walkers.flatMap (fun kw => kw.2.cache.filter hit) else [])
  let clusters := s.clusters.foldl (fun t kc =>
    if inC kc.1 then tput {} t kc.1 { kc.2 with tlb := kc.2.tlb.filter (fun t => !hit t) } else t) s.clusters
  let dies := s.dies.foldl (fun t kd =>
    if inD kd.1 then
      tput {} t kd.1 { kd.2 with walkers := kd.2.walkers.map (fun (kw : Nat × Walker) =>
        (kw.1, { kw.2 with cache := kw.2.cache.filter (fun t => !hit t) })) }
    else t) s.dies
  let open_ := s.openGlobal scope gone hit
  let s := { s with clusters := clusters, dies := dies }
  (s.post (s.cycle + 1) 3 750 .tlbiComplete (s.cur :: open_)).advance

def execTlbi (x : Args) (s : State) : Result := plain 0x03 0 x s (tlbiBody x)

/-- The pairs that are still to be performed. DEDUCED, unsafe: log 115. -/
def stillOpen (s : State) : List Nat → List Nat
  | g :: u :: t =>
    let left := if g == 2 ^ 40 then (s.copies.lookup u).isSome
      else if g == 2 ^ 40 + 1 then (s.reqs.lookup u).isSome
      else if g == 2 ^ 40 + 2 then (s.runs.lookup u).isSome
      else s.slots.any (fun kx => kx.2.open_.any (fun p => p.uid == u)) || s.feWaiters.any (fun r => (s.req r).acc.uid == u)
    if left then g :: u :: stillOpen s t else stillOpen s t
  | _ => []

/-- TLBI_COMPLETE: once every such access has been performed, a kind-2 message with tag 0xFFF0 goes to the issuing slot;
until then it is looked at again on the next cycle (R133). DEDUCED, unsafe: log 115. -/
def execTlbiComplete (s : State) : Result :=
  let g := s.arg.headD 0
  match stillOpen s (s.arg.drop 1) with
  | [] => .next (s.sendAt s.cycle { msg := { hdr := unitHdr 2 5 (dieOf g) 0xFFF0 0 }, dest := .slot g })
  | l => .next (s.post (s.cycle + 1) 3 750 .tlbiComplete (g :: l))

end Sys2Proof.Machine
end

