-- ==== Sys2Proof/Machine/Pond.lean ====
section
/-! DEFINITION. The wheels and the pond (R139 to R161): word services, block turns and their commits, full/empty words
and their wait lists, retired banks, the switch of the cam tables; the network port's crew accesses (R276, R277) and
the range scoreboard (R256, R257). -/

namespace Sys2Proof.Machine

open Sys2Proof

/-- The pond byte address of an offset of a mill. -/
def pondAt (mill off : Nat) : Nat := mill * 2 ^ 21 + off

/-- `n` bytes of a mill's pond. -/
def State.pondRead (s : State) (mill off n : Nat) : Nat := memRead s.pond (pondAt mill off) n
def State.pondWrite (s : State) (mill off n x : Nat) : State := { s with pond := memWrite s.pond (pondAt mill off) n x }

/-- The mill at a stop of a die (R265, R293). -/
def State.millAt (s : State) (die stop : Nat) : Nat :=
  die * 64 + ((List.range 64).find? (fun m => s.part.physMill die m == stop)).getD stop

/-- Whether the bank of an offset is a dry slot, or its retirement is decided (R156). -/
def Mill.isDry (m : Mill) (off : Nat) : Bool := m.bankDry.getLsbD (8 * offGroup off + offBank off)
def Mill.isRetired (m : Mill) (off : Nat) : Bool := m.bankRet.getLsbD (8 * offGroup off + offBank off)

/-! The scoreboard (R257). -/

/-- Whether bytes [lo, hi) of a mill's pond are parked on: a chunk that has not arrived, or for a write an operand
range. -/
def Mill.parks (m : Mill) (write : Bool) (lo hi : Nat) : Bool :=
  m.sb.any (fun e =>
    lo < e.hi && e.lo < hi &&
      (if e.chunk then (List.range ((e.hi - e.lo) / 512)).any (fun j =>
          !e.got.testBit j && lo < e.lo + 512 * j + 512 && e.lo + 512 * j < hi)
       else write))

/-- Whether a kind writes the pond, for the scoreboard (R257). -/
def AccKind.pondWrites : AccKind → Bool
  | .store => true | .blkStore => true | .fill => true | .empty => true | .atomic _ => true | .xacc => true | .xclr => true
  | _ => false

/-! The fields of a copy command (R246, R247). -/

def Copy.reg (c : Copy) (i : Nat) : Nat := ((c.r[i]?).getD 0).toNat
/-- The pond offset and the arrival word of the destination, or of a `cstore`'s source. -/
def Copy.off (c : Copy) : Nat := bits (c.reg 2) 20 0
def Copy.arrival (c : Copy) : Nat := bits (c.reg 2) 41 21
def Copy.count (c : Copy) : Nat := bits (c.reg 3) 6 0
def Copy.cmask (c : Copy) : Nat := bits (c.reg 3) 31 16

/-- The crew indexes it writes to; none for a `cstore`, the own mill for a `cfetch`. -/
def Copy.members (c : Copy) (mine : Nat) : List Nat :=
  match c.kind with
  | 0 => [mine]
  | 2 => [bits (c.reg 1) 3 0]
  | 3 => (List.range 16).filter (fun m => c.cmask.testBit m)
  | _ => []

/-- The mill of a crew member, as the crew table of a mill maps it (R275). -/
def State.memberMill (s : State) (mill k : Nat) : Nat :=
  let m := s.mill mill
  if k == m.crewIx then mill else s.millAt (mill / 64) ((m.members[k]?).getD (s.part.stopOf mill))

/-- The mills it writes to. -/
def State.copyDests (s : State) (c : Copy) : List Nat :=
  let mill := millOf c.slot
  (c.members (s.mill mill).crewIx).map (s.memberMill mill)

/-- Whether elements lie in arrival words of the commands that write to a mill, or of a `cstore` of its own, which are never parked on
(R257). -/
def State.arrivalOnly (s : State) (mill : Nat) (es : List Elem) : Bool :=
  let inWord := fun (w : Nat) (e : Elem) => w ≤ e.addr && e.addr + e.n ≤ w + 8
  !es.isEmpty && es.all (fun e => (s.mill mill).sb.any (fun x => x.chunk && inWord x.arrival e)
    || s.copies.any (fun kc => kc.2.img == 0 && inWord kc.2.arrival e
        && (if kc.2.kind == 1 then millOf kc.2.slot == mill else (s.copyDests kc.2).contains mill)))

/-- Whether the scoreboard of a mill parks an access of it. -/
def State.parksAccess (s : State) (mill : Nat) (a : Access) : Bool :=
  a.words.any (fun w => !s.arrivalOnly mill w.2
    && (s.mill mill).parks a.kind.pondWrites (64 * w.1) (64 * w.1 + (if a.kind.isBlock then 512 else 64)))

/-! Results. -/

/-- A part of a pond access's result has its value: it lands 6 cycles later (R148); for a crew access the response
leaves when the last part has, 4 cycles later, or the entry of the own mill lands at 6 (R277). DEDUCED, safe: log 30. -/
def State.pondLand (s : State) (mill : Nat) (a : Access) (i : Nat) (v : VReg) (flags : Nat) (flt : Option (Nat × Nat)) : State :=
  let s := s.updEntry a.slot a.uid (fun e => { (e.orVal i v) with
    flags := e.flags ||| flags, fault := if e.fault.isNone then flt else e.fault })
  if a.space == .crew then
    match s.entry a.slot a.uid with
    | none => s
    | some e =>
      if 1 < e.left then s.updEntry a.slot a.uid (fun e => { e with left := e.left - 1 })
      else
        let home := millOf (s.follow a.slot)
        if home == mill then s.landAt a.slot a.uid (s.cycle + 6)
        else s.offer (mill / 64) (s.part.stopOf mill) (s.part.stopOf home) (bits a.addr 8 6) (if a.kind == .load then a.lines.length else 1) (s.cycle + 4) 0
          (.crewResp a.slot a.uid 0 none)
  else s.landAt a.slot a.uid (s.cycle + 6)

/-- The value of an entry's 8-byte word where it waits: it lands 6 cycles later, by a response if the wait came from
another mill. -/
def State.handWord (s : State) (slot uid v : Nat) : State :=
  (s.updEntry slot uid (fun e => e.orVal 0 (BitVec.ofNat 2048 v))).landAt slot uid (s.cycle + 6)

/-- A write to a pond word tests the `recv.chk` waiters of its eight words (R314). DEDUCED, unsafe: log 29. -/
def State.chkTest (s : State) (mill off : Nat) : State :=
  let m := s.mill mill
  m.chkWait.foldl (fun s w =>
    if w.1 / 8 == off / 64 then
      let v := s.pondRead mill (8 * w.1) 8
      match s.entry w.2.slot w.2.uid with
      | some e =>
        (match e.form with
        | .chk mask =>
          if (BitVec.ofNat 64 v) &&& mask == mask then
            (s.updMill mill (fun m => { m with chkWait := m.chkWait.erase w })).handWord w.2.slot w.2.uid v
          else s
        | _ => s)
      | none => s.updMill mill (fun m => { m with chkWait := m.chkWait.erase w })
    else s) s

/-- MCHK of bytes of which one lies in a poisoned word (R377); words of the pond are numbered from 2^52 on. DEDUCED, unsafe: log 64. -/
def State.poisonOf (s : State) (base a n detail : Nat) : Option (Nat × Nat) :=
  if (List.range ((a + n + 7) / 8 - a / 8)).any (fun i => tget false s.poison (base + a / 8 + i)) then some (fcMchk, detail) else none

/-- DEDUCED, unsafe: log 64. -/
def State.pondPoison (s : State) (mill off n : Nat) : Option (Nat × Nat) := s.poisonOf (2 ^ 52) (pondAt mill off) n off

/-! Word services (R148, R153, R155). -/

/-- A word request has its service: its effect, and what it returns. -/
def State.serveWord (s : State) (mill : Nat) (q : PondReq) : State :=
  let a := q.acc
  let base := q.off
  let line : Line := BitVec.ofNat 512 (s.pondRead mill base 64)
  let w := a.addr / 8
  let isFull := tget false (s.mill mill).full w
  let setFull (s : State) (b : Bool) : State := s.updMill mill (fun m => { m with full := tput false m.full w b })
  let word := s.pondRead mill (8 * w) 8
  let s : State := match a.kind with
    | .load => s.pondLand mill a 0 (elemsValue line a.elems) 0 (a.elems.findSome? (fun e => s.pondPoison mill e.addr e.n))
    | .store =>
      let mask := elemsMask a.elems
      let s := { s with pond := memWriteMask s.pond (pondAt mill base) 64 (elemsData a.data a.elems).toNat mask.toNat }
      s.chkTest mill base
    | .fill =>
      let s := ((setFull (s.pondWrite mill (8 * w) 8 (bits a.data.toNat 63 0)) true)).chkTest mill base
      (match tget [] (s.mill mill).feWait w with
      | v :: rest =>
        let s := s.updMill mill (fun m => { m with feWait := tput [] m.feWait w rest })
        (setFull s false).handWord v.slot v.uid (s.pondRead mill (8 * w) 8)
      | [] => s)
    | .empty => setFull s false
    | .peek => s.pondLand mill a 0 (if isFull then 1 else 0) 0 none
    | .take =>
      if isFull then (setFull s false).pondLand mill a 0 (BitVec.ofNat 2048 word) 0 (s.pondPoison mill (8 * w) 8)
      else s.updMill mill (fun m => { m with feWait := tput [] m.feWait w (tget [] m.feWait w ++ [{ slot := a.slot, uid := a.uid }]) })
    | .chk =>
      let mask := BitVec.ofNat 64 (bits a.data.toNat 63 0)
      if (BitVec.ofNat 64 word) &&& mask == mask then s.pondLand mill a 0 (BitVec.ofNat 2048 word) 0 none
      else s.updMill mill (fun m => { m with chkWait := m.chkWait ++ [(w, { slot := a.slot, uid := a.uid })] })
    | .atomic form =>
      let n := atomicSize form a.ty
      let p := atomicApply a form (s.pondRead mill a.addr n)
      ((s.pondWrite mill a.addr n p.1).chkTest mill base).pondLand mill a 0 (BitVec.ofNat 2048 p.2) 0 (s.pondPoison mill a.addr n)
    | _ => s
  s.done a.slot a.uid

/-- Whether the cluster of a port faces a group and its lane meets a bank at the present cycle (R148, R158). -/
def State.meetsNow (s : State) (port off : Nat) : Bool :=
  let cl := port / 16
  let m := s.mill (cl / 4)
  !(s.cluster cl).retired && m.outer s.cycle (cl % 4) == offGroup off && m.inner s.cycle (port / 2 % 8) == offBank off

/-- The requests of a queue that are older than one. -/
def olderThan (l : List PondReq) (id : Nat) : List PondReq := l.takeWhile (fun q => q.id != id)

/-- A queued request is withdrawn: an entry lands with BANKRET, a store leaves a fault record, a crew access answers or
is dropped and counted (R156). DEDUCED, unsafe: log 102. DESIGN CHOICE, unsafe: log 122. It is no
longer awaited by a `bar`. DESIGN CHOICE, unsafe: log 139. -/
def State.withdraw (s : State) (mill : Nat) (q : PondReq) : State :=
  let a := q.acc
  let s := if a.space == .crew then
      (if a.kind.hasEntry then s.pondLand mill a 0 0 0 (some (fcBankret, max a.addr q.off))
       else
        let bank := 8 * offGroup q.off + offBank q.off
        s.updMill mill (fun m => { m with dropped := tput 0 m.dropped bank (tget 0 m.dropped bank + 1) }))
    else s.accessFault a fcBankret (max a.addr q.off)
  s.done a.slot a.uid

/-- POND_WORD_SERVICE (R148): the request is served if this is its cycle, else it waits for its next meeting; one that entered
after its bank's retirement is withdrawn (R156). -/
def execPondWordService (s : State) : Result :=
  let port := s.arg.headD 0
  let id := s.arg.getD 1 0
  let l := s.port port
  match l.find? (fun q => q.id == id) with
  | none => .next s
  | some q =>
    let old := olderThan l id
    let g := offGroup q.off
    if (s.mill (port / 64)).isDry q.off then .next ((s.setPort port (l.filter (fun o => o.id != id))).withdraw (port / 64) q)
    else
    let ok := q.entry ≤ s.cycle && s.meetsNow port q.off && tget 0 s.metAt port != s.cycle + 1
      && !old.any (fun o => if o.block then offGroup o.off == g else offGroup o.off == g && offBank o.off == offBank q.off)
      && !l.any (fun o => o.turn == some (s.cycle / 8))
    if ok then
      let s := { s with metAt := tput 0 s.metAt port (s.cycle + 1) }
      .next ((s.setPort port (l.filter (fun o => o.id != id))).serveWord (port / 64) q)
    else .next (s.postPond q (s.cycle + 1))

/-! Block turns (R150 to R152). -/

/-- The part of a block operation's data that it stages at the end of its turn, or its result. -/
def State.blockEnd (s : State) (mill port : Nat) (q : PondReq) : State :=
  let a := q.acc
  let order := port % 2 * 8 + port / 2 % 8
  let stage := fun (s : State) (x : Staged) =>
    (s.updMill mill (fun m => { m with staged := m.staged ++ [x] })).post s.cycle 6 0 .blockCommit [mill]
  match a.kind with
  | .blkLoad =>
    let sel := q.dry &&& bits a.mask.toNat 7 0
    let s := s.updEntry a.slot a.uid (fun e => ((e.orVal 0 (q.got.setWidth 2048)).orVal 1 ((q.got >>> 2048).setWidth 2048)).orVal 2
      (BitVec.ofNat 2048 ((if sel == 0 then 0 else 9) + 256 * sel)))
    let bad := (List.range 8).findSome? (fun i => if a.mask.getLsbD i then s.pondPoison mill (q.off + 64 * i) 64 else none)
    let s := s.updEntry a.slot a.uid (fun e => { e with fault := if e.fault.isNone then bad else e.fault })
    (s.landAt a.slot a.uid (s.cycle + 6)).done a.slot a.uid
  | .xrnd =>
    if a.ty == 9 then
      let r := xaRound true (bits q.got.toNat 2530 0) 9 a.rm 0
      (s.pondLand mill a 0 (BitVec.ofNat 2048 r.1) r.2 (s.pondPoison mill q.off 320)).done a.slot a.uid
    else
      let n := tyBits a.ty
      let es := (List.range 8).filter (fun i => activeElem n a.mask (8 * q.part + i))
      let r := es.foldl (fun (r : Nat × Nat) i =>
        let y := xaRound false (bits q.got.toNat (512 * i + 482) (512 * i)) a.ty a.rm 0
        (r.1 + y.1 * 2 ^ (n * (8 * q.part + i)), r.2 ||| y.2)) (0, 0)
      (s.pondLand mill a 0 (BitVec.ofNat 2048 r.1) r.2 (es.findSome? (fun i => s.pondPoison mill (q.off + 64 * i) 64))).done a.slot a.uid
  | .deposit =>
    let d := a.aux
    let c : CtlReq := tget {} s.controls d
    let s := { s with controls := tput {} s.controls d { c with data := q.got } }
    let die := mill / 64
    let slice := bits (c.r.headD 0).toNat 10 4
    (s.offer die (s.part.stopOf mill) (sliceStop slice) 0 8 (s.cycle + 6) 0 (.deposit d)).done a.slot a.uid
  | .tileLoad _ =>
    -- a stripe of the image that a `tldg` writes; it counts once its commit is made
    let o : Tile := tget {} s.tiles a.aux
    (stage s { order := order, off := q.off, mask := 255, data := tget 0 o.image q.part }).post s.cycle 7 0 .tldgAonRetry [a.aux, 5, 0]
  | .tileStore =>
    let o : Tile := tget {} s.tiles a.aux
    ({ s with tiles := tins s.tiles a.aux { o with image := tput 0 o.image q.part q.got } }).post s.cycle 7 0 .tldgAonRetry [a.aux, 2, 0]
  | .chunkStore =>
    let c := s.copy a.aux
    if c.id == 0 then s
    else stage s { order := order, off := q.off, mask := 255, data := a.data, chunk := some (a.aux, a.ty, c.arrival) }
  | .chunkLoad =>
    let c := s.copy a.aux
    if c.id == 0 then s
    else
      let s := s.setCopy a.aux { c with image := tput 0 c.image a.ty q.got }
      -- a `cstore` sets its arrival bit at the end of the turn (R252)
      if c.kind == 1 then stage s { order := order, off := q.off, mask := 0, data := 0, chunk := some (a.aux, a.ty, c.arrival) }
      else s.post s.cycle 4 100 .copyChunkReady [a.aux, a.ty, 0]
  | .xclr => stage s { order := order, off := q.off, mask := if a.ty == 9 then 31 else bits a.mask.toNat (8 * q.part + 7) (8 * q.part), data := 0, acc := some a, part := q.part }
  | _ => stage s { order := order, off := q.off, mask := bits a.mask.toNat 7 0, data := a.data, acc := some a, part := q.part }

/-- BLOCK_TURN (R150): at the first cycle of a turn the operation holds it if no older request for its group remains
queued; it meets bank b at the phase that the inner table gives, and ends with phase 7. -/
def execBlockTurn (s : State) : Result :=
  let port := s.arg.headD 0
  let id := s.arg.getD 1 0
  let cl := port / 16
  let mill := cl / 4
  let m := s.mill mill
  let l := s.port port
  match l.find? (fun q => q.id == id) with
  | none => .next s
  | some q =>
    let T := s.cycle / 8
    let g := offGroup q.off
    let starts := s.cycle % 8 == 0 && q.entry ≤ s.cycle && !(s.cluster cl).retired && m.outer s.cycle (cl % 4) == g
      && !(olderThan l id).any (fun o => offGroup o.off == g)
    let gone := q.acc.kind == .atomic 11 && q.turn.isNone && (List.range 5).any (fun k => m.isDry (q.off + 64 * k))
    if gone then .next ((s.setPort port (l.filter (fun o => o.id != id))).withdraw mill q)
    else if q.turn != some T && !starts then .next (s.postPond q (s.cycle + 1))
    else
      let b := m.inner s.cycle (port / 2 % 8)
      let off := q.off + 64 * b
      let dry := m.isDry off
      let w := if dry then 0 else s.pondRead mill off 64
      let sel := q.acc.kind != .blkLoad || q.acc.mask.getLsbD b
      let q := { q with
        turn := some T
        got := if sel then q.got ||| BitVec.ofNat 4096 (w * 2 ^ (512 * b)) else q.got
        dry := if dry then q.dry ||| 2 ^ b else q.dry }
      if s.cycle % 8 == 7 then
        -- the eighth meeting is the operation's too: the port serves no word in it
        let s := { s with metAt := tput 0 s.metAt port (s.cycle + 1) }
        .next ((s.setPort port (l.filter (fun o => o.id != id))).blockEnd mill port q)
      else
        let s := s.setPort port (l.map (fun o => if o.id == id then q else o))
        .next (s.post (s.cycle + 1) (portClass port) (port / 2 % 8) .blockTurn [port, id])

/-- One staged operation takes effect (R151, R157, R170, R222): the words its mask selects, those at dry slots dropped;
or additions to the words as earlier commits of the turn left them. DEDUCED, unsafe: log 29. -/
def State.commitOne (s : State) (mill : Nat) (x : Staged) : State :=
  let m := s.mill mill
  let put := fun (s : State) (k : Nat) (v : Nat) =>
    let off := x.off + 64 * k
    if m.isDry off then s else (s.pondWrite mill off 64 v).chkTest mill off
  let kind := match x.acc with | some a => a.kind | none => .blkStore
  let s := match kind, x.acc with
    | .xacc, some a =>
      (List.range 8).foldl (fun s i =>
        let l := 8 * x.part + i
        if a.mask.getLsbD l then
          let old := s.pondRead mill (x.off + 64 * i) 64 % 2 ^ 483
          put s i (xaAdd false old (decodeFloat 10 (lane a.data l)))
        else s) s
    | .atomic _, some a =>
      let p := atomicApply a 11 (s.pondRead mill x.off 320)
      let s := (List.range 5).foldl (fun s i => put s i (bits p.1 (512 * i + 511) (512 * i))) s
      s.pondLand mill a 0 (BitVec.ofNat 2048 p.2) 0 none
    | _, _ => (List.range 8).foldl (fun s k =>
        if x.mask.testBit k then put s k (bits x.data.toNat (512 * k + 511) (512 * k)) else s) s
  match x.acc with
  | some a => s.done a.slot a.uid
  | none => s

/-- The arrival bit of a staged chunk, by the bank's own bit path, after the port accesses of its cycle (R252, R334); none in a bank
that has been lost (R156). -/
def State.setArrival (s : State) (mill : Nat) (x : Staged) : State :=
  match x.chunk with
  | some (cmd, i, arr) =>
    let s := if (s.mill mill).isDry arr then s
      else (s.pondWrite mill (arr + i / 8) 1 (s.pondRead mill (arr + i / 8) 1 ||| 2 ^ (i % 8))).chkTest mill arr
    s.post s.cycle 7 0 .copyComplete [cmd, mill, i]
  | none => s

/-- The staged operations in commit order. -/
def insertStaged (x : Staged) : List Staged → List Staged
  | [] => [x]
  | y :: t => if x.order < y.order then x :: y :: t else y :: insertStaged x t

/-- BLOCK_COMMIT: the staged words of a turn take effect at the end of its phase 7: port X by ascending core, then port Y
by ascending lane (R151); then the arrival bits are set. -/
def execBlockCommit (s : State) : Result :=
  let mill := s.arg.headD 0
  let l := (s.mill mill).staged.foldl (fun l x => insertStaged x l) []
  let s := s.updMill mill (fun m => { m with staged := [] })
  .next (l.foldl (fun s x => s.setArrival mill x) (l.foldl (fun s x => s.commitOne mill x) s))

/-! Crew accesses at the network port (R145, R276). -/

/-- Whether an earlier crew access of the same thread to one of the words, on the same way, has not been handed on at a port: it goes
first (R278). One on another lane has been performed before the later one left its core. DEDUCED, unsafe: log 123. -/
def State.crewBefore (s : State) (p : Packet) (a : Access) (stop : Nat) : Bool :=
  s.net.packets.any (fun kp => match kp.2.payload with
    | .crewReq b st => st == stop && kp.2.die == p.die && kp.2.src == p.src && (kp.2.lane == p.lane || p.src == p.dst)
        && b.uid < a.uid && s.follow b.slot == s.follow a.slot && b.places.any (fun l => a.places.contains l)
    | _ => false)

/-- CREW_ACCESS_ARRIVE: at the cycle after its tail, the port hands the words of an access to lane 6 of the live cluster
whose next turn facing the group begins first; it waits at the port for room, for the scoreboard, and for the thread's earlier
accesses to its words (R278). DEDUCED, unsafe: log 123. -/
def execCrewAccessArrive (s : State) : Result :=
  let u := s.arg.headD 0
  let p := s.packet u
  match p.payload with
  | .crewReq a0 stop =>
    let off := a0.addr % 2 ^ 21
    let a := { a0 with addr := off, elems := a0.elems.map (fun e => { e with addr := e.addr % 2 ^ 21 }) }
    let mill := s.millAt p.die stop
    let m := s.mill mill
    let live := (List.range 4).filter (fun c => !(s.cluster (mill * 4 + c)).retired)
    let best := live.foldl (fun (b : Option (Nat × Nat)) c =>
      let t := m.faces c (offGroup off) s.cycle
      match b with
      | some (t0, _) => if t < t0 then some (t, c) else b
      | none => some (t, c)) none
    let again := s.post (s.cycle + 1) 3 550 .crewAccessArrive [u]
    if s.crewBefore p a0 stop then .next again
    else (match best with
    | none => .next again
    | some (_, c) =>
      let port := portY (mill * 4 + c) 6
      let behind := s.ports.any (fun kp => kp.1 / 64 == mill && kp.1 != port && kp.2.any (fun q =>
        q.packet.isSome && s.follow q.acc.slot == s.follow a.slot
          && (if q.block then q.acc.places else [q.off / 64]).any (fun w => a.places.contains w)))
      if 16 < (s.port port).length + a.words.length || s.parksAccess mill a || behind then .next again
      else .next ((s.dropPacket u).enqueuePond a port s.cycle (some u)))
  | _ => .next s

/-- CREW_RESPONSE: the tail of a response has reached the issuing mill's port; the entry lands 2 cycles later (R277). -/
def execCrewResponse (s : State) : Result := .next (s.landAt (s.arg.headD 0) (s.arg.getD 1 0) (s.cycle + 2))

/-! Retirement (R156, R158). -/

/-- The waiters of a bank's words land with BANKRET (R156). -/
def State.withdrawWaits (s : State) (mill bank : Nat) : State :=
  let m := s.mill mill
  let hit := fun (w : Nat) => 8 * offGroup (8 * w) + offBank (8 * w) == bank
  let fe := (m.feWait.filter (fun kw => hit kw.1)).flatMap (fun kw => kw.2.map (fun v => (kw.1, v)))
  let chk := m.chkWait.filter (fun kw => hit kw.1)
  let s := s.updMill mill (fun m => { m with
    feWait := m.feWait.filter (fun kw => !hit kw.1), chkWait := m.chkWait.filter (fun kw => !hit kw.1) })
  (fe ++ chk).foldl (fun s kv => s.faultEntry kv.2.slot kv.2.uid s.cycle fcBankret (8 * kv.1)) s

/-- BANK_RETIRE_DECIDED: from now on an access to the bank raises BANKRET at issue, in every mill of the crew; the group
enters seven-bank mode at the first round boundary at least 64 cycles later (R156). -/
def execBankRetireDecided (s : State) : Result :=
  let mill := s.arg.headD 0
  let bank := s.arg.getD 1 0
  let bit := BitVec.ofNat 32 (2 ^ bank)
  let m := s.mill mill
  let s := s.updMill mill (fun m => { m with bankRet := m.bankRet ||| bit })
  let mills := s.mills.foldl (fun t km =>
    if km.1 / 64 == mill / 64 && km.2.launch == m.launch && km.2.crew == m.crew && m.launch.isSome then
      tput {} t km.1 { km.2 with holes := km.2.holes.mapIdx (fun i h => if i == m.crewIx then h ||| bit else h) }
    else t) s.mills
  .next (({ s with mills := mills }).post (nextAt (s.cycle + 64) 32 0) 0 5 .sevenBankEntry [mill, bank])

/-- SEVEN_BANK_ENTRY: every pairing that meets the bank is a dry slot from now on; unserved requests and waiters for its
words are withdrawn, and its contents are lost and reported (R156, R157). DEDUCED, unsafe: log 103. -/
def execSevenBankEntry (s : State) : Result :=
  let mill := s.arg.headD 0
  let bank := s.arg.getD 1 0
  let hit := fun (off : Nat) => 8 * offGroup off + offBank off == bank
  let s := s.updMill mill (fun m => { m with bankDry := m.bankDry ||| BitVec.ofNat 32 (2 ^ bank) })
  let gone := fun (q : PondReq) => if q.block then q.acc.kind == .atomic 11 && offGroup q.off == bank / 8 && bank % 8 < 5 else hit q.off
  let out := s.ports.flatMap (fun kp => if kp.1 / 64 == mill then kp.2.filter gone else [])
  let s := out.foldl (fun s q =>
    (s.setPort q.port ((s.port q.port).filter (fun o => o.id != q.id))).withdraw mill q) s
  let s := s.withdrawWaits mill bank
  let s := { s with pond := s.pond.filter (fun kb => !(kb.1 / 2 ^ 21 == mill && hit (kb.1 % 2 ^ 21))) }
  .next (s.post s.cycle 3 900 .machineCheck [3, mill / 64, mill % 64 * 32 + bank])

/-- CLUSTER_RETIRE: at a round boundary a retired cluster leaves the wheel (R158); what its ports queue stays queued. DESIGN CHOICE,
unsafe: log 132. -/
def execClusterRetire (s : State) : Result :=
  let c := s.arg.headD 0
  if s.cycle % 32 == 0 then .next ((s.updCluster c (fun x => { x with retired := true })).post s.cycle 3 931 .enumTableUpdate [4, c / 256])
  else .next (s.post (nextAt s.cycle 32 0) 0 6 .clusterRetire [c])

/-- CAM_SWITCH: the staged tables become active at the round boundary, and PEND returns to 0; queued requests wait for
their meetings under the new tables (R159, R160). -/
def execCamSwitch (s : State) : Result :=
  let mill := s.arg.headD 0
  let s := s.updMill mill (fun m => { m with camInAct := m.camInStg, camOutAct := m.camOutStg, camPend := false })
  let qs := s.ports.flatMap (fun kp => if kp.1 / 64 == mill then kp.2.filter (fun q => q.turn.isNone) else [])
  .next (qs.foldl (fun s q => s.postPond q s.cycle) s)

end Sys2Proof.Machine
end

