-- ==== Sys2Proof/Machine/PondInstr.lean ====
section
/-! DEFINITION. The pond instructions (R163 to R170), `recv.fe` and `recv.chk` of the pond (R314), and the additions and
roundings of pond accumulators (R222 to R224). -/

namespace Sys2Proof.Machine

open Sys2Proof

/-- The pond space (R98). -/
def pondLim : Nat := 2 ^ 21

/-- Queue entries that accesses held inside the core will take; they count as taken (R147). DESIGN CHOICE, unsafe: log 119. -/
def State.heldPond (s : State) (g : Nat) : Nat :=
  (List.range 16).foldl (fun n i => n + ((s.slot (coreOf g * 16 + i)).held.filter (fun h => h.acc.space == .pond)).foldl
    (fun n h => n + h.acc.words.length) 0) 0

/-- The checks of R163 on a pond access of the running slot, in order: SPACE, ALIGN, BANKRET where `banks` names the
bytes that count, then room in the pond queue and the scoreboard, which park; then it goes on. An entry that a service or a
turn frees at a cycle is free for an issue on the next (R147). DESIGN CHOICE, unsafe: log 119. -/
def pondIssue (off : Int) (n al banks : Nat) (mk : Nat → Access) (go : Access → State → State) (s : State) : State :=
  match spanFault pondLim off n al with
  | some f => s.raise f.1 f.2
  | none =>
    let g := s.cur
    let m := s.mill (millOf g)
    let o := off.toNat
    let a := { mk o with space := .pond, slot := g }
    if (List.range ((o + banks + 63) / 64 - o / 64)).any (fun i => m.isRetired ((o / 64 + i) * 64)) then s.raise fcBankret o
    else if 16 < (s.port (portX g)).length + s.heldPond g + a.words.length then s.park g .pondQueue
    else if s.parksAccess (millOf g) a then s.park g .scoreboard
    else go a s

def loadOf (ws : List RegW) (left ext : Nat) (a : Access) (s : State) : State := s.issueLoad a ws left ext
def storeOf (a : Access) (s : State) : State := s.issueStore a

/-- ldp, stp, vldp, vstp (R164). -/
def ldpBody (x : Args) (s : State) : State :=
  let n := tyBits x.ty / 8
  pondIssue (s.baseOff x) n n n (fun o => { kind := .load, addr := o, elems := [⟨o, n, 0⟩], ty := x.ty }) (loadOf (regS x) 1 x.ty) s

def stpBody (x : Args) (s : State) : State :=
  let n := tyBits x.ty / 8
  pondIssue (s.baseOff x) n n n (fun o => { kind := .store, addr := o, elems := [⟨o, n, 0⟩], data := (s.opVal x.a).setWidth 4096, ty := x.ty })
    storeOf s

def vldpBody (x : Args) (s : State) : State :=
  pondIssue (s.baseOff x) 256 (tyBits x.ty / 8) 256 (vecAccess .load .pond x s)
    (fun a s => s.issueLoad a [⟨.v, x.a.idx, 0, vecMask (tyBits x.ty) (s.maskM x) x.z⟩] a.words.length 0) s

def vstpBody (x : Args) (s : State) : State :=
  pondIssue (s.baseOff x) 256 (tyBits x.ty / 8) 256 (vecAccess .store .pond x s) storeOf s

def execLdp (x : Args) (s : State) : Result := buffered 0x70 0 x s (ldpBody x)
def execStp (x : Args) (s : State) : Result := plain 0x70 1 x s (stpBody x)
def execVldp (x : Args) (s : State) : Result := buffered 0x70 2 x s (vldpBody x)
def execVstp (x : Args) (s : State) : Result := plain 0x70 3 x s (vstpBody x)

/-- The bits of register v(A + h) that a block load writes: its four words under the stripe mask, and with Z the others
too, as 0 (R165, R166). -/
def stripeMask (k : Word) (z : Bool) (h : Nat) : VReg :=
  BitVec.ofNat 2048 ((List.range 4).foldl (fun x i =>
    if z || k.getLsbD (4 * h + i) then x + (2 ^ 512 - 1) * 2 ^ (512 * i) else x) 0)

/-- blkld (R166): the pair and the status share one entry. -/
def blkldBody (x : Args) (s : State) : State :=
  let k := s.maskM x
  pondIssue (s.opVal x.b).toNat 512 512 0 (fun o => { kind := .blkLoad, addr := o, span := 512, mask := k })
    (loadOf [⟨.v, x.a.idx, 0, stripeMask k x.z 0⟩, ⟨.v, x.a.idx + 1, 0, stripeMask k x.z 1⟩, ⟨.s, x.c.idx, 0, BitVec.allOnes 2048⟩] 1 0) s

/-- blkst (R166). -/
def blkstBody (x : Args) (s : State) : State :=
  pondIssue (s.opVal x.b).toNat 512 512 0 (fun o => { kind := .blkStore, addr := o, span := 512, mask := s.maskM x, data := s.me.vpair x.a.idx })
    storeOf s

def execBlkld (x : Args) (s : State) : Result := buffered 0x71 0 x s (blkldBody x)
def execBlkst (x : Args) (s : State) : Result := plain 0x71 1 x s (blkstBody x)

/-- The access of a pond full/empty word (R167). -/
def feWord (kind : AccKind) (data : Word) (o : Nat) : Access :=
  { kind := kind, addr := o, elems := [⟨o, 8, 0⟩], data := data.setWidth 4096, ty := 8 }

def fillBody (x : Args) (s : State) : State := pondIssue (s.baseOff x) 8 8 8 (feWord .fill (s.opVal x.a)) storeOf s
def emptyBody (x : Args) (s : State) : State := pondIssue (s.baseOff x) 8 8 8 (feWord .empty 0) storeOf s
def peekBody (x : Args) (s : State) : State := pondIssue (s.baseOff x) 8 8 8 (feWord .peek 0) (loadOf (regS x) 1 8) s

def execFill (x : Args) (s : State) : Result := plain 0x72 0 x s (fillBody x)
def execEmpty (x : Args) (s : State) : Result := plain 0x72 1 x s (emptyBody x)
def execPeek (x : Args) (s : State) : Result := buffered 0x72 2 x s (peekBody x)

/-- A `recv` issues: it takes an entry of its form, and its access leaves (R305). -/
def recvOf (form : EForm) (ws : List RegW) (a : Access) (s : State) : State :=
  let (u, s) := s.fresh
  let a := { a with uid := u }
  ((s.takeEntry { uid := u, form := form, writes := ws, acc := some a }).issueAccess a).advance

/-- recv.fe (R153, R314). -/
def recvFeBody (x : Args) (s : State) : State :=
  pondIssue (s.baseOff x) 8 8 8 (feWord .take 0) (recvOf .fe (regS x)) s

/-- recv.chk (R314): Reg(B) is the offset of the arrival word, Reg(C) the mask. -/
def recvChkBody (x : Args) (s : State) : State :=
  pondIssue (s.opVal x.b).toNat 8 8 8 (feWord .chk (s.opVal x.c)) (recvOf (.chk (s.opVal x.c)) (regS x)) s

def execRecvFe (x : Args) (s : State) : Result := buffered 0x91 1 x s (recvFeBody x)
def execRecvChk (x : Args) (s : State) : Result := buffered 0x91 3 x s (recvChkBody x)

/-- amop (R168 to R170): a word request, or for `.xadd64` a block operation. -/
def amopBody (form : Nat) (x : Args) (s : State) : State :=
  pondIssue (s.opVal x.b).toNat (atomicSize form x.ty) (atomicAlign form x.ty) (atomicSize form x.ty)
    (fun o => { atomicAccess .pond form x s o with span := if form == 11 then 512 else 0 })
    (loadOf (regS x) 1 (atomicExt form x.ty)) s

def execAmopAdd (x : Args) (s : State) : Result := buffered 0x81 0 x s (amopBody 0 x)
def execAmopAnd (x : Args) (s : State) : Result := buffered 0x81 1 x s (amopBody 1 x)
def execAmopOr (x : Args) (s : State) : Result := buffered 0x81 2 x s (amopBody 2 x)
def execAmopXor (x : Args) (s : State) : Result := buffered 0x81 3 x s (amopBody 3 x)
def execAmopMin (x : Args) (s : State) : Result := buffered 0x81 4 x s (amopBody 4 x)
def execAmopMax (x : Args) (s : State) : Result := buffered 0x81 5 x s (amopBody 5 x)
def execAmopMinn (x : Args) (s : State) : Result := buffered 0x81 6 x s (amopBody 6 x)
def execAmopMaxn (x : Args) (s : State) : Result := buffered 0x81 7 x s (amopBody 7 x)
def execAmopSwap (x : Args) (s : State) : Result := buffered 0x81 8 x s (amopBody 8 x)
def execAmopCas (x : Args) (s : State) : Result := buffered 0x81 9 x s (amopBody 9 x)
def execAmopXadd32 (x : Args) (s : State) : Result := buffered 0x81 10 x s (amopBody 10 x)
def execAmopXadd64 (x : Args) (s : State) : Result := buffered 0x81 11 x s (amopBody 11 x)

/-! Accumulators in the pond. Each enters the coprocessor ring (R372). -/

/-- xacc (R222). -/
def xaccBody (x : Args) (s : State) : State :=
  pondIssue (s.opVal x.b).toNat 4096 512 4096
    (fun o => { kind := .xacc, addr := o, span := 4096, mask := s.maskM x, data := (s.me.vreg x.a.idx).setWidth 4096 })
    (fun a s => let (q, s) := s.enterRing 0x51 0; s.issueStore { a with seq := some q }) s

/-- The set form of `xrnd` (R223): 8 block loads; an inactive element keeps its value, or is 0 with Z. -/
def xrndSet (x : Args) (s : State) : State :=
  pondIssue (s.opVal x.b).toNat 4096 512 4096
    (fun o => { kind := .xrnd, addr := o, span := 4096, mask := s.maskM x, ty := x.ty, rm := x.rm })
    (fun a s =>
      let (q, s) := s.enterRing 0x51 1
      let (u, s) := s.fresh
      let a := { a with uid := u, seq := some q }
      ((s.takeEntry { uid := u, writes := [⟨.v, x.a.idx, 0, vecMask (tyBits x.ty) (s.maskM x) x.z⟩], left := 8, acc := some a, seq := some q }).issueAccess a).advance) s

/-- The scalar form of `xrnd` (R223): one XA64. -/
def xrndScalar (x : Args) (s : State) : State :=
  pondIssue (s.opVal x.b).toNat 320 512 320
    (fun o => { kind := .xrnd, addr := o, span := 512, ty := 9, rm := x.rm })
    (fun a s =>
      let (q, s) := s.enterRing 0x51 1
      let (u, s) := s.fresh
      let a := { a with uid := u, seq := some q }
      ((s.takeEntry { uid := u, writes := regS x, acc := some a, seq := some q }).issueAccess a).advance) s

/-- xclr (R224). -/
def xclrBody (x : Args) (s : State) : State :=
  if x.ty == 9 then
    pondIssue (s.opVal x.b).toNat 320 512 320 (fun o => { kind := .xclr, addr := o, span := 512, ty := 9 })
      (fun a s => let (q, s) := s.enterRing 0x51 2; s.issueStore { a with seq := some q }) s
  else
    pondIssue (s.opVal x.b).toNat 4096 512 4096 (fun o => { kind := .xclr, addr := o, span := 4096, mask := s.opVal x.a, ty := x.ty })
      (fun a s => let (q, s) := s.enterRing 0x51 2; s.issueStore { a with seq := some q }) s

def execXacc (x : Args) (s : State) : Result := plain 0x51 0 x s (xaccBody x)
def execXrnd (x : Args) (s : State) : Result :=
  buffered 0x51 1 x s (if x.ty == 9 then xrndScalar x else xrndSet x)
def execXclr (x : Args) (s : State) : Result := plain 0x51 2 x s (xclrBody x)

end Sys2Proof.Machine
end

