-- ==== Sys2Proof/Machine/Crew.lean ====
section
/-! DEFINITION. Crew accesses and crew atomics (R319, R320). -/

namespace Sys2Proof.Machine

open Sys2Proof

/-- CREWN of the running thread. -/
def State.crewN (s : State) : Nat := fieldOf (s.launchOfSlot s.cur).record 196 192

/-- The checks of a crew access of `n` bytes, in order: SPACE, also where it runs past the end of the member's pond;
CREWOUT; ALIGN; BANKRET against the crew's hole mask (R319). It never parks. -/
def crewIssue (addr : Int) (n al : Nat) (mk : Nat → Access) (go : Access → State → State) (s : State) : State :=
  let o := addr.toNat
  if addr < 0 || (2 ^ 25 : Int) ≤ addr || 2 ^ 21 < o % 2 ^ 21 + n then s.raise fcSpace (ofSigned 64 addr)
  else
    let k := bits o 24 21
    if s.crewN ≤ k then s.raise fcCrewout o
    else if o % al != 0 then s.raise fcAlign o
    else
      let m := s.mill (millOf s.cur)
      let hole := (m.holes[k]?).getD 0
      let off := o % 2 ^ 21
      if (List.range ((off + n + 63) / 64 - off / 64)).any (fun i =>
          let w := (off / 64 + i) * 64
          hole.getLsbD (8 * offGroup w + offBank w)) then s.raise fcBankret o
      else go { mk o with space := .crew, slot := s.cur } s

def ldcBody (x : Args) (s : State) : State :=
  let n := tyBits x.ty / 8
  crewIssue (s.baseOff x) n n (fun o => { kind := .load, addr := o, elems := [⟨o, n, 0⟩], ty := x.ty }) (loadOf (regS x) 1 x.ty) s

def stcBody (x : Args) (s : State) : State :=
  let n := tyBits x.ty / 8
  crewIssue (s.baseOff x) n n (fun o => { kind := .store, addr := o, elems := [⟨o, n, 0⟩], data := (s.opVal x.a).setWidth 4096, ty := x.ty })
    storeOf s

def vldcBody (x : Args) (s : State) : State :=
  crewIssue (s.baseOff x) 256 (tyBits x.ty / 8) (vecAccess .load .crew x s)
    (fun a s => s.issueLoad a [⟨.v, x.a.idx, 0, vecMask (tyBits x.ty) (s.maskM x) x.z⟩] a.words.length 0) s

def vstcBody (x : Args) (s : State) : State :=
  crewIssue (s.baseOff x) 256 (tyBits x.ty / 8) (vecAccess .store .crew x s) storeOf s

def execLdc (x : Args) (s : State) : Result := buffered 0x74 0 x s (ldcBody x)
def execStc (x : Args) (s : State) : Result := plain 0x74 1 x s (stcBody x)
def execVldc (x : Args) (s : State) : Result := buffered 0x74 2 x s (vldcBody x)
def execVstc (x : Args) (s : State) : Result := plain 0x74 3 x s (vstcBody x)

/-- amoc (R320). -/
def amocBody (form : Nat) (x : Args) (s : State) : State :=
  crewIssue (s.opVal x.b).toNat (atomicSize form x.ty) (atomicAlign form x.ty)
    (fun o => { atomicAccess .crew form x s o with span := if form == 11 then 512 else 0 })
    (loadOf (regS x) 1 (atomicExt form x.ty)) s

def execAmocAdd (x : Args) (s : State) : Result := buffered 0x82 0 x s (amocBody 0 x)
def execAmocAnd (x : Args) (s : State) : Result := buffered 0x82 1 x s (amocBody 1 x)
def execAmocOr (x : Args) (s : State) : Result := buffered 0x82 2 x s (amocBody 2 x)
def execAmocXor (x : Args) (s : State) : Result := buffered 0x82 3 x s (amocBody 3 x)
def execAmocMin (x : Args) (s : State) : Result := buffered 0x82 4 x s (amocBody 4 x)
def execAmocMax (x : Args) (s : State) : Result := buffered 0x82 5 x s (amocBody 5 x)
def execAmocMinn (x : Args) (s : State) : Result := buffered 0x82 6 x s (amocBody 6 x)
def execAmocMaxn (x : Args) (s : State) : Result := buffered 0x82 7 x s (amocBody 7 x)
def execAmocSwap (x : Args) (s : State) : Result := buffered 0x82 8 x s (amocBody 8 x)
def execAmocCas (x : Args) (s : State) : Result := buffered 0x82 9 x s (amocBody 9 x)
def execAmocXadd32 (x : Args) (s : State) : Result := buffered 0x82 10 x s (amocBody 10 x)
def execAmocXadd64 (x : Args) (s : State) : Result := buffered 0x82 11 x s (amocBody 11 x)

end Sys2Proof.Machine
end

