-- ==== Sys2Proof/Machine/Message.lean ====
section
/-! DEFINITION. Mailboxes and messages (R280 to R284, R311 to R313), the binding table, releases and acquires (R307 to
R310), and the global full/empty words that carry them (R306, R309, R310). -/

namespace Sys2Proof.Machine

open Sys2Proof

/-! The binding table (R307, R308). -/

/-- The physical address and attribute of a byte of a context, over the tables as they stand. -/
def State.transNow (s : State) (ctx va : Nat) : Option (Nat × Nat) :=
  match s.walkNow ctx va with
  | .leaf t => some (t.pa va, t.attr va)
  | _ => none

/-- The address of a launch's binding table. -/
def Launch.bindBase (l : Launch) : Nat := fieldOf l.record 376 320

/-- A page as a data access of a cluster translates it: the TLB's entry, or that of its walker's cache, or what a walk of the
tables as they stand finds (R102, R105, R308). -/
def State.pageNow (s : State) (cluster ctx va : Nat) : WalkStep :=
  match findTrans (s.cluster cluster).tlb ctx va with
  | some t => .leaf t
  | none => match findTrans (s.walker (cluster / 256) (walkerOf (va / 65536))).cache ctx va with
    | some t => .leaf t
    | none => s.walkNow ctx va

/-- The translation of a byte of a binding table for a data access of a cluster (R308), known at issue, since `bind` and the
reads of a release take effect there (R307); a write needs W. DEDUCED, unsafe: log 27. -/
def State.bindTrans (s : State) (cluster ctx va : Nat) (write : Bool) : Trans ⊕ Nat :=
  match s.pageNow cluster ctx va with
  | .leaf t => if write && !atW t.leaf.toNat then .inr fcPerm else .inl t
  | .fault c => .inr c
  | .next _ => .inr fcPage

/-- What the use of a launch's binding table does to the translations of a cluster: the TLB's entry of a page becomes the latest
used, and a page that the TLB misses is asked of its walker, whose answer fills the TLB (R102, R105, R308). A page that no walk
finds is asked of none. DEDUCED, unsafe: log 27. -/
def State.bindWalk (s : State) (cluster : Nat) (l : Launch) : State :=
  ([l.bindBase / 65536, (l.bindBase + 8191) / 65536].eraseDups).foldl (fun (s : State) (b : Nat) =>
    match s.tlb cluster l.ctx (65536 * b) with
    | (some _, s) => s
    | (none, s) => match s.pageNow cluster l.ctx (65536 * b) with
      | .leaf _ => s.missTlb cluster l.ctx (65536 * b) .table
      | _ => s) s

/-- The same for the table of the running thread's launch. -/
def State.useBinds (s : State) : State := s.bindWalk (clusterOf s.cur) (s.launchOfSlot s.cur)

/-- The fault that the table of a launch meets, if any: its code and the address. -/
def State.bindFault (s : State) (l : Launch) (write : Bool) : Option (Nat × Nat) :=
  [l.bindBase, l.bindBase + 8191].findSome? (fun va => match s.bindTrans (clusterOf s.cur) l.ctx va write with
    | .inl _ => none
    | .inr c => some (c, va))

/-- Entry `i` of a launch's binding table, as a data access of the running thread's cluster reads it; 0, no entry, where its page
fails (R309). DEDUCED, unsafe: log 27. -/
def State.bindEntry (s : State) (l : Launch) (i : Nat) : Nat :=
  let va := l.bindBase + 32 * i
  match s.bindTrans (clusterOf s.cur) l.ctx va false with
  | .inl t => s.llcBytes (t.pa va) (t.attr va) 32
  | .inr _ => 0

/-- The valid entries of a launch's table, in table order. -/
def State.binds (s : State) (l : Launch) : List (Nat × Nat) :=
  ((List.range 256).map (fun i => (i, s.bindEntry l i))).filter (fun p => p.2.testBit 255)

def bObj (e : Nat) : Nat := bits e 63 0
def bStart (e : Nat) : Nat := bits e 127 64
def bLen (e : Nat) : Nat := bits e 191 128
def bScope (e : Nat) : Nat := bits e 194 192
/-- Whether an entry's object is a message tag, for a mailbox or any. -/
def bTag (e box : Nat) : Bool := e.testBit 63 && (bits e 39 16 == box || bits e 39 16 == 0xFFFFFF)

/-- The ranges of entries, and those of scope PKG or POD.
The range of an entry of any other scope is walked in the L1 (R309).
DESIGN CHOICE, unsafe: log 152. -/
def rangesOf (es : List Nat) : List (Nat × Nat) × List (Nat × Nat) :=
  (es.map (fun e => (bStart e, bLen e)), (es.filter (fun e => 6 ≤ bScope e)).map (fun e => (bStart e, bLen e)))

/-- The entries whose object is a word (R309). -/
def State.bindsOfWord (s : State) (l : Launch) (va : Nat) : List Nat :=
  ((s.binds l).map (·.2)).filter (fun e => bObj e == va)

/-- Writes an entry of the table. DEDUCED, unsafe: log 27. -/
def State.setBind (s : State) (l : Launch) (i e : Nat) : State :=
  let va := l.bindBase + 32 * i
  match s.bindTrans (clusterOf s.cur) l.ctx va true with
  | .inl t => s.llcPoke (t.pa va) (t.attr va) 32 e
  | .inr _ => s

/-- A `bind` or `unbind` whose table the part cannot reach leaves a fault record: PAGE or PERM of a data access is reported at the
marker (R308, R369), which Reg(A) waits for. DEDUCED, unsafe: log 27. -/
def State.bindRecord (s : State) (a : Access) (ws : List RegW) (f : Nat × Nat) : State :=
  s.updSlot a.slot (fun y => { y with
    rb := insertEntry { uid := a.uid, ix := a.ix, isRec := true, landed := true, writes := ws, fault := some f, acc := some a } y.rb })

/-- The 256 bits of a valid entry (R308). -/
def bindBits (obj start len scope : Nat) : Nat := obj + start * 2 ^ 64 + len * 2 ^ 128 + scope * 2 ^ 192 + 2 ^ 255

/-- The object, start and length of `bind` and `unbind`, and the checks on them in order (R307); then the table's pages are
translated as for a data access that writes, whose PAGE or PERM waits for a marker. -/
def bindCheck (op : Nat) (x : Args) (f : Nat → Nat → Nat → Nat → State → State) (s : State) : State :=
  let obj := (s.grp x.b 0).toNat
  let start := (s.grp x.b 1).toNat
  let len := (s.grp x.b 2).toNat
  let scope := x.c.immInt.toNat
  let reserved := if obj.testBit 63 then bits obj 62 40 != 0 else bits obj 62 57 != 0
  if reserved || scope < 2 || 7 < scope then s.raise fcIllop (illopDetail (encWord 0x92 op x))
  else if start % 64 != 0 || len % 64 != 0 || len == 0 || 2 ^ 57 < start + len then s.raise fcSpace start
  else match s.bindFault (s.launchOfSlot s.cur) true with
    | some e =>
      let (u, s) := s.fresh
      let a : Access := { kind := .bind op, slot := s.cur, uid := u, ix := s.me.pc.toNat, addr := e.2, ctx := s.ctxOfSlot s.cur, thread := s.me.thread
                          data := BitVec.ofNat 4096 (bindBits obj start len scope) }
      (s.bindRecord a (regS x) e).advance.useBinds
    | none => f obj start len scope s

/-- The table of the running thread's launch takes an entry in its lowest free slot: OK, or FULL where it has none (R307). -/
def State.bindIn (s : State) (obj start len scope : Nat) : Word × State :=
  let l := s.launchOfSlot s.cur
  match (List.range 256).find? (fun i => !(s.bindEntry l i).testBit 255) with
  | some i => (0, s.setBind l i (bindBits obj start len scope))
  | none => (2, s)

/-- Every entry of that table that is equal in all four values is removed: how many there were (R307). -/
def State.bindOut (s : State) (obj start len scope : Nat) : Word × State :=
  let l := s.launchOfSlot s.cur
  let hit := (s.binds l).filter (fun p => bObj p.2 == obj && bStart p.2 == start && bLen p.2 == len && bScope p.2 == scope)
  (BitVec.ofNat 64 hit.length, hit.foldl (fun s p => s.setBind l p.1 0) s)

/-- bind: the lowest free slot of the table, or FULL (R307). DEDUCED, unsafe: log 27. -/
def bindBody (x : Args) (s : State) : State :=
  bindCheck 0 x (fun obj start len scope s =>
    let r := s.bindIn obj start len scope
    (r.2.writeA x r.1).advance.useBinds) s

/-- unbind: every entry equal in all four values is removed (R307). -/
def unbindBody (x : Args) (s : State) : State :=
  bindCheck 1 x (fun obj start len scope s =>
    let r := s.bindOut obj start len scope
    (r.2.writeA x r.1).advance.useBinds) s

/-- A `bind` or `unbind` whose table could not be reached acts again: its result waits for the next marker, or its page fails
again (R308, R383). DEDUCED, unsafe: log 27. -/
def State.rebind (s : State) (op : Nat) (e : Entry) (a : Access) : State :=
  let t := { s with cur := a.slot }
  let (obj, start, len, scope) := (bits a.data.toNat 63 0, bits a.data.toNat 127 64, bits a.data.toNat 191 128, bits a.data.toNat 194 192)
  let t := t.useBinds
  let t := match t.bindFault (t.launchOfSlot a.slot) true with
    | some f => t.updEntry a.slot e.uid (fun y => { y with fault := some f, acc := some { a with addr := f.2 } })
    | none =>
      let r : Word × State := if op == 0 then t.bindIn obj start len scope else t.bindOut obj start len scope
      r.2.updEntry a.slot e.uid (fun y => { y with fault := none, writes := y.writes.map (fun (w : RegW) => { w with val := r.1.setWidth 2048 }) })
  { t with cur := s.cur }

def execBind (x : Args) (s : State) : Result := plain 0x92 0 x s (bindBody x)
def execUnbind (x : Args) (s : State) : Result := plain 0x92 1 x s (unbindBody x)

/-! Global full/empty words that release and acquire (R306, R309, R310). -/

/-- A release of the running core by entries; `j` says what waits for it. -/
def State.releaseJoin (s : State) (es : List Nat) (j : Join) : Join :=
  let r := rangesOf es
  { j with ctx := s.ctxOfSlot s.cur, core := coreOf s.cur, ranges := r.1, wide := r.2 }

/-- A release of the running core: its write-backs start. -/
def State.release (s : State) (es : List Nat) (j : Join) : State := s.startJoin (s.releaseJoin es j)

/-- fill.g: a release of the entries whose object is its word; it leaves once their write-backs are performed. The release itself
begins once the fences before it are satisfied (R316, R337). -/
def fillGBody (x : Args) (s : State) : State :=
  match addrFault globLim (s.baseOff x) 8 8 with
  | some f => s.raise f.1 f.2
  | none =>
    let va := (s.baseOff x).toNat
    let es := s.bindsOfWord (s.launchOfSlot s.cur) va
    let (u, s) := s.fresh
    let a := { feAccess .fill x s va with uid := u, slot := s.cur, ix := s.me.pc.toNat }
    let rel := if es.isEmpty then none else some (s.releaseJoin es {})
    (s.issueAccess a rel).advance.useBinds

/-- recv.fe.g: an acquire of the entries whose object is its word, before it lands. -/
def recvFeGBody (x : Args) (s : State) : State :=
  match addrFault globLim (s.baseOff x) 8 8 with
  | some f => s.raise f.1 f.2
  | none =>
    let va := (s.baseOff x).toNat
    let r := rangesOf (s.bindsOfWord (s.launchOfSlot s.cur) va)
    let (u, s) := s.fresh
    let a := { feAccess .take x s va with uid := u, slot := s.cur }
    ((s.takeEntry { uid := u, form := .feG, writes := regS x, ext := 8, acc := some a, acq := r.1, acqWide := r.2 }).issueAccess a).advance.useBinds

def execFillG (x : Args) (s : State) : Result := plain 0x72 0 x s (fillGBody x)
def execRecvFeG (x : Args) (s : State) : Result := buffered 0x91 1 x s (recvFeGBody x)

/-! Mailboxes (R280, R283). -/

/-- Mailbox entries of a message (R280). -/
def Msg.entries (m : Msg) : Nat := if m.long then 2 else 1

/-- Entries free for a delivery now: those freed by a claim of this cycle are not yet (R283). -/
def State.mbFree (s : State) (g : Nat) : Nat :=
  let x := s.slot g
  8 - x.mbox.foldl (fun n m => n + m.entries) 0 - (if x.freed.1 == s.cycle then x.freed.2 else 0)

/-- Whether a filter of R312 matches a message. -/
def filterHits (f : Option Nat) (m : Msg) : Bool :=
  match f with
  | none => true
  | some f => (!f.testBit 21 || bits f 20 17 == m.kind) && (!f.testBit 16 || f % 65536 == m.tag)

/-- Whether a waiting entry takes a message (R313, R314). -/
def Entry.takes (e : Entry) (m : Msg) : Bool :=
  match e.form with
  | .mb f => filterHits f m
  | .job id => m.kind == 2 && m.tag == id % 65536 && bits m.pay.toNat 20 0 == id % 2 ^ 21
  | _ => false

/-- The number of the job whose completion a message is: the mill and the low 21 bits of the job id (R240). -/
def jobOf (g : Nat) (m : Msg) : Option Nat :=
  if m.kind == 2 && m.tag == bits m.pay.toNat 15 0 then some (millOf g * 2 ^ 21 + bits m.pay.toNat 20 0) else none

/-- What the registers of a `recv.mb` receive: the header, and the payload in the lanes it covers (R313). -/
def mbWrites (ws : List RegW) (m : Msg) : List RegW :=
  let n := (m.len + 3) / 4
  ws.map (fun w =>
    if w.cls == .v then { w with val := BitVec.ofNat 2048 (m.pay.toNat % 2 ^ (8 * m.len)), mask := BitVec.ofNat 2048 (2 ^ (32 * n) - 1) }
    else { w with val := m.hdr.setWidth 2048 })

/-- The range that a kind-6 or kind-7 message names (R401): of a kind-7 message, DEST and the chunk's bytes as the release wrote
them. -/
def Msg.namedRange (m : Msg) : List (Nat × Nat) :=
  let p := m.pay.toNat
  if m.kind == 6 then [(bits p 255 192, bits p 191 128)]
  else if m.kind == 7 then [(bits p 191 128, m.span)]
  else []

/-- An entry claims a message at the present cycle: it lands 4 cycles later, after any acquire (R313, R314). -/
def State.claimOne (s : State) (g : Nat) (e : Entry) (m : Msg) : State :=
  let box := (s.slot g).mbox.filter (fun y => y.uid != m.uid)
  let acq := if m.kind == 0 || m.kind == 8 then e.binds.filter (fun b => b.1 == m.tag) else []
  let named := m.namedRange
  let ws := match e.form with
    | .job _ => e.writes.map (fun w => { w with val := BitVec.ofNat 2048 (bits m.pay.toNat 36 32 * 256) })
    | _ => mbWrites e.writes m
  let e' := { e with
    claimed := true, writes := ws, job := jobOf g m
    acq := (match e.form with | .mb _ => acq.map (fun b => (b.2.1, b.2.2.1)) ++ named | _ => [])
    acqWide := (match e.form with | .mb _ => (acq.filter (fun b => 6 ≤ b.2.2.2)).map (fun b => (b.2.1, b.2.2.1)) | _ => []) }
  let s := s.updSlot g (fun x => { x with
    mbox := box
    freed := (s.cycle, m.entries + (if x.freed.1 == s.cycle then x.freed.2 else 0))
    rb := x.rb.map (fun y => if y.uid == e.uid then e' else y) })
  (s.landAt g e.uid (s.cycle + 4)).retryHeld g

/-- Waiting entries claim messages: earlier-issued entries first, each the oldest message it takes (R313); none while the
slot's crew is being vacated (R373). -/
def State.claims (s : State) (g : Nat) : State :=
  if (s.mill (millOf g)).stopping && !s.isFirmware g then s
  else (s.slot g).rb.foldl (fun s e =>
    match e.form with
    | .mb _ | .job _ =>
      if e.claimed || e.landed then s
      else match (s.slot g).mbox.find? e.takes with
        | some m => s.claimOne g e m
        | none => s
    | _ => s) s

/-- The kinds that bounce off a full or empty mailbox; the others are held, or discarded (R282, R283). -/
def bounces (kind : Nat) : Bool := kind == 0 || kind == 8 || kind == 10

/-- A status goes back to the sender of a message: within the mill it lands 2 cycles after the delivery; else it is a
1-flit packet (R284). -/
def State.replyStatus (s : State) (m : Sent) (die stop lane val : Nat) : State :=
  match m.reply with
  | none => (match m.peer with
    -- the status of a peer's or host's message goes back over the fabric, as a class-1 response
    | some (node, tag) => s.offerOut die stop lane 1 s.cycle 0 1 node (respLines tag val []) 0 0
    | none => s)
  | some (g0, uid) =>
    let g := s.follow g0
    if die == dieOf g && stop == s.part.stopOf (millOf g) then
      (s.updEntry g uid (fun e => e.orVal 0 (BitVec.ofNat 2048 val))).landAt g uid (s.cycle + 2)
    else s.offerTo die stop (dieOf g) (s.part.stopOf (millOf g)) lane 1 s.cycle 0 (.status g uid val)

/-- A completion that is discarded counts as received (R242). -/
def State.discard (s : State) (g : Nat) (m : Msg) : State :=
  match jobOf g m with
  | some j => s.endLoan j
  | none => s

/-- A message has entered a mailbox: the entries that wait claim it; in a supervisor slot that awaits its cluster's messages, firmware
takes it in a time the spec leaves open (R28, R371). -/
def State.received (s : State) (g : Nat) (m : Msg) : State :=
  match (s.slot g).st with
  | .parked .firmware =>
    let (n, s) := s.draw
    s.post (s.cycle + 1 + Config.firmwareDelay n) 3 920 .trapForward [g, m.uid]
  | _ => s.claims g

/-- The result of a delivery. -/
inductive Deliv where
  | ok (s : State)
  | bounce (s : State)
  | dropped (s : State)
  | held (s : State)
  /-- the mailbox has taken a message on this cycle already -/
  | later (s : State)

/-- The thread whose slot an id names in a save image, of a slot that forwards to it too. -/
def SaveImage.threadAt (im : SaveImage) (g : Nat) : Option Nat :=
  (im.oldMills.zip im.slots).findSome? (fun mk => if mk.1 == millOf g then (mk.2.lookup (g % 512)).map (·.thread) else none)

/-- The thread that a save holds of a slot id, the last of several. DEDUCED, unsafe: log 68. -/
def State.savedAt (s : State) (g : Nat) : Option Nat := s.saves.reverse.findSome? (fun ki => ki.2.threadAt g)

/-- Messages for a thread that a save holds wait for its restore (R375). -/
def savedKey (thread : Nat) : Nat := 2 ^ 32 + thread
/-- DEDUCED, unsafe: log 68. -/
def State.holdFor (s : State) (thread u : Nat) : State :=
  let l := tget [] s.heldMsgs (savedKey thread)
  if l.contains u then s else { s with heldMsgs := tput [] s.heldMsgs (savedKey thread) (l ++ [u]) }

/-- Deliver (R283): to the slot of a thread, through a migrated thread's forwarding where there is one (R73). A held
kind for a slot whose thread a save holds waits for the restore (R375). DEDUCED, unsafe: log 68. -/
def State.deliverSlot (s : State) (g0 u : Nat) (m0 : Msg) : Deliv :=
  let fwd := (s.slot g0).st == .forwarding || ((s.slot g0).st == .migrating && (s.slot g0).link.isSome)
  let g := s.follow g0
  let m := if fwd then { m0 with hdr := m0.hdr ||| BitVec.ofNat 64 (2 ^ 58) } else m0
  let x := s.slot g
  let waiting := tget [] s.heldMsgs g
  match (if bounces m.kind || (s.sent u).thread == 0 then s.savedAt g0 else none) with
  | some th => if bounces m.kind then .bounce s else .held (s.holdFor th u)
  | none =>
  if !x.st.hasThread then
    if bounces m.kind then .bounce s else .dropped (s.discard g m)
  else if x.lastDeliv == some s.cycle then .later s
  else if bounces m.kind || m.kind == 1 then
    if s.mbFree g < m.entries then .bounce s
    else .ok ((s.setSlot g { x with mbox := x.mbox ++ [m], lastDeliv := some s.cycle }).received g m)
  else if s.mbFree g < m.entries || (waiting.any (· != u) && waiting.head? != some u) then
    if waiting.contains u then .held s else .held { s with heldMsgs := tput [] s.heldMsgs g (waiting ++ [u]) }
  else
    let s := { s with heldMsgs := tput [] s.heldMsgs g (waiting.filter (· != u)) }
    .ok ((s.setSlot g { x with mbox := x.mbox ++ [m], lastDeliv := some s.cycle }).received g m)

/-- The stop and lane where a message is delivered, for its status. -/
def State.destStop (s : State) : Dest → Nat × Nat × Nat
  | .slot g => (dieOf g, s.part.stopOf (millOf g), coreIx g)
  | .dispenser c => (c / 256, s.part.stopOf (c / 4), 0)
  | .dispatcher die _ => (die, 53, 0)
  | .fabric _ _ => (0, 0, 0)
  | .log die => (die, 53, 0)

def State.delSent (s : State) (u : Nat) : State := { s with sents := tdel s.sents u }

/-- Where a message of a launch's end goes when its slot no longer holds the thread (R360), and where a context's host
is: HNODE, HMBOX, FMBOX (R354). -/
def State.hnode (s : State) (ctx : Nat) : Nat := fieldOf (s.context ctx).record 189 178
def State.hmbox (s : State) (ctx : Nat) : Nat := fieldOf (s.context ctx).record 205 190
def State.fmbox (s : State) (ctx : Nat) : Nat := fieldOf (s.context ctx).record 221 206

/-- What has left the package for a host's or a peer's mailbox. -/
def State.hasLeft (s : State) (node box : Nat) (m : Msg) : State := { s with hostOut := s.hostOut ++ [(node, box, m)] }

/-- The die of the unit that sends a message (R281). -/
def Msg.unitDie (m : Msg) : Nat := bits m.hdr.toNat 49 47

/-- A message of a unit leaves a die for a host's mailbox, as a class-2 packet by the die's I/O link (R289, R301); 53 is the stop of
the dispatcher. -/
def State.toHost (s : State) (die node box : Nat) (m : Msg) : State :=
  let (u, s) := s.fresh
  (s.setSent u { msg := m, dest := .fabric node box, stage := 2 }).offerOut die 53 0 m.entries s.cycle 3 2 node (m.fabricLines box u) 2 u

/-- An item for a dispenser from a spawn's message (R317). -/
def spawnItem (x : Sent) : Item :=
  let p := x.msg.pay.toNat
  { launch := x.launch, task := x.task, slots := 0, entry := bits p 31 0, src := bits x.msg.hdr.toNat 55 32
    args := (List.range 8).map (fun i => BitVec.ofNat 64 (bits p (64 * (i + 1) + 63) (64 * (i + 1)))) }

/-- Whether a notice finds that its slot no longer holds the thread that issued `launch` (R360). DEDUCED, unsafe: log 68. -/
def State.noticeLost (s : State) (g : Nat) (x : Sent) : Bool :=
  x.msg.kind == 5 && x.thread != 0 && (s.slot (s.follow g)).thread != x.thread && (s.savedSlots.lookup x.thread).isNone

/-- Such a notice goes to HMBOX at HNODE instead (R360). -/
def State.noticeHost (s : State) (u : Nat) (x : Sent) : State :=
  let ctx := (s.launchOf (bits x.msg.pay.toNat 31 0)).ctx
  (s.toHost x.msg.unitDie (s.hnode ctx) (s.hmbox ctx) x.msg).delSent u

/-- The lane of a message for another node, and of its answer: that of the destination's core for a slot of a peer package (R267), and 0
for a host's mailbox. DESIGN CHOICE, unsafe: log 162. -/
def fabricLane (node box : Nat) : Nat := if node < 1024 then coreIx box else 0

/-- The far end has taken a message: its status comes in at the I/O link and crosses to the sender's mill (R267, R284). -/
def State.answered (s : State) (u : Nat) (x : Sent) (node box status : Nat) : State :=
  let s := (s.hasLeft node box x.msg).delSent u
  match x.reply with
  | some (g0, uid) =>
    let g := s.follow g0
    s.offerTo (entryDie (dieOf g)) ioStop (dieOf g) (s.part.stopOf (millOf g)) (fabricLane node box) 1 s.cycle 3 (.status g uid status)
  | none => s

/-- MESSAGE_DELIVERY (R283 to R285): the message has reached its destination. DESIGN CHOICE, safe: log 5. DESIGN CHOICE, unsafe: log 38.
DEDUCED, unsafe: log 82. A host's message that bounces also goes back to mailbox 0 of its node. DESIGN CHOICE, unsafe: log 146. -/
def execMessageDelivery (s : State) : Result :=
  let u := s.arg.headD 0
  if (s.sents.lookup u).isNone then .next s else
  let x := s.sent u
  let d := s.destStop x.dest
  let reply := fun (s : State) (v : Nat) => (s.replyStatus x d.1 d.2.1 d.2.2 v).delSent u
  match x.dest with
  | .slot g =>
    let sup := isSupervisor g && (x.msg.kind == 3 || x.msg.kind == 9)
    let h := s.slot (s.follow g)
    if s.noticeLost g x then .next (s.noticeHost u x)
    else if x.thread != 0 && (s.savedSlots.lookup x.thread).isSome then .next (s.holdFor x.thread u)
    else if sup && (match h.st with | .stopped _ => true | _ => false) then
      -- the faults of a cluster whose supervisor has stopped are held (R370)
      .next ((s.updCluster (clusterOf g) (fun c => { c with supHeld := c.supHeld ++ [x] })).delSent u)
    else if sup && !h.st.hasThread then
      -- firmware that runs no thread of the model forwards it, in a time the spec leaves open (R371)
      let (n, s) := s.draw
      .next (s.post (s.cycle + 1 + Config.firmwareDelay n) 3 920 .trapForward [u])
    else (match s.deliverSlot g u x.msg with
      | .ok s => .next (reply s 0)
      | .bounce s => .next (reply s 1)
      | .dropped s => .next (reply s 0)
      | .held s => .next s
      | .later s => .next (s.post (s.cycle + 1) 1 50 .messageDelivery [u]))
  | .dispenser c =>
    let q := s.cluster c
    if 64 ≤ q.disp.length || q.retired then .next (reply s 1)
    else
      let s := s.updCluster c (fun q => { q with disp := q.disp ++ [spawnItem x] })
      .next (reply (s.post s.cycle 3 900 .dispenserHandout [c]) 0)
  | .dispatcher die ctx =>
    let box := tget [] (s.die die).boxes ctx
    let none_ := fieldOf (s.context ctx).record 511 0 == 0
    if !none_ && tget 0 (s.die die).boxAt ctx == s.cycle + 1 then
      -- it has taken a delivery in this cycle (R284)
      .next (s.post (s.cycle + 1) 1 50 .messageDelivery [u])
    else if none_ || (x.msg.kind == 10 && 8 < box.foldl (fun n y => n + y.msg.entries) x.msg.entries) then
      -- no such context, or no room: back to the host that sent it (R282, R301)
      .next (reply (match x.peer with | some (node, _) => s.toHost die node 0 x.msg | none => s) 1)
    else
      let s := s.updDie die (fun y => { y with boxes := tput [] y.boxes ctx (box ++ [x]), boxAt := tput 0 y.boxAt ctx (s.cycle + 1) })
      .next (s.post s.cycle 3 850 .launchRecord [die, ctx, u])
  | .fabric node box =>
    if x.stage != 2 then .next ((s.toHost x.msg.unitDie node box x.msg).delSent u)
    else
      let (n, s) := s.draw
      .next (s.answered u x node box (if Config.peerBounces n then 1 else 0))
  | .log die => .next ((s.updDie die (fun y => { y with log := y.log ++ [x.msg] })).delSent u)

/-- HELD_MESSAGE_RETRY: the oldest message held for a mailbox is delivered when its entries are free (R283). -/
def execHeldMessageRetry (s : State) : Result :=
  let g := s.arg.headD 0
  match tget [] s.heldMsgs g with
  | [] => .next s
  | u :: rest =>
    let x := s.sent u
    if s.noticeLost g x then
      .next ((({ s with heldMsgs := tput [] s.heldMsgs g rest }).retryHeld g).noticeHost u x)
    else match s.deliverSlot g u x.msg with
    | .ok s => .next ((s.retryHeld g).delSent u)
    | .dropped s => .next ((({ s with heldMsgs := tput [] s.heldMsgs g rest }).retryHeld g).delSent u)
    | .held s => .next s
    | .bounce s => .next s
    | .later s => .next (s.retryHeld g)

/-- A message leaves its sender's core at the present cycle (R284): within the mill it is delivered at issue + 6; else
it is a packet; to a peer or a host it takes fabric time. DEDUCED, unsafe: log 105. -/
def State.routeMsg (s : State) (u from_ : Nat) : State :=
  let x := s.sent u
  let d := s.destStop x.dest
  let stop := s.part.stopOf (millOf from_)
  match x.dest with
  | .fabric node box =>
    s.offerOut (dieOf from_) stop (fabricLane node box) x.msg.entries (s.cycle + 6) 0 2 node (x.msg.fabricLines box u) 2 u
  | _ =>
    if d.1 == dieOf from_ && d.2.1 == stop then s.post (s.cycle + 6) 1 (200 + from_ % 512) .messageDelivery [u]
    else s.offerTo (dieOf from_) stop d.1 d.2.1 d.2.2 x.msg.entries (s.cycle + 6) 0 (.msg u)

/-- A message of a unit at a stop leaves it at the present cycle: a packet, but to a mailbox at its own stop (R284). -/
def State.sendFrom (s : State) (die stop : Nat) (x : Sent) : State :=
  let d := s.destStop x.dest
  if d.1 == die && d.2.1 == stop then s.sendAt s.cycle x
  else
    let (u, s) := s.fresh
    (s.setSent u { x with msg := { x.msg with uid := u } }).offerTo die stop d.1 d.2.1 d.2.2 x.msg.entries s.cycle 3 (.msg u)

/-- Whether the entry that awaits a message's status carries no fault. -/
def State.awaits (s : State) (x : Sent) : Bool :=
  match x.reply with
  | some (g, e) => (s.entry g e).any (fun e => e.fault.isNone)
  | none => false

/-- A message's write-backs have been performed: it leaves its core once the thread's earlier messages to the same mailbox
have left (R284, R309), and then those that awaited it leave. -/
def State.sendOff (s : State) (u from_ : Nat) : State :=
  let x := s.sent u
  let s := s.setSent u { x with stage := 1 }
  let line := s.sents.filter (fun ky => ky.2.by_ == x.by_ && ky.2.dest == x.dest && ky.2.stage != 2 && (ky.1 == u || s.awaits ky.2))
  (line.takeWhile (fun ky => ky.2.stage == 1)).foldl (fun s ky => (s.setSent ky.1 { ky.2 with stage := 2 }).routeMsg ky.1 from_) s

/-- SEND_STATUS: with 1, a message whose release has been performed leaves its core (R309); with 0, the status of a
send goes back (R284). -/
def execSendStatus (s : State) : Result :=
  let u := s.arg.getD 1 0
  let x := s.sent u
  if s.arg.headD 0 == 1 then .next (s.sendOff u (match x.reply with | some (g, _) => s.follow g | none => 0))
  else
    let d := s.destStop x.dest
    .next (s.replyStatus x d.1 d.2.1 d.2.2 (s.arg.getD 2 0))

/-- The payload bytes of a register, lanes 0 upward (R311). -/
def payOf (v : VReg) (len : Nat) : Nat := v.toNat % 2 ^ (8 * len)

/-- Whether a slot id names a live logical mill of a compute die (R311). -/
def State.liveSlotId (s : State) (id : Nat) : Bool := bits id 23 18 == 0 && bits id 14 9 < s.part.liveMills

/-- The release of a message of the running thread: it starts at once, or once the fences before it are satisfied (R316, R337). A
message that releases nothing awaits no fence. DEDUCED, unsafe: log 128. -/
def State.sendRelease (s : State) (es : List Nat) (m : Nat) : State :=
  if es.isEmpty || (s.me.fence.isEmpty && !s.storeWaits s.cur m) then s.release es { sent := some m }
  else
    let a : Access := { kind := .control, slot := s.cur, uid := m, ix := s.me.pc.toNat, ctx := s.ctxOfSlot s.cur, thread := s.me.thread }
    s.updMe (fun y => { y with held := y.held ++ [⟨a, y.fence, some (s.releaseJoin es { sent := some m })⟩] })

/-- send and sendl (R311): the checks in order, then the payload is captured, the release starts, and the message
leaves when it has been performed; the status lands as R284 gives. A binding's MBOX is compared with the descriptor's SLOT, whatever WHERE is. DESIGN CHOICE,
unsafe: log 149. -/
def sendBody (fn : Nat) (x : Args) (s : State) : State :=
  let c := (s.grp x.c 0).toNat
  let h := (s.grp x.c 1).toNat
  let where_ := bits c 37 36
  let kind := bits h 35 32
  let len := bits h 15 0
  let limit := (if fn == 0 then 56 else 120) - (if where_ == 1 then 8 else 0)
  let slot := bits c 23 0
  if bits c 63 38 != 0 || bits h 63 36 != 0 || where_ == 3 || (kind != 0 && kind != 8) then
    s.raise fcIllop (illopDetail (encWord 0x90 fn x))
  else if limit < len then s.raise fcSpace len
  else if where_ == 0 && !s.liveSlotId slot then s.raise fcSpace slot
  else
    let g := s.cur
    let body := payOf (s.me.vreg x.b.idx) len
    let pay := if where_ == 1 then g + body * 2 ^ 64 else body
    let hdr := if where_ == 1 then mkHdr kind (fn == 1) 1 s.part.pkgix (bits h 31 16) (len + 8)
      else mkHdr kind (fn == 1) 0 g (bits h 31 16) len
    let dest := if where_ == 0 then Dest.slot slot else .fabric (bits c 35 24) slot
    let es := ((s.binds (s.launchOfSlot g)).map (·.2)).filter (fun e => bTag e slot && bits e 15 0 == bits h 31 16)
    let (u, s) := s.fresh
    let s := s.takeEntry { uid := u, form := .status, writes := regS x }
    let (m, s) := s.fresh
    let s := s.setSent m { msg := { hdr := hdr, pay := BitVec.ofNat 960 pay, uid := m }, dest := dest, reply := some (g, u), by_ := s.me.thread }
    (s.sendRelease es m).advance.useBinds

def execSend (x : Args) (s : State) : Result := buffered 0x90 0 x s (sendBody 0 x)
def execSendl (x : Args) (s : State) : Result := buffered 0x90 1 x s (sendBody 1 x)

/-- The filter of `recv.mb` and `probe`: none for a C of none (R312). -/
def State.filterC (s : State) (x : Args) : Option Nat :=
  match x.c with
  | .none _ => none
  | _ => some (bits (s.opVal x.c).toNat 21 0)

/-- The tag bindings of the running thread's launch for its own mailbox, read at issue (R307, R310). -/
def State.tagBinds (s : State) : List (Nat × Nat × Nat × Nat) :=
  (((s.binds (s.launchOfSlot s.cur)).map (·.2)).filter (fun e => bTag e s.cur)).map (fun e =>
    (bits e 15 0, bStart e, bLen e, bScope e))

/-- recv.mb (R313). -/
def recvMbBody (x : Args) (s : State) : State :=
  let (u, s) := s.fresh
  let ws := regS x ++ (match x.b with | .reg .v _ i => [⟨.v, i.toNat, 0, 0⟩] | _ => [])
  let s := s.takeEntry { uid := u, form := .mb (s.filterC x), writes := ws, binds := s.tagBinds }
  (s.claims s.cur).advance.useBinds

/-- recv.job (R314). -/
def recvJobBody (x : Args) (s : State) : State :=
  let (u, s) := s.fresh
  let s := s.takeEntry { uid := u, form := .job (bits (s.opVal x.b).toNat 20 0), writes := regS x }
  (s.claims s.cur).advance

/-- probe (R313). -/
def probeBody (x : Args) (s : State) : State :=
  let hdr := match s.me.mbox.find? (filterHits (s.filterC x)) with
    | some m => m.hdr
    | none => BitVec.allOnes 64
  let (u, s) := s.fresh
  let s := s.takeEntry { uid := u, form := .status, writes := [⟨.s, x.a.idx, hdr.setWidth 2048, BitVec.allOnes 2048⟩] }
  (s.landAt s.cur u (s.cycle + 4)).advance

def execRecvMb (x : Args) (s : State) : Result := buffered 0x91 0 x s (recvMbBody x)
def execRecvJob (x : Args) (s : State) : Result := buffered 0x91 2 x s (recvJobBody x)
def execProbe (x : Args) (s : State) : Result := buffered 0x91 8 x s (probeBody x)

end Sys2Proof.Machine
end

