-- ==== Sys2Proof/Machine/Sync.lean ====
section
/-! DEFINITION. Barriers and fences (R33 to R35, R314 to R316). -/

namespace Sys2Proof.Machine

open Sys2Proof

/-- Barrier ids of a level (R30). -/
def barIds (level : Nat) : Nat := if level < 2 then 0 else if level < 5 then 8 else 16

/-- The place of a level's id 0 among the 72 words of the barrier table (R355). -/
def barBase (level : Nat) : Nat := if level < 5 then 8 * (level - 2) else 24 + 16 * (level - 5)

/-- The thread's own unit at a level (R30, R33). -/
def State.unitAt (s : State) (g level : Nat) : Nat :=
  match level with
  | 2 => clusterOf g
  | 3 => millOf g
  | 4 => (s.mill (millOf g)).crew
  | 5 => dieOf g
  | _ => 0

/-- The number of a barrier instance: launch, level, id, unit (R33). -/
def barKey (launch level id unit_ : Nat) : Nat := ((launch * 8 + level) * 16 + id) * 2 ^ 16 + unit_

def State.barrier (s : State) (k : Nat) : Barrier := tget {} s.barriers k
def State.setBarrier (s : State) (k : Nat) (b : Barrier) : State := { s with barriers := tput {} s.barriers k b }

/-- The barrier that the operands name, or ILLOP: LANE or CORE, an id beyond the level's, a count of 0 (R33). -/
def barCheck (op fn : Nat) (x : Args) (go : Nat → Barrier → State → State) (s : State) : State :=
  let level := x.b.immInt.toNat
  let id := x.c.immInt
  let l := s.launchOfSlot s.cur
  let n := id.toNat
  let count := (l.counts[barBase level + n]?).getD 0
  if level < 2 || 7 < level || id < 0 || barIds level ≤ n || count == 0 then s.raise fcIllop (illopDetail (encWord op fn x))
  else
    let u := s.unitAt s.cur level
    let k := barKey l.id level n u
    let b := s.barrier k
    go k (if b.count == 0 && b.gen == 0 && b.completed == 0 then { b with launch := l.id, level := level, id := n, unit_ := u } else b) s

/-- The accesses that an arrival awaits: pond, crew and atomic ones (R35). -/
def Slot.awaitedByBar (x : Slot) : List Nat := (x.open_.filter (fun p => !p.old && (p.space != .glob || p.atomic))).map (·.uid)

/-- In a slot's `gens`: an odd value is the number of an arrival that has not left, an even one twice the generation
plus 2. -/
def pendingGen (a : Nat) : Nat := 2 * a + 1
def knownGen (n : Nat) : Nat := 2 * n + 2

/-- bar: the arrival leaves at issue, or 16 cycles after the last earlier pond, crew or atomic access has been
performed (R315). DEDUCED, unsafe: log 41. -/
def barBody (x : Args) (s : State) : State :=
  barCheck 0x93 0 x (fun k b s =>
    let g := s.cur
    let s := s.setBarrier k b
    let waits := s.me.awaitedByBar
    let (a, s) := s.fresh
    let s := { s with arrivals := tput {} s.arrivals a { key := k, waits := waits } }
    let s := s.updMe (fun y => { y with gens := tput 0 y.gens k (pendingGen a) })
    let s := if waits.isEmpty then
        s.post (if s.me.lastPerf == 0 then s.cycle else s.me.lastPerf + 16) 3 700 .barrierArrival [g, a]
      else s
    s.advance) s

def execBar (x : Args) (s : State) : Result := plain 0x93 0 x s (barBody x)

/-- Cycles from the last arrival's leaving to the completion (R315); a pod holds this package alone. DESIGN CHOICE, unsafe: log 42. -/
def barDelay (level : Nat) : Nat :=
  match level with
  | 2 => 8
  | 3 => 12
  | 4 => 16
  | 5 => 48
  | _ => 432

/-- Slots' entries that wait for an arrival learn its generation. DEDUCED, unsafe: log 41. -/
def Slot.resolveGen (x : Slot) (k a n : Nat) : Slot :=
  { x with
    gens := if tget 0 x.gens k == pendingGen a then tput 0 x.gens k (knownGen n) else x.gens
    rb := x.rb.map (fun e => if e.form == .bar k (pendingGen a) then { e with form := .bar k (knownGen n) } else e) }

/-- BARRIER_ARRIVAL: the arrival leaves its core and counts; the last of a generation completes it after its delay
(R34, R315). DEDUCED, unsafe: log 41. DESIGN CHOICE, unsafe: log 42. -/
def execBarrierArrival (s : State) : Result :=
  let g := s.follow (s.arg.headD 0)
  let a := s.arg.getD 1 0
  let r : Arrival := tget {} s.arrivals a
  let s := { s with arrivals := tdel s.arrivals a }
  let b := s.barrier r.key
  let s := s.updSlot g (fun x => x.resolveGen r.key a b.gen)
  let count := ((s.launchOf b.launch).counts[barBase b.level + b.id]?).getD 0
  if b.count + 1 < count then .next (s.setBarrier r.key { b with count := b.count + 1 })
  else
    .next ((s.setBarrier r.key { b with count := 0, gen := b.gen + 1 }).post (s.cycle + barDelay b.level) 3 710 .barrierComplete [r.key])

/-- Entries of a slot that wait for a completed generation land 8 cycles later with the number completed (R314); none while the slot's
crew is being vacated (R373). -/
def State.landBar (s : State) (g k completed : Nat) : State :=
  if (s.mill (millOf g)).stopping && !s.isFirmware g then s
  else (s.slot g).rb.foldl (fun s e =>
    match e.form with
    | .bar k' n =>
      if k' == k && !e.claimed && n % 2 == 0 && n ≤ knownGen (completed - 1) then
        (s.updEntry g e.uid (fun e => { (e.orVal 0 (BitVec.ofNat 2048 completed)) with claimed := true })).landAt g e.uid (s.cycle + 8)
      else s
    | _ => s) s

/-- BARRIER_COMPLETE: a generation of an instance has completed (R34). -/
def execBarrierComplete (s : State) : Result :=
  let k := s.arg.headD 0
  let b := s.barrier k
  let done := b.completed + 1
  let s := s.setBarrier k { b with completed := done, doneAt := s.cycle }
  .next (s.slots.foldl (fun s kx => s.landBar kx.1 k done) s)

/-- recv.bar: it waits for the generation of the thread's latest arrival; with none, or one already completed, it
lands 8 cycles after its issue (R34, R314). -/
def recvBarBody (x : Args) (s : State) : State :=
  barCheck 0x91 5 x (fun k b s =>
    let g := s.cur
    let n := tget 0 s.me.gens k
    let (u, s) := s.fresh
    let s := s.takeEntry { uid := u, form := .bar k n, writes := regS x }
    let s := if n == 0 || (n % 2 == 0 && n < knownGen b.completed) then
        (s.updEntry g u (fun e => { (e.orVal 0 (BitVec.ofNat 2048 b.completed)) with claimed := true })).landAt g u (s.cycle + 8)
      else s
    s.advance) s

def execRecvBar (x : Args) (s : State) : Result := buffered 0x91 5 x s (recvBarBody x)

/-- Whether a fence of a scope awaits an access; a `clg` is awaited by every fence (R130, R316). -/
def fenceAwaits (scope : Nat) (p : Pending) : Bool :=
  !p.old && (p.clean || (match p.space with
    | .pond => true
    | .crew => 4 ≤ scope
    | .glob => 5 ≤ scope))

/-- fence: later accesses are held inside the core until the earlier ones of its scope have been performed (R316). -/
def fenceBody (x : Args) (s : State) : State :=
  let w := (s.me.open_.filter (fenceAwaits x.b.immInt.toNat)).map (·.uid)
  (s.updMe (fun y => { y with fence := y.fence ++ w.filter (fun u => !y.fence.contains u) })).advance

def execFence (x : Args) (s : State) : Result := plain 0x93 1 x s (fenceBody x)

end Sys2Proof.Machine
end

