-- ==== Sys2Proof/Machine/Engine.lean ====
section
/-! DEFINITION. The matrix engine (R230 to R245): accumulators, staging, batches, steps, and moves of an accumulator. -/

namespace Sys2Proof.Machine

open Sys2Proof

/-! Operands in the pond (R234, R235). -/

/-- Accumulators a0 to a3 of a core. -/
def Core.acc (c : Core) (i : Nat) : Acc := tget {} c.accs i
def Core.setAcc (c : Core) (i : Nat) (a : Acc) : Core := { c with accs := tput {} c.accs i a }

/-- The accumulator's format: FP64 or FP32 (R232). -/
def accTy (t : Nat) : Nat := if t == 9 then 9 else 10

/-- Bytes of a row of `n` elements (R235). DEDUCED, unsafe: log 46. -/
def rowSize (t n : Nat) : Nat :=
  if t == 17 then (n + 1) / 2 else if t == 15 || t == 16 then 64 + (n + 3) / 4 else n * (tyBits t / 8)

/-- A rectangular operand: where it lies, and its shape. -/
structure Rect where
  base : Nat
  pitchReg : Nat
  t : Nat
  rows : Nat
  cols : Nat
  /-- bytes of the scale plane, 0 where there is none -/
  scales : Nat
  deriving DecidableEq, Repr

def Rect.off (r : Rect) : Nat := bits r.base 20 0
def Rect.rot (r : Rect) : Nat := bits r.base 23 21
def Rect.group (r : Rect) : Nat := bits r.base 25 24
def Rect.pitch (r : Rect) : Nat := bits r.pitchReg 15 0
def Rect.tpitch (r : Rect) : Nat := bits r.pitchReg 31 16

/-- First byte and length of each row, and of the scale plane. -/
def Rect.spans (r : Rect) : List (Nat × Nat) :=
  (List.range r.rows).map (fun i => (r.off + i * r.pitch, rowSize r.t r.cols))
    ++ (if r.scales == 0 then [] else [(r.off + r.tpitch, r.scales)])

/-- The stripes that hold any byte of it, by number, ascending. DEDUCED, unsafe: log 44. -/
def Rect.stripes (r : Rect) : List Nat :=
  (List.range 4096).filter (fun k => r.spans.any (fun s => 0 < s.2 && s.1 < 512 * k + 512 && 512 * k < s.1 + s.2))

def Rect.last (r : Rect) : Nat := r.spans.foldl (fun m s => max m (s.1 + s.2)) 0

/-- ILLOP, SPACE and ALIGN of a pond operand (R237, R244); each row of FP6 elements is a range whose base is a multiple of 64
(R191, R235). -/
def Rect.illop (r : Rect) : Bool :=
  r.base / 2 ^ 26 != 0 || r.pitchReg / 2 ^ 32 != 0 || r.off / 2 ^ 19 != r.group || (r.scales == 0 && r.tpitch != 0)
def Rect.space (r : Rect) : Bool :=
  2 ^ 21 < r.last || r.spans.any (fun s => s.1 / 2 ^ 19 != r.group || (s.1 + s.2 - 1) / 2 ^ 19 != r.group)
def Rect.misaligned (r : Rect) : Bool :=
  let al := if r.t == 15 || r.t == 16 then 64 else 16
  r.off % al != 0 || r.pitch % 16 != 0 || (1 < r.rows && r.pitch % al != 0) || r.tpitch % 64 != 0 || r.pitch < rowSize r.t r.cols

/-- The place in a stripe, as the pond holds it, of a logical byte (R235). -/
def Rect.inStripe (r : Rect) (o : Nat) : Nat := 64 * ((o / 64 + r.rot) % 8) + o % 64

/-- A byte of an operand, from the stripes read. -/
def Rect.byte (r : Rect) (got : Tab VPair) (o : Nat) : Nat :=
  let i := r.inStripe o
  bits (tget 0 got (o / 512)).toNat (8 * i + 7) (8 * i)

/-- The code of element `c` of a row whose bytes `rd` gives from the row's first byte on (R190, R191, R235). DEDUCED, unsafe: log 46. -/
def rowCode (t : Nat) (rd : Nat → Nat) (c : Nat) : Nat :=
  if t == 17 then bits (rd (c / 2)) (4 * (c % 2) + 3) (4 * (c % 2))
  else if t == 15 || t == 16 then fp6Code (rd (c / 2)) (rd (64 + c / 4)) c
  else (List.range (tyBits t / 8)).foldl (fun v q => v + rd (c * (tyBits t / 8) + q) * 256 ^ q) 0

/-- Whether operands of a format carry scales (R233, R235). -/
def hasScales (t : Nat) (scaled : Bool) : Bool := t == 17 || scaled
def scaleBytes (t : Nat) : Nat := if t == 17 then 2 else 1

/-- The A operand of a step: M rows of K; the B operand: K rows of N. -/
def EStep.rectA (e : EStep) : Rect :=
  { base := e.a.1.toNat, pitchReg := e.a.2.toNat, t := e.t, rows := e.m, cols := e.k
    scales := if hasScales e.t e.scaled then scaleBytes e.t * (e.m * (e.k / 32)) else 0 }
def EStep.rectB (e : EStep) : Rect :=
  { base := e.b.1.toNat, pitchReg := e.b.2.toNat, t := e.t2, rows := e.k, cols := e.n
    scales := if hasScales e.t2 e.scaled then scaleBytes e.t2 * (e.k / 32 * e.n) else 0 }

/-- The pond operands of a step. -/
def EStep.rects (e : EStep) : List Rect :=
  (match e.av with | none => [e.rectA] | some _ => []) ++ (match e.bv with | none => [e.rectB] | some _ => [])

def EStep.stripes (e : EStep) : List Nat :=
  (List.range 4096).filter (fun k => e.rects.any (fun r => r.spans.any (fun s => 0 < s.2 && s.1 < 512 * k + 512 && 512 * k < s.1 + s.2)))

/-- The value of element (i, c) of an operand: from a vector pair, rows packed (R236), or from the stripes; `sc` is the
index of its scale. -/
def operandVal (r : Rect) (v : Option VPair) (got : Tab VPair) (i c sc : Nat) : Num :=
  let rs := rowSize r.t r.cols
  match v with
  | some x => decodeFloat r.t (rowCode r.t (fun o => bits x.toNat (8 * (i * rs + o) + 7) (8 * (i * rs + o))) c)
  | none =>
    let code := rowCode r.t (fun o => r.byte got (r.off + i * r.pitch + o)) c
    if r.scales == 0 then decodeFloat r.t code
    else
      let n := scaleBytes r.t
      let p := r.off + r.tpitch + n * sc
      decodeInBlock r.t (r.byte got p + (if n == 2 then 256 * r.byte got (p + 1) else 0)) code

/-- C[i][j] + the exact sum over k, rounded once; and its flags (R239). -/
def EStep.elem (e : EStep) (got : Tab VPair) (old : Word) (i j : Nat) : Nat × Nat :=
  let t := accTy e.t
  let c := decodeFloat t (old.toNat % 2 ^ tyBits t)
  let ps := (List.range e.k).map (fun k =>
    numMul (operandVal e.rectA e.av got i k (i * (e.k / 32) + k / 32)) (operandVal e.rectB e.bv got k j (k / 32 * e.n + j)))
  let sum := sumTerms (c :: ps.map (·.1))
  let r := roundTo t sum.1 0 0
  (r.1, ps.foldl (fun f p => f ||| p.2) (sum.2 ||| r.2 ||| sigFlag [c]))

/-- Multiply-adds per cycle (R232). -/
def engineRate (t : Nat) : Nat :=
  match t with
  | 9 => 256
  | 10 => 1024
  | 11 => 4096
  | 12 => 4096
  | 17 => 16384
  | _ => 8192

/-! Instructions. -/

/-- Whether an accumulator of a core is on loan (R242). -/
def Core.onLoan (c : Core) (a : Nat) : Bool := c.staging.any (fun e => e.acc == a) || c.loans.any (fun l => l.accs.contains a)

/-- The running slot's core. -/
def State.myCore (s : State) : Core := s.core (coreOf s.cur)
def State.updCore (s : State) (c : Nat) (f : Core → Core) : State := s.setCore c (f (s.core c))

/-- The instruction enters the ring and is done at once. -/
def State.ringNow (s : State) (op fn : Nat) : State :=
  let (q, s) := s.enterRing op fn
  s.updMe (fun y => y.ringDone q 0)

/-- mshape (R232, R233). The shape is checked before the loan. DESIGN CHOICE, unsafe: log 145. -/
def mshapeBody (x : Args) (s : State) : State :=
  let w := (s.opVal x.b).toNat
  let a := x.a.idx
  let m := bits w 7 0
  let n := bits w 15 8
  let k := bits w 23 16
  let sc := w.testBit 24
  let t := x.ty
  let bad := w / 2 ^ 25 != 0 || m == 0 || (if t == 9 then 32 else 64) < m || n == 0 || (if t == 9 then 64 else 128) < n
    || k < 8 || 64 < k || k % 8 != 0 || (t == 17 && k % 32 != 0) || (sc && t ≤ 12) || (sc && k % 32 != 0)
  if bad then s.raise fcIllop (illopDetail (encWord 0xB0 0 x))
  else if s.myCore.onLoan a || (s.myCore.acc a).busy then s.raise fcAccbusy a
  else
    let s := s.ringNow 0xB0 0
    (s.updCore (coreOf s.cur) (fun c => c.setAcc a
      { m := m, n := n, k := k, t := t, t2 := if x.ty2 == 0 then t else x.ty2, scaled := sc && t != 17 })).advance

/-- mzero (R233). -/
def mzeroBody (x : Args) (s : State) : State :=
  let a := x.a.idx
  if s.myCore.onLoan a || (s.myCore.acc a).busy then s.raise fcAccbusy a
  else
    let s := s.ringNow 0xB0 3
    (s.updCore (coreOf s.cur) (fun c => c.setAcc a { c.acc a with elems := [] })).advance

/-- The vector operand of `mma`, where a field names one. -/
def State.vecOperand (s : State) (o : Operand) : Option VPair := if o.isCls .v then some (s.me.vpair o.idx) else none

/-- The exact checks on operands, in order: ILLOP of either, SPACE of either, ALIGN of either (R237, step 1). DEDUCED, unsafe: log 45. -/
def rectFault (word : Nat) (rs : List Rect) (vecIll vecSpace : Bool) : Option (Nat × Nat) :=
  if vecIll || rs.any Rect.illop then some (fcIllop, word)
  else if vecSpace then some (fcSpace, 512)
  else match rs.find? Rect.space with
    | some r => some (fcSpace, r.off)
    | none => (rs.find? Rect.misaligned).map (fun r => (fcAlign, r.off))

/-- mma stages a step (R237). DEDUCED, unsafe: log 45. -/
def mmaBody (x : Args) (s : State) : State :=
  let a := x.a.idx
  let acc := s.myCore.acc a
  let e : EStep := { slot := s.cur, acc := a, m := acc.m, n := acc.n, k := acc.k, t := acc.t, t2 := acc.t2, scaled := acc.scaled
                     a := (s.grp x.b 0, s.grp x.b 1), b := (s.grp x.c 0, s.grp x.c 1)
                     av := s.vecOperand x.b, bv := s.vecOperand x.c }
  let ill := (e.av.isSome && hasScales e.t e.scaled) || (e.bv.isSome && hasScales e.t2 e.scaled)
  let big := (e.av.isSome && 512 < e.m * rowSize e.t e.k) || (e.bv.isSome && 512 < e.k * rowSize e.t2 e.n)
  match rectFault (illopDetail (encWord 0xB0 1 x)) e.rects ill big with
  | some f => s.raise f.1 f.2
  | none =>
    if acc.busy then s.raise fcAccbusy a
    else if 32 ≤ s.myCore.staging.length then s.park s.cur .staging
    else
      let (q, s) := s.enterRing 0xB0 1
      (s.updCore (coreOf s.cur) (fun c => { c with staging := c.staging ++ [{ e with seq := q }] })).advance

/-! Batches. -/

def State.engine (s : State) (c : Nat) : Engine := (s.cluster c).eng
def State.updEngine (s : State) (c : Nat) (f : Engine → Engine) : State := s.updCluster c (fun k => { k with eng := f k.eng })

/-- The engine of a cluster looks for work at the next turn (R239). -/
def State.wakeEngine (s : State) (c : Nat) : State :=
  if (s.cluster c).poll then s
  else (s.updCluster c (fun k => { k with poll := true })).post (nextAt s.cycle 8 0) 4 0 .engineStep [c]

/-- DEDUCED, unsafe: log 44. -/
def Batch.rects (b : Batch) : List Rect := b.steps.flatMap EStep.rects

/-- Registers the batches of a cluster in commit order, while the scoreboard has entries for all of a batch's operands
(R238, R256). DEDUCED, unsafe: log 44. -/
def State.registerBatches (s : State) (c limit : Nat) : Nat → State
  | 0 => s
  | n + 1 =>
    match (s.engine c).batches.find? (fun b => !b.registered) with
    | none => s
    | some b =>
      let m := s.mill (c / 4)
      if limit < b.slot || 64 < m.sb.length + b.rects.length then s
      else
        let es := b.rects.map (fun r =>
          let ks := r.stripes
          { chunk := false, owner := b.id, lo := 512 * ks.headD 0, hi := 512 * ks.getLastD 0 + 512 : SbEntry })
        let s := s.updMill (c / 4) (fun m => { m with sb := m.sb ++ es })
        (s.updEngine c (fun e => { e with batches := e.batches.map (fun y => if y.id == b.id then { y with registered := true } else y) })).registerBatches c limit n

/-- Registered batches enter the job queue of 16 in commit order; their steps leave the staging (R238). -/
def State.queueBatches (s : State) (c : Nat) : Nat → State
  | 0 => s
  | n + 1 =>
    let bs := (s.engine c).batches
    match bs.find? (fun b => !b.queued) with
    | none => s
    | some b =>
      if !b.registered || 16 ≤ (bs.filter (·.queued)).length then s
      else
        let s := s.updEngine c (fun e => { e with batches := e.batches.map (fun y => if y.id == b.id then { y with queued := true } else y) })
        let s := s.updCore (coreOf b.slot) (fun k => { k with staging := k.staging.filter (fun e => e.batch != b.id) })
        (s.wakeEngine c).queueBatches c n

/-- Registration and entry to the queue, at the place of the first waiting batch's core; the next batch, where its core comes later,
registers in that core's turn of the cycle (R256), and what finds no room tries again on the next cycle. -/
def State.letIn (s : State) (c : Nat) : State :=
  let bs := (s.engine c).batches
  let limit := ((bs.find? (fun b => !b.registered)).map (·.slot)).getD 0
  let s := (s.registerBatches c limit bs.length).queueBatches c bs.length
  match (s.engine c).batches.find? (fun b => !b.registered) with
  | some b => s.post (if limit < b.slot then s.cycle else s.cycle + 1) 2 b.slot .batchRegister [c]
  | none => s

/-- BATCH_REGISTER: the first cycle at which entries for all operands of a waiting batch are free (R238). -/
def execBatchRegister (s : State) : Result := .next (s.letIn (s.arg.headD 0))

/-- mcommit (R238): it closes the steps that the thread has staged on the core it runs on. DESIGN CHOICE, unsafe: log 131. -/
def mcommitBody (x : Args) (s : State) : State :=
  let g := s.cur
  let c := clusterOf g
  let (q, s) := s.enterRing 0xB0 2
  let (u, s) := s.fresh
  let eng := s.engine c
  let job := clusIx g * 2 ^ 19 + coreIx g * 2 ^ 16 + eng.counter
  let after := ((s.mill (c / 4)).sb.filter (·.chunk)).map (·.owner)
  let mine := fun (e : EStep) => e.slot == g && e.batch == 0
  let steps := (s.myCore.staging.filter mine).map (fun e => { e with batch := u, after := after })
  let accs := (steps.map (·.acc)).eraseDups
  let s := s.updCore (coreOf g) (fun k => { k with
    staging := k.staging.map (fun e => if mine e then { e with batch := u } else e)
    loans := if accs.isEmpty then k.loans else k.loans ++ [{ job := millOf g * 2 ^ 21 + job, slot := g, accs := accs }] })
  let b : Batch := { id := u, job := job, slot := g, thread := s.me.thread, launch := s.me.launch, seq := q, commit := s.cycle
                     steps := steps, traps := s.me.fpctl.toNat % 32 }
  let s := s.updEngine c (fun e => { e with counter := if e.counter == 0xFFEF then 0 else e.counter + 1, batches := e.batches ++ [b] })
  let waiting := eng.batches.any (fun y => !y.registered)
  let s := s.writeA x (BitVec.ofNat 64 job)
  (if waiting then s else s.letIn c).advance

/-- A batch has ended: its completion goes out, its entries free, and FPX is raised late if its flags meet a trap
(R239 to R241). Batches that wait for entries register in the turns of this cycle, in the order of the cores (R256). -/
def State.finishBatch (s : State) (c : Nat) (b : Batch) : State :=
  let pay := b.job % 2 ^ 21 + b.steps.length * 2 ^ 24 + b.flags * 2 ^ 32
  let s := s.sendAt (s.cycle + 8) { msg := { hdr := unitHdr 2 0 (c / 256) (b.job % 65536) 8, pay := BitVec.ofNat 960 pay }, dest := .slot b.slot, thread := b.thread }
  let s := s.updMill (c / 4) (fun m => { m with sb := m.sb.filter (fun e => e.chunk || e.owner != b.id) })
  let s := s.updEngine c (fun e => { e with batches := e.batches.filter (fun y => y.id != b.id) })
  let s := s.updSlot (s.follow b.slot) (fun x => if x.thread == b.thread then x.ringDone b.seq b.flags else x)
  let s := if b.traps &&& b.flags != 0 then s.post s.cycle 8 b.slot .lateFault [b.slot, fcFpx, b.seq, b.flags, b.thread, (s.launchOf b.launch).ctx] else s
  let s := match (s.mill (c / 4)).launch with
    | some l => s.post (s.cycle + 1) 8 (s.mill (c / 4)).crew .taskEnd [l, (s.mill (c / 4)).crew]
    | none => s
  (s.queueBatches c (s.engine c).batches.length).wakeEngine c

/-- BATCH_COMPLETE: the last step of a batch has ended. DEDUCED, unsafe: log 106. -/
def execBatchComplete (s : State) : Result :=
  let c := s.arg.headD 0
  match (s.engine c).batches.find? (fun b => b.id == s.arg.getD 1 0) with
  | some b => .next (s.finishBatch c b)
  | none => .next s

/-! Steps and moves. -/

/-- The end of a step: a round boundary (R239). DEDUCED, unsafe: log 106. -/
def stepEnd (start last : Nat) (e : EStep) : Nat :=
  let r := engineRate e.t
  nextAt (max last (start + (e.m * e.n * e.k + r - 1) / r)) 32 0

/-- Whether a chunk registered before the step's commit lies in its operands and has not committed (R239). -/
def State.chunkPending (s : State) (mill : Nat) (e : EStep) : Bool :=
  let ks := e.stripes
  (s.mill mill).sb.any (fun b => b.chunk && e.after.contains b.owner &&
    (List.range ((b.hi - b.lo) / 512)).any (fun j => !b.got.testBit j && ks.contains (b.lo / 512 + j)))

/-- At a round boundary an idle engine starts the next step of the batch at the head of its queue; batches without
steps end there (R238, R239). -/
def State.startStep (s : State) (c : Nat) : Nat → State
  | 0 => s
  | n + 1 =>
    let eng := s.engine c
    match eng.batches with
    | b :: _ =>
      if !b.queued || eng.run.isSome || s.cycle < eng.last || (s.mill (c / 4)).stopping then s
      else match b.steps[b.done]? with
        | none => if b.steps.isEmpty then (s.finishBatch c b).startStep c n else s
        | some e =>
          if s.chunkPending (c / 4) e then s
          else
            let ks := e.stripes
            let s := s.updEngine c (fun g => { g with run := some { start := s.cycle, left := ks } })
            if ks.isEmpty then s.post (stepEnd s.cycle s.cycle e) 1 20 .engineStepEnd [c] else s
    | [] => s

/-- The range of a move (R244). -/
def Move.rect (v : Move) (a : Acc) : Rect :=
  { base := v.base.toNat, pitchReg := v.pitch.toNat, t := accTy a.t, rows := a.m, cols := a.n, scales := 0 }

/-- Whether a move may use a turn facing its group: not before issue + 2, nor while a fence holds it. DEDUCED, unsafe: log 43. -/
def State.moveReady (s : State) (v : Move) (g : Nat) : Bool :=
  v.issue + 2 ≤ s.cycle && !v.left.isEmpty && bits v.base.toNat 25 24 == g
    && !v.waits.any (fun u => (s.slot (s.follow v.slot)).open_.any (fun p => p.uid == u))

/-- At the first cycle of a turn, lanes 0 to 3 go to the earliest claim on the group the cluster faces: the running
step's, or a move's; the claim made earlier keeps the turn (R239, R244, R245). DEDUCED, unsafe: log 43. -/
def State.claimTurn (s : State) (c : Nat) : State :=
  let g := (s.mill (c / 4)).outer s.cycle (c % 4)
  let eng := s.engine c
  let inG := fun (ks : List Nat) => (ks.filter (fun k => k / 1024 == g)).take 4
  let step := match eng.run with
    | some r => if (inG r.left).isEmpty then none else some (r.start, inG r.left)
    | none => none
  let mv := (s.cluster c).moves.find? (fun v => s.moveReady v g)
  let turn := match step, mv with
    | some (t, ks), some v => if v.issue ≤ t then some (some v.id, v.left.take 4) else some (none, ks)
    | some (_, ks), none => some (none, ks)
    | none, some v => some (some v.id, v.left.take 4)
    | none, none => none
  -- a retired cluster meets no group (R158)
  s.updEngine c (fun e => { e with turn := if (s.cluster c).retired then none else turn })

/-- The stripe of an accumulator's elements as `mst` writes it: its words under a mask, zeros where a word holds no
element byte (R244). -/
def Acc.stripe (a : Acc) (r : Rect) (k : Nat) : Nat × Nat :=
  let n := tyBits (accTy a.t) / 8
  (List.range (a.m * a.n)).foldl (fun (w : Nat × Nat) ij =>
    (List.range n).foldl (fun w q =>
      let o := r.off + ij / a.n * r.pitch + ij % a.n * n + q
      if o / 512 == k then
        let i := r.inStripe o
        (w.1 + bits (tget 0 a.elems ij).toNat (8 * q + 7) (8 * q) * 2 ^ (8 * i), w.2 ||| 2 ^ (i / 64))
      else w) w) (0, 0)

/-- The accumulator that `mld` writes, from the stripes read (R244). -/
def Acc.loadFrom (a : Acc) (r : Rect) (got : Tab VPair) : Acc :=
  let n := tyBits (accTy a.t) / 8
  { a with elems := (List.range (a.m * a.n)).foldl (fun t ij =>
      tput 0 t ij (BitVec.ofNat 64 ((List.range n).foldl (fun v q =>
        v + r.byte got (r.off + ij / a.n * r.pitch + ij % a.n * n + q) * 256 ^ q) 0))) [] }

/-- What lane `j` reads at the present cycle: the word of its stripe at the bank it meets (R152). -/
def State.laneRead (s : State) (mill j k : Nat) (got : Tab VPair) : Tab VPair × Bool :=
  let m := s.mill mill
  let b := m.inner s.cycle j
  let off := 512 * k + 64 * b
  if m.isDry off then (got, true)
  else (tput 0 got k (tget 0 got k ||| BitVec.ofNat 4096 (s.pondRead mill off 64 * 2 ^ (512 * b))), false)

/-- One cycle of the turn that lanes 0 to 3 hold. -/
def State.turnCycle (s : State) (c : Nat) : State :=
  let mill := c / 4
  match (s.engine c).turn with
  | none => s
  | some (none, ks) =>
    s.updEngine c (fun e => { e with run := e.run.map (fun r => { r with
      got := (ks.zipIdx.foldl (fun got kj => (s.laneRead mill kj.2 kj.1 got).1) r.got) }) })
  | some (some id, ks) =>
    s.updCluster c (fun k => { k with moves := k.moves.map (fun v =>
      if v.id == id then
        if v.store then { v with dry := v.dry || ks.zipIdx.any (fun kj => (s.mill mill).isDry (512 * kj.1 + 64 * (s.mill mill).inner s.cycle kj.2)
            && ((s.core v.core).acc v.acc |>.stripe (v.rect ((s.core v.core).acc v.acc)) kj.1).2.testBit ((s.mill mill).inner s.cycle kj.2)) }
        else
          let r := ks.zipIdx.foldl (fun (w : Tab VPair × Bool) kj =>
            let y := s.laneRead mill kj.2 kj.1 w.1
            (y.1, w.2 || y.2)) (v.got, v.dry)
          { v with got := r.1, dry := r.2 }
      else v) })

/-- The end of a move's last turn: `mld` writes the accumulator; the entry lands 6 cycles later with OK or BKDRY, and
frees the accumulator (R244, R245). -/
def State.endMove (s : State) (c : Nat) (v : Move) : State :=
  let s := if v.store then s
    else s.updCore v.core (fun k => k.setAcc v.acc ((k.acc v.acc).loadFrom (v.rect (k.acc v.acc)) v.got))
  let s := s.updEntry v.slot v.uid (fun e => e.orVal 0 (BitVec.ofNat 2048 (if v.dry then 9 else 0)))
  let s := s.updSlot (s.follow v.slot) (fun x => if x.thread == v.thread then x.ringDone v.seq 0 else x)
  ((s.landAt v.slot v.uid (s.cycle + 6)).post (s.cycle + 6) 1 0 .engineStepEnd [c, v.id]).done v.slot v.uid

/-- Phase 7 of a turn that lanes 0 to 3 hold (R239, R244). DEDUCED, unsafe: log 106. -/
def State.turnEnd (s : State) (c : Nat) : State :=
  let mill := c / 4
  match (s.engine c).turn with
  | none => s
  | some (none, ks) =>
    let s := s.updEngine c (fun e => { e with turn := none, run := e.run.map (fun r => { r with left := r.left.filter (fun k => !ks.contains k) }) })
    let eng := s.engine c
    (match eng.run, eng.batches with
    | some r, b :: _ =>
      (match r.left, b.steps[b.done]? with
      | [], some e => s.post (stepEnd r.start (s.cycle + 1) e) 1 20 .engineStepEnd [c]
      | _, _ => s)
    | _, _ => s)
  | some (some id, ks) =>
    let s := s.updEngine c (fun e => { e with turn := none })
    match (s.cluster c).moves.find? (fun v => v.id == id) with
    | none => s
    | some v =>
      let v := { v with left := v.left.drop ks.length }
      let s := s.updCluster c (fun k => { k with moves := k.moves.map (fun y => if y.id == id then v else y) })
      let a := (s.core v.core).acc v.acc
      let s := if v.store then
          (s.updMill mill (fun m => { m with staged := m.staged ++ ks.zipIdx.map (fun kj =>
            let w := a.stripe (v.rect a) kj.1
            { order := 8 + kj.2, off := 512 * kj.1, mask := w.2, data := BitVec.ofNat 4096 w.1 }) })).post s.cycle 6 0 .blockCommit [mill]
        else s
      if v.left.isEmpty then s.endMove c v else s

/-- ENGINE_STEP: one cycle of a cluster's engine and of its moves (R239, R244). -/
def execEngineStep (s : State) : Result :=
  let c := s.arg.headD 0
  let s := if s.cycle % 32 == 0 then s.startStep c ((s.engine c).batches.length + 1) else s
  let s := if s.cycle % 8 == 0 then s.claimTurn c else s
  let s := s.turnCycle c
  let s := if s.cycle % 8 == 7 then s.turnEnd c else s
  let eng := s.engine c
  let k := s.cluster c
  if eng.turn.isSome then .next (s.post (s.cycle + 1) 4 0 .engineStep [c])
  else if !k.retired && (eng.batches.any (·.queued) || k.moves.any (fun v => !v.left.isEmpty)) then
    .next (s.post (nextAt (s.cycle + 1) 8 0) 4 0 .engineStep [c])
  else .next (s.updCluster c (fun k => { k with poll := false }))

/-- ENGINE_STEP_END: at its end a step computes every element of C from the stripes read (R239); or the entry of a move
has landed, and its accumulator is free (R245). -/
def execEngineStepEnd (s : State) : Result :=
  let c := s.arg.headD 0
  match s.arg.drop 1 with
  | id :: _ =>
    (match (s.cluster c).moves.find? (fun v => v.id == id) with
    | some v =>
      let s := s.updCore v.core (fun k => k.setAcc v.acc { k.acc v.acc with busy := false })
      .next (s.updCluster c (fun k => { k with moves := k.moves.filter (fun y => y.id != id) }))
    | none => .next s)
  | [] =>
    let eng := s.engine c
    match eng.run, eng.batches with
    | some r, b :: _ =>
      (match b.steps[b.done]? with
      | some e =>
        let core := coreOf b.slot
        let a := (s.core core).acc e.acc
        let w := (List.range (e.m * e.n)).foldl (fun (w : Tab Word × Nat) ij =>
          let y := e.elem r.got (tget 0 a.elems ij) (ij / e.n) (ij % e.n)
          (tput 0 w.1 ij (BitVec.ofNat 64 y.1), w.2 ||| y.2)) ([], b.flags)
        let s := s.updCore core (fun k => k.setAcc e.acc { a with elems := w.1 })
        let s := s.updSlot (s.follow b.slot) (fun x => if x.thread == b.thread then x.ringDone e.seq 0 else x)
        let s := s.updEngine c (fun g => { g with
          run := none, last := s.cycle
          batches := g.batches.map (fun y => if y.id == b.id then { y with done := y.done + 1, flags := w.2 } else y) })
        .next (if b.steps.length ≤ b.done + 1 then s.post s.cycle 1 21 .batchComplete [c, b.id] else s)
      | none => .next s)
    | _, _ => .next s

/-- mld and mst (R244): the range is checked, then the accumulator; each holds it and takes an entry. DEDUCED, unsafe: log 43. -/
def moveBody (store : Bool) (fn : Nat) (x : Args) (s : State) : State :=
  let a := x.a.idx
  let acc := s.myCore.acc a
  let (u, s1) := s.fresh
  let v : Move := { id := u, store := store, core := coreOf s.cur, slot := s.cur, uid := u, seq := 0, thread := s.me.thread, acc := a
                    base := s.grp x.b 0, pitch := s.grp x.b 1, issue := s.cycle, waits := s.me.fence, left := [] }
  let r := v.rect acc
  match rectFault (illopDetail (encWord 0xB0 fn x)) [r] false false with
  | some f => s.raise f.1 f.2
  | none =>
    if s.myCore.onLoan a || acc.busy then s.raise fcAccbusy a
    else
      let (q, s) := s1.enterRing 0xB0 fn
      let c := clusterOf s.cur
      let s := s.updCore (coreOf s.cur) (fun k => k.setAcc a { k.acc a with busy := true })
      let s := s.updCluster c (fun k => { k with moves := k.moves ++ [{ v with seq := q, left := r.stripes }] })
      let s := s.takeEntry { uid := u, form := .engine, writes := [⟨.s, x.c.idx, 0, BitVec.allOnes 2048⟩], seq := some q }
      let s := s.updMe (fun y => { y with open_ := y.open_ ++ [{ uid := u, space := .pond, atomic := false, left := 1 }] })
      (s.wakeEngine c).advance

def execMshape (x : Args) (s : State) : Result := plain 0xB0 0 x s (mshapeBody x)
def execMma (x : Args) (s : State) : Result := plain 0xB0 1 x s (mmaBody x)
def execMcommit (x : Args) (s : State) : Result := plain 0xB0 2 x s (mcommitBody x)
def execMzero (x : Args) (s : State) : Result := plain 0xB0 3 x s (mzeroBody x)
def execMld (x : Args) (s : State) : Result := buffered 0xB0 4 x s (moveBody false 4 x)
def execMst (x : Args) (s : State) : Result := buffered 0xB0 5 x s (moveBody true 5 x)

end Sys2Proof.Machine
end

