-- ==== Sys2Proof/Machine/Copy.lean ====
section
/-! DEFINITION. The copy units (R246 to R257): the tile image, the checks at issue, the preparation of chunks, their
delivery, and completion. -/

namespace Sys2Proof.Machine

open Sys2Proof

/-! Fields (R246, R247). -/

def Copy.mbox (c : Copy) : Nat := bits (c.reg 3) 40 32
def Copy.note (c : Copy) : Bool := (c.reg 3).testBit 9
def Copy.pkg (c : Copy) : Bool := (c.reg 3).testBit 8
def Copy.msg (c : Copy) : Bool := (c.reg 3).testBit 7
def Copy.cluster (c : Copy) : Nat := clusterOf c.slot
def Copy.hasGlobal (c : Copy) : Bool := c.kind != 2

/-! The tile image (R250). -/

/-- A row of the image, rounded up to 64 bytes. -/
def rowPitch (d : Nat) : Nat := roundUp (dTCols d * dElsize d) 64

/-- Where byte `o` of the image of a tile comes from: its address, and whether no clamp moved it; none for padding. -/
def imageByte (d tr tc o : Nat) : Option (Nat × Bool) :=
  let es := dElsize d
  let r := o / rowPitch d
  let q := o % rowPitch d
  if rowPitch d == 0 || dTRows d ≤ r || dTCols d * es ≤ q then none
  else
    let i := tr * dTRows d + r
    let j := tc * dTCols d + q / es
    some (dBase d + min i (dRows d - 1) * dPitch d + min j (dCols d - 1) * es + q % es, i < dRows d && j < dCols d)

def Copy.byteAt (c : Copy) (o : Nat) : Option (Nat × Bool) :=
  imageByte c.desc.toNat (bits (c.reg 1) 31 0) (bits (c.reg 1) 63 32) o

/-- The lines that chunk i draws on; for a `cstore`, those it writes. -/
def Copy.chunkLines (c : Copy) (i : Nat) : List Nat :=
  onceEach ((List.range 512).filterMap (fun b =>
    match c.byteAt (512 * i + b) with
    | some (a, keep) => if c.kind == 1 && !keep then none else some (a / 64)
    | none => none))

/-- All lines of the command, in order of the first chunk that needs them. -/
def Copy.allLines (c : Copy) : List Nat := onceEach ((List.range c.count).flatMap c.chunkLines)

/-- The lines of each row of the tile, first to last: its pages are translated (R251). -/
def Copy.spans (c : Copy) : List (Nat × Nat) :=
  let d := c.desc.toNat
  (List.range (dTRows d)).filterMap (fun r =>
    match c.byteAt (r * rowPitch d), c.byteAt (r * rowPitch d + (dTCols d * dElsize d - 1)) with
    | some a, some b => some (a.1 / 64, b.1 / 64)
    | _, _ => none)

/-- The blocks of 64 KiB that hold the tile's lines, in row order. -/
def Copy.blocks (c : Copy) : List Nat :=
  onceEach (c.spans.flatMap (fun ab => List.range' (ab.1 / 1024) (ab.2 / 1024 + 1 - ab.1 / 1024)))

/-- The address of the first of the tile's lines in a block. -/
def Copy.blockAddr (c : Copy) (b : Nat) : Nat :=
  ((c.spans.find? (fun xy => xy.1 / 1024 ≤ b && b ≤ xy.2 / 1024)).map (fun xy => 64 * max xy.1 (1024 * b))).getD (c.reg 0)

/-- Chunk i of the image, from the lines read (R250). -/
def Copy.chunkData (c : Copy) (i : Nat) : VPair :=
  BitVec.ofNat 4096 (packBits 8 ((List.range 512).map (fun b =>
    match c.byteAt (512 * i + b) with
    | some (a, _) => bits (tget 0 c.lines (a / 64)).toNat (8 * (a % 64) + 7) (8 * (a % 64))
    | none => 0)))

/-- What chunk i of a `cstore` writes to a line: data and byte mask; only elements that no clamp moved (R250). -/
def Copy.lineOut (c : Copy) (i line : Nat) : Nat × Nat :=
  (List.range 512).foldl (fun (w : Nat × Nat) b =>
    match c.byteAt (512 * i + b) with
    | some (a, true) =>
      if a / 64 == line && !w.2.testBit (a % 64) then
        (w.1 + bits (tget 0 c.image i).toNat (8 * b + 7) (8 * b) * 2 ^ (8 * (a % 64)), w.2 + 2 ^ (a % 64))
      else w
    | _ => w) (0, 0)

/-! Requests. -/

/-- The time of an access on the path of R251: a hit in the home slice (R114). DEDUCED, unsafe: log 49. -/
def statedTime (a b : Nat) : Nat := 18 + 3 * (hops a b + hops b a)

/-- Sends a request of a copy unit for a line whose page is known; `pkg` names the LLC. -/
def State.copyReq (s : State) (c : Copy) (t : Trans) (kind : AccKind) (line tag : Nat) (pkg : Bool) (data : Line) (mask : BitVec 64) (at_ : Nat) : State :=
  let va := 64 * line
  let attr := t.attr va
  let q := { s.mkReq { kind := kind, addr := va } (c.cluster * 8) (t.pa va) attr at_ [] (.copy c.id tag) with wdata := data, wmask := mask }
  if attr.testBit 51 then s.toWindow q
  else if atCa attr == 2 || pkg then s.toLlc q at_
  else s.toSlice q at_

/-- Writes back a line of the die's slices if it is dirty, and drops it with `inval`; one whose fill is under way then goes once its
miss list is answered (R131, R252). -/
def State.flushL2 (s : State) (die pa attr : Nat) (inval : Bool) : State :=
  let l := s.homeSlice die pa attr
  let set := l2Set pa
  let ls := s.l2Lines l set
  match ls.find? (fun c => c.tag == pa / 64) with
  | none => s
  | some c =>
    if c.miss.isSome then
      (if inval then s.setL2 l set (ls.map (fun y => if y.tag == c.tag then { y with drop := true } else y)) else s)
    else
    let s := s.setL2 l set (if inval then ls.filter (fun y => y.tag != c.tag)
      else ls.map (fun y => if y.tag == c.tag then { y with dirty := 0, feDirty := false } else y))
    if c.isDirty then s.wbL2 l c {} .none else s

/-! Preparation (R251). -/

def State.updCopy (s : State) (id : Nat) (f : Copy → Copy) : State := s.setCopy id (f (s.copy id))
def State.updCu (s : State) (c : Nat) (f : CopyUnit → CopyUnit) : State := s.updCluster c (fun k => { k with cu := f k.cu })

/-- The data of a line that is on its way to its home slice for a command, and that the slice would serve at once: the figures of R251
count such a line as read by the cycle they name, however far its home is. DEDUCED, unsafe: log 49. -/
def State.copyPeek (s : State) (c : Copy) (l : Nat) : Option Line :=
  s.reqs.findSome? (fun kq =>
    let q := kq.2
    match q.sink with
    | .copy id tag =>
      if id == c.id && tag == l + 1 && !q.llc && !q.refused && s.cycle ≤ q.at_ + 7 + 3 * hops q.stop (sliceStop q.slice) then
        ((s.l2Lines q.slice (l2Set q.pa)).find? (fun y => y.tag == q.pa / 64 && y.miss.isNone)).map (·.data)
      else none
    | _ => none)

/-- The lines of a chunk, where all of them have been read or count as read; the command with them. -/
def State.copyGather (s : State) (c : Copy) : List Nat → Option Copy
  | [] => some c
  | l :: t =>
    match (c.lines.lookup l).orElse (fun _ => s.copyPeek c l) with
    | some d => s.copyGather { c with lines := tins c.lines l d } t
    | none => none

/-- The unit prepares chunks of its oldest command, each at the time that R251 gives; one whose X is not 0, never before all its
lines have come to the unit. DEDUCED, unsafe: log 49. -/
def State.copyAdvance (s : State) (cl : Nat) : Nat → State
  | 0 => s
  | n + 1 =>
    let u := (s.cluster cl).cu
    if (s.mill (cl / 4)).stopping then s
    else match u.queue.find? (fun id => (s.copy id).next < (s.copy id).count) with
    | none => s
    | some id =>
      let c := s.copy id
      let i := c.next
      let need := if c.kind == 0 || c.kind == 3 then c.chunkLines i else []
      let first := max (c.issue + 96 + 16 * i + c.x) (u.last + 16)
      if c.stage < 4 then s
      else if s.cycle < first && need.any (fun l => (c.lines.lookup l).isNone) then
        -- it is looked at again when it would be ready
        (if s.agenda.any (fun d => d.at_ == first && d.what == .event .copyChunkReady [id]) then s else s.post first 3 655 .copyChunkReady [id])
      else match s.copyGather c need with
        | none => s
        | some d =>
          let x := need.foldl (fun x l => max x (tget 0 c.excess l)) c.x
          if x != 0 && need.any (fun l => (c.lines.lookup l).isNone) then s
          else
          let there := if x == 0 then s.cycle else need.foldl (fun x l => max x (tget 0 c.lands l)) s.cycle
          let ready := max (max (c.issue + 96 + 16 * i + x) (u.last + 16)) there
          let s := s.setCopy id { d with next := i + 1 }
          let s := s.updCu cl (fun u => { u with last := ready })
          (s.post ready 3 660 .copyChunkReady [id, i]).copyAdvance cl n

/-- Requests lines for a command, one a cycle from the first cycle that the unit has free. -/
def State.sendLines (s : State) (id : Nat) (lines : List Nat) : State :=
  let c := s.copy id
  lines.foldl (fun s l =>
    match findTrans c.pages c.ctx (64 * l) with
    | some t =>
      let at_ := max s.cycle (s.cluster c.cluster).cu.free
      (s.updCu c.cluster (fun u => { u with free := at_ + 1 })).copyReq c t .load l (l + 1) c.pkg 0 0 at_
    | none => s) s

/-- The commands that wait for nothing but their turn send their requests, in the order of the queue (R251). DEDUCED, unsafe: log 49. -/
def State.copySend (s : State) (cl : Nat) : Nat → State
  | 0 => s
  | n + 1 =>
    match (s.cluster cl).cu.queue.find? (fun id => (s.copy id).stage != 4) with
    | none => s
    | some id =>
      let c := s.copy id
      if c.stage != 5 then s
      else
        let s := s.setCopy id { c with stage := 4 }
        (s.sendLines id (if c.kind == 0 || c.kind == 3 then c.allLines else [])).copySend cl n

/-- The tile of a command with a global side, with its pages. -/
def Copy.tile (c : Copy) : Tile :=
  let d := c.desc.toNat
  let tr := bits (c.reg 1) 31 0
  let tc := bits (c.reg 1) 63 32
  { acc := { addr := dBase d + tr * dTRows d * dPitch d + tc * dTCols d * dElsize d }, desc := c.desc, tr := tr, tc := tc, pages := c.pages, ctx := c.ctx }

/-- A command's write-backs are performed: it waits its turn to request its lines (R251). -/
def State.copyGo (s : State) (id : Nat) : State :=
  let c := s.copy id
  let s := if c.kind == 1 then s.codeStore c.tile.stores else s
  ((s.setCopy id { c with stage := 5, x := max c.x (s.cycle - c.t0), left := c.count }).copySend c.cluster 17).copyAdvance c.cluster (64 * 17)

/-- The issuing core writes back its L1 lines of the tile, and for a `cstore` drops them (R248). -/
def State.copyFlush (s : State) (id : Nat) : State :=
  let c := s.copy id
  let core := coreOf c.slot
  let pas := c.allLines.filterMap (fun l => (findTrans c.pages c.ctx (64 * l)).map (fun t => t.pa (64 * l)))
  let hit := pas.filterMap (fun pa => s.l1Find core pa)
  let dirty := hit.filter (fun l => l.dirty != 0)
  let s := hit.foldl (fun s l =>
    let set := l.tag % 256
    let ls := tget [] (s.core core).l1 set
    s.setL1 core set (if c.kind == 1 then ls.filter (fun x => x.tag != l.tag)
      else ls.map (fun x => if x.tag == l.tag then { x with dirty := 0 } else x))) s
  let s := s.updCopy id (fun c => { c with stage := 3, t0 := s.cycle })
  if dirty.isEmpty then s.copyGo id
  else
    let (j, s) := s.fresh
    let s := s.setJoin j { left := dirty.length, stage := 2, core := core, copy := some id }
    dirty.foldl (fun s l => s.wbL1 core l s.cycle (.join j)) s

/-- Every page of the tile's lines is translated in the cluster's TLB; misses are walked (R251). -/
def State.copyPages (s : State) (id : Nat) : State :=
  let c := s.copy id
  let r := c.blocks.foldl (fun (r : State × List Trans × List Nat) b =>
    match findTrans r.2.1 c.ctx (65536 * b) with
    | some _ => r
    | none =>
      match r.1.tlb c.cluster c.ctx (65536 * b) with
      | (some t, s) => (s, r.2.1 ++ [t], r.2.2)
      | (none, s) => (s, r.2.1, r.2.2 ++ [b])) (s, c.pages, [])
  let s := r.1.updCopy id (fun c => { c with pages := r.2.1, walks := r.2.2.length })
  if !r.2.2.isEmpty then r.2.2.foldl (fun s b => s.missTlb c.cluster c.ctx (65536 * b) (.copy id)) s
  else if c.kind == 1 && r.2.1.any (fun t => !atW t.leaf.toNat) then
    s.post s.cycle 3 650 .copyLateFault [id, fcPerm, ((r.2.1.find? (fun t => !atW t.leaf.toNat)).map (fun t => t.base / 65536)).getD 0]
  else (s.updCopy id (fun c => { c with x := max c.x (s.cycle - c.t0) })).copyFlush id

/-- The descriptor's page is translated, and its line read at its home. -/
def State.copyDesc (s : State) (id : Nat) : State :=
  let c := s.copy id
  let va := c.reg 0
  match s.tlb c.cluster c.ctx va with
  | (none, s) => (s.updCopy id (fun c => { c with walks := 1 })).missTlb c.cluster c.ctx va (.copy id)
  | (some t, s) =>
    let s := s.updCopy id (fun c => { c with x := max c.x (s.cycle - c.t0) })
    s.copyReq (s.copy id) t .load (va / 64) 0 false 0 0 s.cycle

/-- A command begins: its descriptor is read; a `cpush` has none. -/
def State.copyBegin (s : State) (id : Nat) : State :=
  let c := s.copy id
  if c.hasGlobal then (s.setCopy id { c with stage := 1, t0 := s.cycle }).copyDesc id
  else (s.setCopy id { c with t0 := s.cycle }).copyGo id

/-- The commands that have not begun begin: the descriptor of a command is read while those before it are prepared, so that
no chunk is later than R251 has it. DEDUCED, unsafe: log 49. -/
def State.copyNext (s : State) (cl : Nat) : State :=
  if (s.mill (cl / 4)).stopping then s
  else ((s.cluster cl).cu.queue.filter (fun id => (s.copy id).stage == 0)).foldl (fun s id => s.copyBegin id) s

/-! Delivery (R252). -/

/-- A chunk enters the queue of a guest lane as a block operation. -/
def State.laneChunk (s : State) (port id i : Nat) (kind : AccKind) (off : Nat) (data : VPair) (t : Nat) : State :=
  s.enqueuePond { kind := kind, space := .pond, addr := off + 512 * i, span := 512, aux := id, ty := i, mask := 255, data := data } port t none

/-- Lane 4 or 5 of a cluster: the one with fewer chunks of the group before it. -/
def State.chunkLane (s : State) (cl off : Nat) : Nat :=
  let n := fun lane => ((s.port (portY cl lane)).filter (fun q => offGroup q.off == offGroup off)).length
  if n 5 < n 4 then portY cl 5 else portY cl 4

/-- Chunk i goes to every destination: by lanes 4 and 5 to the own mill, as 8 flits to another. -/
def State.deliverChunk (s : State) (c : Copy) (i : Nat) (data : VPair) (t : Nat) : State :=
  let mill := millOf c.slot
  (s.copyDests c).foldl (fun s m =>
    if m == mill then s.laneChunk (s.chunkLane c.cluster (c.off + 512 * i)) c.id i .chunkStore c.off data t
    else s.offer (mill / 64) (s.part.stopOf mill) (s.part.stopOf m) 0 8 t 0 (.chunk c.id i m data)) s

/-- A kind-4 message about a copy command (R254). -/
def copyMsg (c : Copy) (die fault : Nat) (partial_ : Bool) (dst : Nat) (wide : Bool) : Msg :=
  { hdr := unitHdr 4 1 die (bits c.arrival 18 3) (if wide then 24 else 8)
    pay := BitVec.ofNat 960 (c.kind + (if partial_ then 5 else 0) * 2 ^ 8 + fault * 2 ^ 16 + c.arrival * 2 ^ 24
      + (if wide then dst * 2 ^ 64 else 0)) }

/-- A command has completed, or a late fault has aborted it (R254, R255). -/
def State.finishCopy (s : State) (id fault : Nat) : State :=
  let c := s.copy id
  let mill := millOf c.slot
  let idx := if fault != 0 && c.kind == 3 then List.range 16 else c.members (s.mill mill).crewIx
  let dst := idx.foldl (fun d k =>
    d + (if fault != 0 then fault else if c.lost.contains (s.memberMill mill k) then fcCrewout else 0) * 2 ^ (8 * k)) 0
  let s := { s with copies := tdel s.copies id }
  let s := s.updCu c.cluster (fun u => { u with queue := u.queue.filter (· != id) })
  let s := s.updSlot (s.follow c.slot) (fun x => if x.thread == c.thread then x.ringDone c.seq 0 else x)
  let s := if c.msg then
      s.sendAt (s.cycle + 8) { msg := copyMsg c (mill / 64) fault (fault != 0 || !c.lost.isEmpty) dst (c.kind == 3), dest := .slot c.slot, thread := c.thread }
    else s
  let s := s.updMill mill (fun m => { m with sb := m.sb.filter (fun e => !(e.chunk && e.owner == id)) })
  match (s.mill mill).launch with
  | some l => s.post (s.cycle + 1) 8 (s.mill mill).crew .taskEnd [l, (s.mill mill).crew]
  | none => s

/-- Completes a command whose last chunk has committed at every destination that is left, or whose last line has been
performed (R254). -/
def State.copyCheck (s : State) (id : Nat) : State :=
  let c := s.copy id
  if c.id == 0 then s
  else if c.kind == 1 then (if c.left == 0 && c.linesLeft == 0 && c.stage == 4 then s.finishCopy id 0 else s)
  else if (s.copyDests c).all (fun m => c.lost.contains m || tget 0 c.committed m == c.count) then s.finishCopy id 0
  else s

/-- COPY_CHUNK_READY: with one number, the command goes on (its descriptor has come, a walk is answered, its write-backs are performed, a chunk may be ready); with two, a chunk is ready; with three, a source chunk has been read; with four, a line has been
read, or written, at its home (R251, R252). A command leaves the queue of 16 once its last chunk is ready. DESIGN CHOICE, unsafe: log 144. -/
def execCopyChunkReady (s : State) : Result :=
  let id := s.arg.headD 0
  let c := s.copy id
  if c.id == 0 then .next (match s.arg with | [_, _, r, _] => s.delReq r | _ => s)
  else
    match s.arg.drop 1 with
    | [] =>
      (match c.stage with
      | 1 => .next ((s.setCopy id { c with walks := 0 }).copyDesc id)
      | 6 =>
        -- the descriptor has come to the unit
        if dBad c.desc.toNat then .next (s.post s.cycle 3 650 .copyLateFault [id, fcIllop, c.reg 0 / 65536])
        else .next ((s.setCopy id { c with stage := 2, t0 := s.cycle }).copyPages id)
      | 2 => if 1 < c.walks then .next (s.setCopy id { c with walks := c.walks - 1 }) else .next ((s.setCopy id { c with walks := 0 }).copyPages id)
      | 3 => .next (s.copyGo id)
      | _ => .next (s.copyAdvance c.cluster (64 * 17)))
    | [i] =>
      -- while its crew is being saved, a chunk goes to the quarantine (R373)
      if c.hold then .next (s.setCopy id { c with quar := c.quar ++ [(i, if c.kind == 0 || c.kind == 3 then c.chunkData i else 0)] })
      else
      let c := { c with fired := c.fired + 1 }
      let s := s.setCopy id c
      let s := if i + 1 == c.count then s.updCu c.cluster (fun u => { u with queue := u.queue.filter (· != id) }) else s
      (match c.kind with
      | 0 => .next (s.deliverChunk c i (c.chunkData i) s.cycle)
      | 3 => .next (s.deliverChunk c i (c.chunkData i) s.cycle)
      | 1 => .next (s.laneChunk (s.chunkLane c.cluster (c.off + 512 * i)) id i .chunkLoad c.off 0 s.cycle)
      | _ => .next (s.laneChunk (s.chunkLane c.cluster (c.reg 0 + 512 * i)) id i .chunkLoad (c.reg 0) 0 s.cycle))
    | [i, _] => .next (s.deliverChunk c i (tget 0 c.image i) (s.cycle + 1))
    | [tag, r, land] =>
      let q := s.req r
      let excess := land - q.at_ - statedTime q.stop (sliceStop q.slice)
      let s := s.delReq r
      if c.stage == 1 then
        .next ((s.setCopy id { c with desc := q.rdata, x := max c.x excess, stage := 6 }).post land 3 650 .copyChunkReady [id])
      else if c.kind == 1 then .next ((s.setCopy id { c with linesLeft := c.linesLeft - 1 }).copyCheck id)
      else
        let l := tag - 1
        .next ((s.setCopy id { c with
          lines := tins c.lines l q.rdata, excess := tput 0 c.excess l excess
          lands := tput 0 c.lands l land }).copyAdvance c.cluster (64 * 17))
    | _ => .next s

/-- CHUNK_WRITE: with two numbers, the arrival word of a command is cleared in a mill (R248); with four, a chunk has
arrived at the network port of its mill, which registers the command, and lane 6 takes it; it waits for an entry or for
an operand range (R252, R253, R256). DEDUCED, unsafe: log 47. -/
def execChunkWrite (s : State) : Result :=
  let mill := s.arg.headD 0
  let id := s.arg.getD 1 0
  let c := s.copy id
  if c.id == 0 then .next s
  else
    match s.arg.drop 2 with
    | [] =>
      if (s.mill mill).isDry c.arrival then .next s else .next ((s.pondWrite mill c.arrival 8 0).chkTest mill c.arrival)
    | i :: data :: _ =>
      let m := s.mill mill
      let again := s.post (s.cycle + 1) 3 600 .chunkWrite s.arg
      if m.launch != some c.launch || m.crew != c.crew then
        -- the mill has left the crew (R254)
        .next ((s.setCopy id { c with lost := if c.lost.contains mill then c.lost else c.lost ++ [mill] }).copyCheck id)
      else
        let known := m.sb.any (fun e => e.chunk && e.owner == id)
        let lo := c.off
        let hi := c.off + 512 * c.count
        if !known && (64 ≤ m.sb.length || m.sb.any (fun e => !e.chunk && lo < e.hi && e.lo < hi)) then
          .next (if m.stopping then s.updMill mill (fun m => { m with stuck := m.stuck ++ [s.arg.drop 1] }) else again)
        else
          let s := if known then s
            else s.updMill mill (fun m => { m with sb := m.sb ++ [{ chunk := true, owner := id, lo := lo, hi := hi, arrival := c.arrival }] })
          let best := ((List.range 4).filter (fun k => !(s.cluster (mill * 4 + k)).retired)).foldl (fun (b : Option (Nat × Nat)) k =>
            let t := m.faces k (offGroup (lo + 512 * i)) s.cycle
            match b with
            | some (t0, _) => if t < t0 then some (t, k) else b
            | none => some (t, k)) none
          (match best with
          | some (_, k) => .next (s.laneChunk (portY (mill * 4 + k) 6) id i .chunkStore lo (BitVec.ofNat 4096 data) s.cycle)
          | none => .next again)
    | _ => .next s

/-- The lines of chunk i of a `cstore` go to their homes (R252). -/
def State.storeChunk (s : State) (id i : Nat) : State :=
  let c := s.copy id
  let r := (c.chunkLines i).foldl (fun (r : State × Nat) l =>
    match findTrans c.pages c.ctx (64 * l) with
    | none => r
    | some t =>
      let w := c.lineOut i l
      let s := if c.pkg then r.1.flushL2 (c.cluster / 256) (t.pa (64 * l)) (t.attr (64 * l)) true else r.1
      (s.copyReq c t .store l (l + 1) c.pkg (BitVec.ofNat 512 w.1) (BitVec.ofNat 64 w.2) (s.cycle + r.2), r.2 + 1)) (s, 0)
  (r.1.updCopy id (fun c => { c with left := c.left - 1, linesLeft := c.linesLeft + r.2 })).copyCheck id

/-- COPY_COMPLETE: a chunk has committed at a mill, and its arrival bit is set: the scoreboard, the NOTE of the
destination and the completion of the command follow (R252, R254, R256). The 8 cycles of R254 count from this
event's own cycle, the phase 7 of the chunk's turn. DESIGN CHOICE, unsafe: log 142. -/
def execCopyComplete (s : State) : Result :=
  let id := s.arg.headD 0
  let mill := s.arg.getD 1 0
  let i := s.arg.getD 2 0
  let c := s.copy id
  if c.id == 0 then .next s
  else if c.kind == 1 then .next (s.storeChunk id i)
  else
    let n := tget 0 c.committed mill + 1
    let s := s.setCopy id { c with committed := tput 0 c.committed mill n }
    let s := s.updMill mill (fun m => { m with sb := (m.sb.map (fun e =>
      if e.chunk && e.owner == id then { e with got := e.got ||| 2 ^ i } else e)).filter (fun e => !(e.chunk && e.owner == id && n == c.count)) })
    let s := if n == c.count && c.note then
        s.sendAt (s.cycle + 8) { msg := copyMsg c (mill / 64) 0 false 0 false, dest := .slot (mill * 512 + c.mbox) }
      else s
    .next (s.copyCheck id)

/-- COPY_LATE_FAULT: the descriptor is malformed, or a walk has failed: the command writes nothing and completes at
once (R251, R255). Its address is the descriptor's, or the first of the tile's lines in the block that failed. DEDUCED, unsafe: log 50. -/
def execCopyLateFault (s : State) : Result :=
  let id := s.arg.headD 0
  let code := s.arg.getD 1 0
  let block := s.arg.getD 2 0
  let c := s.copy id
  if c.id == 0 then .next s
  else
    let va := if code == fcIllop then c.word else if c.stage == 2 then c.blockAddr block else c.reg 0
    let s := s.post s.cycle 8 c.slot .lateFault [c.slot, code, c.seq, va, c.thread, c.ctx]
    .next (((s.finishCopy id code).copySend c.cluster 17).copyAdvance c.cluster (64 * 17))

/-! Issue. -/

/-- The exact checks of R248, steps 1 to 5, in order. The source offset of a cpush is the whole
of its register. DESIGN CHOICE, unsafe: log 143. -/
def State.copyFault (s : State) (c : Copy) (word : Nat) : Option (Nat × Nat) :=
  let mill := millOf c.slot
  let r2 := c.reg 2
  let r3 := c.reg 3
  let lo := c.off
  let hi := c.off + 512 * c.count
  let n := s.crewN
  let idx := c.members (s.mill mill).crewIx
  let dry := fun (k : Nat) =>
    let off := c.arrival
    if k == (s.mill mill).crewIx then (s.mill mill).isRetired off
    else (((s.mill mill).holes[k]?).getD 0).getLsbD (8 * offGroup off + offBank off)
  if r3 / 2 ^ 41 != 0 || bits r3 15 10 != 0 || r2 / 2 ^ 42 != 0 || (c.kind != 3 && c.cmask != 0) || (c.kind < 2 && c.note)
      || (c.kind == 2 && c.reg 1 / 16 != 0) then some (fcIllop, word)
  else if c.hasGlobal && 2 ^ 57 ≤ c.reg 0 then some (fcSpace, c.reg 0)
  else if c.count == 0 || 64 < c.count || 2 ^ 21 < hi || (c.arrival < hi && lo < c.arrival + 8) then some (fcSpace, lo)
  else if c.kind == 2 && 2 ^ 21 < c.reg 0 + 512 * c.count then some (fcSpace, c.reg 0)
  else if c.hasGlobal && c.reg 0 % 64 != 0 then some (fcAlign, c.reg 0)
  else if c.kind == 2 && c.reg 0 % 512 != 0 then some (fcAlign, c.reg 0)
  else if lo % 512 != 0 then some (fcAlign, lo)
  else if c.arrival % 8 != 0 then some (fcAlign, c.arrival)
  else if (c.kind == 3 && c.cmask == 0) || (2 ≤ c.kind && idx.any (fun k => n ≤ k)) then
    some (fcCrewout, (idx.find? (fun k => n ≤ k)).getD 0)
  else if (if c.kind == 1 then [(s.mill mill).crewIx] else idx).any dry then some (fcBankret, c.arrival)
  else none

/-- A copy command issues (R246 to R248, R253). DEDUCED, unsafe: log 47. DEDUCED, unsafe: log 48. -/
def copyBody (kind : Nat) (x : Args) (s : State) : State :=
  let g := s.cur
  let mill := millOf g
  let m := s.mill mill
  let (id, s1) := s.fresh
  let c : Copy := { id := id, kind := kind, slot := g, thread := s.me.thread, launch := s.me.launch, crew := m.crew, issue := s.cycle
                    ctx := s.ctxOfSlot g, r := [s.grp x.b 0, s.grp x.b 1, s.grp x.b 2, s.grp x.b 3], word := illopDetail (encWord 0xA0 kind x) }
  match s.copyFault c c.word with
  | some f => s.raise f.1 f.2
  | none =>
    let mine := (s.copyDests c).contains mill
    let lo := c.off
    let hi := c.off + 512 * c.count
    if 16 ≤ (s.cluster c.cluster).cu.queue.length || 64 ≤ m.sb.length then s.park g .copyRoom
    else if (mine || kind == 1) && m.sb.any (fun e => !e.chunk && lo < e.hi && e.lo < hi) then s.park g .copyRoom
    else
      let (q, s) := s1.enterRing 0xA0 kind
      let s := s.setCopy id { c with seq := q }
      let s := s.updCu c.cluster (fun u => { u with queue := u.queue ++ [id] })
      let s := if mine then
          s.updMill mill (fun m => { m with sb := m.sb ++ [{ chunk := true, owner := id, lo := lo, hi := hi, arrival := c.arrival }] })
        else s
      let s := (if kind == 1 then [mill] else s.copyDests c).foldl (fun s d => s.post (s.cycle + 2) 1 0 .chunkWrite [d, id]) s
      (s.copyNext c.cluster).advance

def execCfetch (x : Args) (s : State) : Result := plain 0xA0 0 x s (copyBody 0 x)
def execCstore (x : Args) (s : State) : Result := plain 0xA0 1 x s (copyBody 1 x)
def execCpush (x : Args) (s : State) : Result := plain 0xA0 2 x s (copyBody 2 x)
def execCmcast (x : Args) (s : State) : Result := plain 0xA0 3 x s (copyBody 3 x)

end Sys2Proof.Machine
end

