-- ==== Sys2Proof/Machine/Tile.lean ====
section
/-! DEFINITION. The tile instructions (R131, R132). -/

namespace Sys2Proof.Machine

open Sys2Proof

def State.tile (s : State) (o : Nat) : Tile := tget {} s.tiles o
def State.setTile (s : State) (o : Nat) (x : Tile) : State := { s with tiles := tins s.tiles o x }

/-- The pond offset of the image, and its stripes. -/
def Tile.off (x : Tile) : Nat := x.acc.aux % 2 ^ 21
def Tile.stripes (x : Tile) : Nat := (dTRows x.desc.toNat * rowPitch x.desc.toNat + 511) / 512
/-- The scope: PKG, or DIE. -/
def Tile.pkg (x : Tile) : Bool := x.acc.ty == 6
def Tile.store (x : Tile) : Bool := x.acc.kind == .tileStore
def Tile.isAon (x : Tile) : Bool := x.acc.kind == .tileLoad true

/-- Stripe k of the image (R131, R250): the tile's rows at the row pitch, zeros as padding. -/
def Tile.stripe (x : Tile) (k : Nat) : VPair :=
  BitVec.ofNat 4096 (packBits 8 ((List.range 512).map (fun b =>
    match imageByte x.desc.toNat x.tr x.tc (512 * k + b) with
    | some (a, _) => bits (tget 0 x.lines (a / 64)).toNat (8 * (a % 64) + 7) (8 * (a % 64))
    | none => 0)))

/-- What a `tstg` writes to a line: the bytes of the tile's elements there. -/
def Tile.lineOut (x : Tile) (line : Nat) : Nat × Nat :=
  (List.range 64).foldl (fun (w : Nat × Nat) b =>
    let a := 64 * line + b
    let off := a - x.acc.addr
    let r := off / dPitch x.desc.toNat
    let q := off % dPitch x.desc.toNat
    if a < x.acc.addr || x.rows ≤ r || x.rowBytes ≤ q then w
    else
      let o := r * rowPitch x.desc.toNat + q
      (w.1 + bits (tget 0 x.image (o / 512)).toNat (8 * (o % 512) + 7) (8 * (o % 512)) * 2 ^ (8 * b), w.2 + 2 ^ b)) (0, 0)

/-- A tile operation ends: its entry lands with a fault. -/
def State.tileFault (s : State) (o code addr : Nat) : State :=
  let a := (s.tile o).acc
  let s := { s with tiles := tdel s.tiles o }
  (s.accessFault a code addr).done a.slot a.uid

/-- The pages of the tile are translated, and their faults found; then the core's L1 gives up the lines, whose write-backs, with
those that have left before, are awaited (R110).
An image that runs past the end of the pond yields SPACE at the marker. DESIGN CHOICE, unsafe: log 13. DEDUCED, unsafe: log 51.
DESIGN CHOICE, unsafe: log 117. -/
def State.tileBegin (s : State) (o : Nat) : State :=
  let x := s.tile o
  let a := x.acc
  let cl := x.core / 8
  match s.tlb cl x.ctx a.addr with
  | (none, s) => ({ s with tiles := tdel s.tiles o }).missTlb cl x.ctx a.addr (.access a)
  | (some t, s) =>
    let at_ := t.leaf.toNat
    let d := (Config.tileDescriptor x.ctx (atDidx at_)).toNat
    match (if atTm at_ then tileOrigin d a.addr else none) with
    | none => s.tileFault o fcPerm a.addr
    | some (tr, tc) =>
      let x := { x with desc := BitVec.ofNat 512 d, tr := tr, tc := tc }
      let blocks := onceEach (x.linesOf.map (· / 1024))
      let r := blocks.foldl (fun (r : State × List Trans × List Nat) b =>
        match r.1.tlb cl x.ctx (65536 * b) with
        | (some t, s) => (s, r.2.1 ++ [t], r.2.2)
        | (none, s) => (s, r.2.1, r.2.2 ++ [b])) (s, [], [])
      let s := r.1
      if !r.2.2.isEmpty then
        r.2.2.foldl (fun s b => s.missTlb cl x.ctx (65536 * b) (.access a)) { s with tiles := tdel s.tiles o }
      else if r.2.1.any (fun t => !atTm t.leaf.toNat || (x.store && !atW t.leaf.toNat)) then s.tileFault o fcPerm a.addr
      else if 2 ^ 21 < x.off + 512 * x.stripes then s.tileFault o fcSpace x.off
      else
        let x := { x with pages := r.2.1 }
        let s := s.setTile o x
        let s := if x.store then s.codeStore x.stores else s
        let pas := x.linesOf.filterMap (fun l => (findTrans x.pages x.ctx (64 * l)).map (fun t => t.pa (64 * l)))
        let dirty := (pas.filterMap (fun pa => s.l1Find x.core pa)).filter (fun l => l.dirty != 0)
        let (j, s) := s.fresh
        let (n, s) := s.awaitReqs j (fun q => !q.llc && q.core == x.core + 1 && pas.any (fun pa => pa / 64 == q.pa / 64))
        let s := s.setJoin j { left := n + dirty.length, stage := 2, core := x.core, tile := some o }
        let s := pas.foldl (fun s pa => s.flushL1 x.core pa s.cycle (.join j)) s
        if n == 0 && dirty.isEmpty then ({ s with joins := tdel s.joins j }).post s.cycle 3 650 .tldgAonRetry [o, 1, 0] else s

/-- The stop of the tile's home slice, and its first line. -/
def State.tileHome (s : State) (x : Tile) : Nat × Nat :=
  match findTrans x.pages x.ctx x.acc.addr with
  | some t => (sliceStop (s.homeSlice (x.core / 2048) (t.pa x.acc.addr) (t.attr x.acc.addr)), t.pa x.acc.addr / 64)
  | none => (0, 0)

/-- The way to the tile's home, or back. -/
def State.tileWay (s : State) (x : Tile) : Nat :=
  if x.pkg then 1 else 3 * hops (s.part.stopOf (x.core / 32)) (s.tileHome x).1

/-- The stripes of the image pass through guest lane 6, to be read or written (R131). -/
def State.tilePond (s : State) (o : Nat) : State :=
  let x := s.tile o
  let s := s.setTile o { x with left := x.stripes }
  s.enqueuePond { kind := x.acc.kind, space := .pond, addr := x.off, span := 512 * x.stripes, aux := o } (portY (x.core / 8) 6) (s.cycle + 2) none

/-- Whether a line of the die's slices is being filled, or its miss list answered (R116). -/
def State.underFill (s : State) (die pa attr : Nat) : Bool :=
  let l := s.homeSlice die pa attr
  (s.l2Lines l (l2Set pa)).any (fun c => c.tag == pa / 64 && c.miss.isSome) || (s.slice l).answer.any (fun r => (s.req r).pa / 64 == pa / 64)

/-- One line of a tile is one request (R115, R132) that leaves at `t`; at the LLC the die's copies give way first, and a load waits for
one that the slice is still filling, since a store may wait for the fill (R131). -/
def State.tileLine (s : State) (o l t : Nat) : State :=
  let x := s.tile o
  match findTrans x.pages x.ctx (64 * l) with
  | none => s
  | some tr =>
    let die := x.core / 2048
    let pa := tr.pa (64 * l)
    let attr := tr.attr (64 * l)
    let w := if x.store then x.lineOut l else (0, 0)
    let q : GReq := { s.mkReq { kind := x.acc.kind, addr := 64 * l, bud := x.acc.bud, d := x.acc.d } x.core pa attr s.cycle [] (.tile o) with
      wdata := BitVec.ofNat 512 w.1, wmask := BitVec.ofNat 64 w.2 }
    if attr.testBit 51 then s.toWindow q
    else if x.pkg || atCa attr == 2 then
      (if !x.store && s.underFill die pa attr then s.post (s.cycle + 1) 3 640 .tldgAonRetry [o, 7, l]
      else (s.flushL2 die pa attr x.store).toLlc q t)
    else s.toSlice { q with stop := (s.tileHome x).1 } t

/-- At the home: every line is one request, on consecutive cycles, and they lie between two reads of the version or its two changes (R115,
R132, R348). -/
def State.tileLines (s : State) (o : Nat) : State :=
  let ls := (s.tile o).linesOf
  let s := s.setTile o { s.tile o with left := ls.length }
  ls.zipIdx.foldl (fun s l => s.tileLine o l.1 (s.cycle + l.2)) s

/-- An attempt of `tldg.aon` has failed: it waits 32 cycles, and then tries again, 64 times at most, after which it is
TORN (R132, R348). -/
def State.tileMissed (s : State) (o : Nat) : State :=
  let x := s.tile o
  if x.tries < 64 then (s.setTile o { x with tries := x.tries + 1 }).post (s.cycle + 32) 3 640 .tldgAonRetry [o, 3, 0]
  else (s.setTile o { x with torn := true }).post (s.cycle + 32 + s.tileWay x) 3 640 .tldgAonRetry [o, 4, 0]

/-- One try at the home (R132): a store makes the version odd before its lines (R348), and an `.aon` read of an odd one has failed. A store of the tile waits while another has made its version odd, so that the version is odd as
long as any is under way. DEDUCED, unsafe: log 51. DEDUCED, unsafe: log 116. -/
def State.tileTry (s : State) (o : Nat) : State :=
  let x := s.tile o
  let key := (s.tileHome x).2
  let ver := tget 0 s.versions key
  if x.store then
    if ver % 2 == 1 then s.post (s.cycle + 1) 3 640 .tldgAonRetry [o, 3, 0]
    else ({ s with versions := tput 0 s.versions key ((ver + 1) % 2 ^ 64) }).tileLines o
  else if x.isAon && ver % 2 == 1 then s.tileMissed o
  else (s.setTile o { x with ver := ver }).tileLines o

/-- Every line has been served: a store raises the version again; `tldg.aon` checks it (R132, R348). -/
def State.tileServed (s : State) (o : Nat) : State :=
  let x := s.tile o
  let key := (s.tileHome x).2
  let ver := tget 0 s.versions key
  let back := s.cycle + s.tileWay x
  if x.store then
    ({ s with versions := tput 0 s.versions key ((ver + 1) % 2 ^ 64) }).post back 3 640 .tldgAonRetry [o, 6, 0]
  else if x.isAon && ver != x.ver then s.tileMissed o
  else s.post back 3 640 .tldgAonRetry [o, 4, 0]

/-- The status lands (R131), TORN or OK (R348), with the version as it stands then; what the core's L1 has fetched of the lines since the operation began may
be older than what it has read or written, and goes (R110, R335, R341). DEDUCED, unsafe: log 51. DESIGN CHOICE, unsafe: log 117. -/
def State.tileEnd (s : State) (o : Nat) : State :=
  let x := s.tile o
  let a := x.acc
  let ver := tget 0 s.versions (s.tileHome x).2
  let v := (if x.torn then 8 else 0) + x.tries % 256 * 2 ^ 8 + ver % 2 ^ 48 * 2 ^ 16
  let s := { s with tiles := tdel s.tiles o }
  let pas := x.linesOf.filterMap (fun l => (findTrans x.pages x.ctx (64 * l)).map (fun t => t.pa (64 * l) / 64))
  let s := s.dropStale (coreOf (s.follow a.slot)) (fun l => pas.contains l.tag)
  let s := s.updEntry a.slot a.uid (fun e => e.orVal 0 (BitVec.ofNat 2048 v))
  (s.landAt a.slot a.uid s.cycle).done a.slot a.uid

/-- The image that a load leaves (R131, R132): zeros where the attempts read no line, each having met an odd version.
DESIGN CHOICE, unsafe: log 117. -/
def Tile.imageOf (x : Tile) : Tab VPair := (List.range x.stripes).foldl (fun t i => tput 0 t i (x.stripe i)) []

/-- TLDG_AON_RETRY: with two numbers, a line of a tile has been served; else a tile operation goes on: 0 translates, 1
begins, 2 has read a stripe, 3 tries at the home, 4 is back with its lines, 5 has written a stripe, 6 ends, 7 tries a line again (R131,
R132, R348). -/
def execTldgAonRetry (s : State) : Result :=
  let o := s.arg.headD 0
  let k := s.arg.getD 1 0
  let x := s.tile o
  if (s.tiles.lookup o).isNone then .next s
  else
    match s.arg.drop 2 with
    | [] =>
      let q := s.req k
      let s := s.delReq k
      let l := q.acc.addr / 64
      let s := s.setTile o { x with left := x.left - 1, lines := if x.store then x.lines else tins x.lines l q.rdata }
      .next (if x.left ≤ 1 then s.tileServed o else s)
    | _ =>
      if k == 0 then .next (s.tileBegin o)
      else if k == 1 then .next (if x.store then s.tilePond o else s.post (s.cycle + 6 + s.tileWay x) 3 640 .tldgAonRetry [o, 3, 0])
      else if k == 2 then
        let s := s.setTile o { x with left := x.left - 1 }
        .next (if x.left ≤ 1 then s.post (s.cycle + 6 + s.tileWay x) 3 640 .tldgAonRetry [o, 3, 0] else s)
      else if k == 3 then .next (s.tileTry o)
      else if k == 4 then .next ((s.setTile o { x with image := x.imageOf }).tilePond o)
      else if k == 5 then
        let s := s.setTile o { x with left := x.left - 1 }
        .next (if x.left ≤ 1 then s.post (s.cycle + 6) 1 0 .tldgAonRetry [o, 6, 0] else s)
      else if k == 7 then .next (s.tileLine o (s.arg.getD 2 0) s.cycle)
      else .next (s.tileEnd o)

/-- tldg, tstg and their `.aon` forms issue (R131); tldg.aon too uses its own D and BUD (R40, R119). DESIGN CHOICE, unsafe: log 129.
A pond offset of
2^21 or more raises SPACE, after that of the address and before its own ALIGN. DESIGN CHOICE, unsafe: log 154. -/
def tileBody (kind : AccKind) (x : Args) (s : State) : State :=
  let va := (s.grp x.b 0).toNat
  let p := (s.grp x.b 1).toNat
  if 2 ^ 57 ≤ va then s.raise fcSpace va
  else if 2 ^ 21 ≤ p then s.raise fcSpace p
  else if p % 512 != 0 then s.raise fcAlign p
  else s.issueLoad { hinted x { kind := kind, addr := va, aux := p } with ty := x.c.immInt.toNat } (regS x) 1 0

def execTldg (x : Args) (s : State) : Result := buffered 0x63 0 x s (tileBody (.tileLoad false) x)
def execTstg (x : Args) (s : State) : Result := buffered 0x63 1 x s (tileBody .tileStore x)
def execTldgAon (x : Args) (s : State) : Result := buffered 0x63 2 x s (tileBody (.tileLoad true) x)
/-- `tstg.aon` writes and counts versions exactly as `tstg` does (R132). -/
def execTstgAon (x : Args) (s : State) : Result := buffered 0x63 3 x s (tileBody .tileStore x)

end Sys2Proof.Machine
end

