-- ==== Sys2Proof/Machine/Combine.lean ====
section
/-! DEFINITION. The combine buffer (R395 to R402). -/

namespace Sys2Proof.Machine

open Sys2Proof

def State.queue (s : State) (die q : Nat) : CQueue := tget {} (s.die die).queues q
def State.setQueue (s : State) (die q : Nat) (x : CQueue) : State := s.updDie die (fun d => { d with queues := tput {} d.queues q x })
def State.cslot (s : State) (die n : Nat) : CSlot := tget {} (s.die die).cslots n
def State.setCslot (s : State) (die n : Nat) (x : CSlot) : State := s.updDie die (fun d => { d with cslots := tput {} d.cslots n x })
def State.control (s : State) (c : Nat) : CtlReq := tget {} s.controls c

/-! The configuration of a queue (R395). -/

def CQueue.word (x : CQueue) (i : Nat) : Nat := ((x.cfg[i]?).getD 0).toNat
def CQueue.renorm (x : CQueue) : Bool := (x.word 0).testBit 8
def CQueue.outTy (x : CQueue) : Nat := bits (x.word 0) 20 16
def CQueue.inTy (x : CQueue) : Nat := if bits (x.word 0) 28 24 == 0 then x.outTy else bits (x.word 0) 28 24
def CQueue.deadline (x : CQueue) : Nat := x.word 1
def CQueue.rslot (x : CQueue) : Nat := x.word 2
/-- Bytes of a chunk of 256 output elements. -/
def CQueue.chunk (x : CQueue) : Nat := if x.outTy == 10 then 1024 else 512

/-! What a slot computes (R399). -/

/-- The listed experts in ascending index, with their gates. -/
def CSlot.gateOf (c : CSlot) (e : Nat) : Nat := ((c.experts.zip c.gates).lookup e).getD 0
def CSlot.sorted (c : CSlot) : List Nat := (List.range 256).filter (fun e => c.experts.contains e)
def CSlot.has (c : CSlot) (e : Nat) : Bool := (c.deposits.lookup e).isSome
def CSlot.complete (c : CSlot) : Bool := c.experts.all c.has
/-- Bit i set when expert i of the list has deposited (R400). -/
def CSlot.present (c : CSlot) : Nat := (c.experts.zipIdx).foldl (fun p ei => if c.has ei.1 then p + 2 ^ ei.2 else p) 0

/-- The experts of the sum and their gates, with the flags of renorming. -/
def CSlot.weights (c : CSlot) (renorm : Bool) : List (Nat × Num) × Nat :=
  if c.complete || !renorm then (c.sorted.map (fun e => (e, decodeFloat 10 (c.gateOf e))), 0)
  else
    let g := c.sorted.filter c.has
    let sum := g.foldl (fun (a : Nat × Nat) e =>
      let r := roundRes 10 0 (numAdd 0 (decodeFloat 10 a.1) (decodeFloat 10 (c.gateOf e)))
      (r.1, a.2 ||| r.2)) (0, 0)
    g.foldl (fun (a : List (Nat × Num) × Nat) e =>
      let r := roundRes 10 0 (numDiv (decodeFloat 10 (c.gateOf e)) (decodeFloat 10 sum.1))
      (a.1 ++ [(e, decodeFloat 10 r.1)], a.2 ||| r.2)) ([], sum.2)

/-- Element i of the output, and its flags. -/
def CSlot.element (c : CSlot) (x : CQueue) (ws : List (Nat × Num)) (i : Nat) : Nat × Nat :=
  let acc := ws.foldl (fun (a : Nat × Nat) w =>
    let y := match c.deposits.lookup w.1 with
      | some d => decodeFloat x.inTy (bits d.toNat (16 * i + 15) (16 * i))
      | none => .fin false 0 0
    let r := roundRes 10 0 (numFma 0 w.2 y (decodeFloat 10 a.1))
    (r.1, a.2 ||| r.2)) (0, 0)
  let r := roundTo x.outTy (decodeFloat 10 acc.1) 0 0
  (r.1, acc.2 ||| r.2)

/-- The slot combines at the present cycle. -/
def State.combine (s : State) (die n : Nat) : State :=
  let c := s.cslot die n
  let x := s.queue die c.q
  let w := c.weights x.renorm
  let es := (List.range 256).map (c.element x w.1)
  let size := tyBits x.outTy
  let out := packBits size (es.map (·.1))
  let ready := s.cycle + 8 * w.1.length + 8
  let c := { c with
    st := 2, ready := ready, flags := es.foldl (fun f e => f ||| e.2) w.2
    out := (List.range (x.chunk / 64)).map (fun k => BitVec.ofNat 512 (out / 2 ^ (512 * k))) }
  (s.setCslot die n c).post ready 3 670 .combineRelease [die, n]

/-! Requests to the combine control and to the slices. -/

/-- The answer of a control: it lands 2 cycles after it reaches the issuing mill's port (R395). -/
def State.answer (s : State) (die stop c val : Nat) (flt : Option (Nat × Nat)) : State :=
  let r := s.control c
  -- a request that faulted is kept for a replay (R19, R396)
  let s := if flt.isSome then s else { s with controls := tdel s.controls c }
  let g := s.follow r.slot
  s.offer die stop (s.part.stopOf (millOf g)) 0 1 s.cycle 3 (.crewResp g r.uid (BitVec.ofNat 4096 val) flt)

/-- `cbq` at the control (R395). -/
def State.serveCbq (s : State) (die c : Nat) : State :=
  let r := s.control c
  let q := bits (r.r.headD 0).toNat 5 0
  let x := s.queue die q
  if !x.order.isEmpty || (x.ctx.isSome && x.ctx != some r.ctx) then s.answer die 60 c 2 none
  else (s.setQueue die q { x with ctx := some r.ctx, cfg := r.r, late := 0 }).answer die 60 c 0 none

/-- `cbres` at the control: the destination is translated, as a store, then a slot is taken (R396). DEDUCED, unsafe: log 52. -/
def State.serveCbres (s : State) (die c : Nat) : State :=
  let r := s.control c
  let w := (r.r.headD 0).toNat
  let q := bits w 5 0
  let k := bits w 11 8
  let dest := ((r.r[2]?).getD 0).toNat
  let x := s.queue die q
  match s.walkNow r.ctx dest with
  | .fault code => s.answer die 60 c 0 (some (code, dest))
  | .next _ => s.answer die 60 c 0 (some (fcPage, dest))
  | .leaf t =>
    if !atW t.leaf.toNat then s.answer die 60 c 0 (some (fcPerm, dest))
    else if x.ctx != some r.ctx then s.answer die 60 c 3 none
    else if dest % x.chunk != 0 then s.answer die 60 c 0 (some (fcAlign, dest))
    else
      let pa := t.pa dest
      let start := s.homeSlice die pa (t.attr dest) % 128 * 16
      match ((List.range 2048).map (fun i => (start + i) % 2048)).find? (fun n => (s.cslot die n).st == 0) with
      | none => s.answer die 60 c 3 none
      | some n =>
        let old := s.cslot die n
        let gen := (old.gen + 1) % 32
        let dl := if x.deadline == 0 then none else some (s.cycle + x.deadline)
        let slot : CSlot := {
          gen := gen, st := 1, q := q, used := true, token := bits w 63 32, chunk := bits w 31 16
          experts := (List.range k).map (fun i => bits ((r.r[1]?).getD 0).toNat (8 * i + 7) (8 * i))
          gates := (List.range k).map (fun i => lane (r.gates.setWidth 4096) i), deadline := dl, dest := dest, pa := pa, attr := t.attr dest }
        let s := s.setCslot die n slot
        let s := s.setQueue die q { x with order := x.order ++ [n] }
        let s := match dl with
          | some d => s.post d 1 300 .combineDeadline [die, n, gen]
          | none => s
        s.answer die 60 c ((gen * 2048 + n) * 65536) none

/-- `cbstat` at the slice of its slot (R402). -/
def State.serveCbstat (s : State) (die c : Nat) : State :=
  let h := ((s.control c).r.headD 0).toNat
  let n := bits h 10 0
  let x := s.cslot die n
  let v := if x.gen != bits h 15 11 then 3
    else x.st + x.q * 2 ^ 8 + (if x.st == 0 then 0 else x.present) * 2 ^ 40 + (if x.used then (s.queue die x.q).late else 0) * 2 ^ 48
  s.answer die (n / 32) c v none

/-- COMBINE_CONTROL_SERVE: a request has arrived, or its turn has come: one per cycle in arrival order (R395). -/
def execCombineControlServe (s : State) : Result :=
  let die := s.arg.headD 0
  let c := s.arg.getD 1 0
  let r := s.control c
  let unit_ := if r.kind == 2 then bits (r.r.headD 0).toNat 10 4 else 128
  let serve := fun (s : State) => match r.kind with
    | 0 => s.serveCbq die c
    | 1 => s.serveCbres die c
    | _ => s.serveCbstat die c
  if (s.controls.lookup c).isNone then .next s
  else if s.arg.length == 3 then .next (serve s)
  else
    let t := max s.cycle (tget 0 (s.die die).ctlFree unit_)
    let s := s.updDie die (fun d => { d with ctlFree := tput 0 d.ctlFree unit_ (t + 1) })
    if t == s.cycle then .next (serve s) else .next (s.post t 3 605 .combineControlServe [die, c, 1])

/-- What a deposit performed now changes, and its status (R398). DEDUCED, unsafe: log 53. DEDUCED, unsafe: log 54. -/
def State.deposit (s : State) (die n gen expert : Nat) (data : VPair) : Nat × State :=
  let c := s.cslot die n
  let late := fun (s : State) =>
    if c.used then
      let x := s.queue die c.q
      (4, s.setQueue die c.q { x with late := min (x.late + 1) 65535 })
    else (4, s)
  if c.st == 0 || c.gen != gen then late s
  else if !c.experts.contains expert then (3, s)
  else if c.has expert then (2, s)
  else if c.deadline.any (fun d => decide (d ≤ s.cycle)) then late s
  else
    let c := { c with deposits := tins c.deposits expert data }
    let s := s.setCslot die n c
    (0, if c.complete then s.combine die n else s)

/-- CBPUT_DEPOSIT: the tail of a deposit has reached its slot's slice (R397, R398). -/
def execCbputDeposit (s : State) : Result :=
  let d := s.arg.headD 0
  let r := s.control d
  if (s.controls.lookup d).isNone then .next s
  else
    let h := (r.r.headD 0).toNat
    let die := dieOf r.slot
    let p := s.deposit die (bits h 10 0) (bits h 15 11) (bits h 23 16) r.data
    .next (p.2.answer die (bits h 10 5) d p.1 none)

/-- COMBINE_DEADLINE: an open slot combines at its deadline (R398, R399). -/
def execCombineDeadline (s : State) : Result :=
  let die := s.arg.headD 0
  let n := s.arg.getD 1 0
  let c := s.cslot die n
  if c.st == 1 && c.gen == s.arg.getD 2 0 && c.deadline.any (fun d => decide (d ≤ s.cycle)) then .next (s.combine die n) else .next s

/-- The messages of a queue's releases go out in order, each once its lines are performed (R400). -/
def State.sendRels (s : State) (die q : Nat) : Nat → State
  | 0 => s
  | k + 1 =>
    let x := s.queue die q
    match x.rels with
    | [] => s
    | r :: rest =>
      let y : CRel := tget {} s.rels r
      if y.left != 0 then s
      else
        let s := { s with rels := tdel s.rels r }
        let s := s.setQueue die q { x with rels := rest }
        (s.sendAt (s.cycle + 8) { msg := y.msg, dest := .slot y.dest }).sendRels die q k

/-- The release of a combined slot (R400): its lines go to their homes as a store that bypasses the L1, and it is
free. DEDUCED, unsafe: log 39. -/
def State.releaseSlot (s : State) (die n : Nat) : State :=
  let c := s.cslot die n
  let x := s.queue die c.q
  let (r, s) := s.fresh
  let msg : Msg := {
    span := x.chunk
    hdr := unitHdr 7 3 die (c.token % 65536) 24
    pay := BitVec.ofNat 960 ((if c.complete then 0 else 5) + c.present * 2 ^ 32 + c.flags * 2 ^ 40 + (c.gen * 2048 + n) * 2 ^ 64
      + c.chunk * 2 ^ 80 + c.token * 2 ^ 96 + c.dest * 2 ^ 128) }
  let s := { s with rels := tins s.rels r { die := die, q := c.q, left := c.out.length, dest := x.rslot, msg := msg } }
  let s := s.setCslot die n { gen := c.gen, q := c.q, used := true }
  let s := s.setQueue die c.q { x with order := x.order.drop 1, rels := x.rels ++ [r] }
  let s := s.codeStore (c.out.zipIdx.map (fun li => ((c.pa + 64 * li.2) / 64, c.attr, BitVec.allOnes 64)))
  (c.out.zipIdx.foldl (fun s li =>
    let pa := c.pa + 64 * li.2
    let attr := c.attr % 2 ^ 128 + 2 ^ 128 * (c.dest + 64 * li.2)
    let q : GReq := { acc := { kind := .store, addr := c.dest + 64 * li.2 }, pa := pa, wdata := li.1, wmask := BitVec.allOnes 64, attr := attr
                      ctx := atOwner attr, die := die, stop := n / 32, lane := bits pa 8 6, sink := .combine r, slice := s.homeSlice die pa attr }
    if attr.testBit 51 then s.toWindow q
    else if atMemSide attr then s.toLlc q (s.cycle + li.2)
    else s.toSlice q (s.cycle + li.2)) s)

/-- Combined slots at the head of a queue whose combines have ended are released, in reservation order. -/
def State.pumpQueue (s : State) (die q : Nat) : Nat → State
  | 0 => s
  | k + 1 =>
    match (s.queue die q).order with
    | [] => s
    | n :: _ =>
      let c := s.cslot die n
      if c.st == 2 && c.ready ≤ s.cycle then (s.releaseSlot die n).pumpQueue die q k else s

/-- COMBINE_RELEASE: a combine has ended, and releases may follow; with one number, a line of a release has been
performed (R400). -/
def execCombineRelease (s : State) : Result :=
  match s.arg with
  | [r] =>
    let y : CRel := tget {} s.rels r
    let s := { s with rels := tins s.rels r { y with left := y.left - 1 } }
    .next (s.sendRels y.die y.q 2048)
  | _ =>
    let die := s.arg.headD 0
    .next (s.pumpQueue die (s.cslot die (s.arg.getD 1 0)).q 2048)

/-! The instructions. -/

/-- A request to the control or to a slice leaves the core (R395). DEDUCED, unsafe: log 18. -/
def ctlIssue (op fn kind : Nat) (x : Args) (r : List Word) (gates : VReg) (stop : Nat) (s : State) : State :=
  let g := s.cur
  let (q, s) := s.enterRing op fn
  let (u, s) := s.fresh
  let (c, s) := s.fresh
  let s := s.takeEntry { uid := u, form := .engine, writes := regS x, seq := some q, acc := some { kind := .control, slot := g, uid := u, aux := c } }
  let s := { s with controls := tins s.controls c { kind := kind, slot := g, uid := u, ctx := s.ctxOfSlot g, r := r, gates := gates } }
  (s.offer (dieOf g) (s.part.stopOf (millOf g)) stop 0 1 (s.cycle + 6) 0 (.control c)).advance

/-- cbq (R395). -/
def cbqBody (x : Args) (s : State) : State :=
  let w0 := (s.grp x.b 0).toNat
  let w1 := (s.grp x.b 1).toNat
  let w2 := (s.grp x.b 2).toNat
  let out := bits w0 20 16
  let inn := bits w0 28 24
  if w0 / 2 ^ 29 != 0 || bits w0 23 21 != 0 || bits w0 15 9 != 0 || bits w0 7 6 != 0 || w1 / 2 ^ 32 != 0 || w2 / 2 ^ 24 != 0
      || out < 10 || 12 < out || (inn != 0 && inn != 11 && inn != 12) || (inn == 0 && out == 10) then
    s.raise fcIllop (illopDetail (encWord 0xC1 0 x))
  else if bits w2 23 15 != dieOf s.cur || s.part.liveMills ≤ bits w2 14 9 then s.raise fcSpace w2
  else ctlIssue 0xC1 0 0 x [s.grp x.b 0, s.grp x.b 1, s.grp x.b 2] 0 60 s

/-- cbres (R396). -/
def cbresBody (x : Args) (s : State) : State :=
  let w0 := (s.grp x.b 0).toNat
  let ex := (s.grp x.b 1).toNat
  let dest := (s.grp x.b 2).toNat
  let k := bits w0 11 8
  let es := (List.range k).map (fun i => bits ex (8 * i + 7) (8 * i))
  if bits w0 15 12 != 0 || bits w0 7 6 != 0 || k == 0 || 8 < k || ex / 2 ^ (8 * k) != 0 || es.eraseDups.length != k then
    s.raise fcIllop (illopDetail (encWord 0xC1 1 x))
  else if 2 ^ 57 ≤ dest then s.raise fcSpace dest
  else if dest % 512 != 0 then s.raise fcAlign dest
  else ctlIssue 0xC1 1 1 x [s.grp x.b 0, s.grp x.b 1, s.grp x.b 2] (s.me.vreg x.c.idx) 60 s

/-- cbstat (R402). -/
def cbstatBody (x : Args) (s : State) : State :=
  let h := (s.opVal x.b).toNat
  if h / 2 ^ 16 != 0 then s.raise fcIllop (illopDetail (encWord 0xC1 3 x))
  else ctlIssue 0xC1 3 2 x [s.opVal x.b] 0 (bits h 10 5) s

/-- cbput (R397): the stripe is read as a block load. -/
def cbputBody (x : Args) (s : State) : State :=
  let h := s.opVal x.b
  if h.toNat / 2 ^ 24 != 0 then s.raise fcIllop (illopDetail (encWord 0xC1 2 x))
  else
    pondIssue (s.opVal x.c).toNat 512 512 0 (fun o => { kind := .deposit, addr := o, span := 512 })
      (fun a s =>
        let (q, s) := s.enterRing 0xC1 2
        let (u, s) := s.fresh
        let (c, s) := s.fresh
        let a := { a with uid := u, aux := c }
        let s := { s with controls := tins s.controls c { kind := 3, slot := s.cur, uid := u, ctx := s.ctxOfSlot s.cur, r := [h] } }
        ((s.takeEntry { uid := u, form := .engine, writes := regS x, seq := some q, acc := some a }).issueAccess a).advance) s

def execCbq (x : Args) (s : State) : Result := buffered 0xC1 0 x s (cbqBody x)
def execCbres (x : Args) (s : State) : Result := buffered 0xC1 1 x s (cbresBody x)
def execCbput (x : Args) (s : State) : Result := buffered 0xC1 2 x s (cbputBody x)
def execCbstat (x : Args) (s : State) : Result := buffered 0xC1 3 x s (cbstatBody x)

end Sys2Proof.Machine
end

