-- ==== Sys2Proof/Machine/Windrose.lean ====
section
/-! DEFINITION. The windrose (R403 to R415): graphs, runs, nodes, in-switch groups. A node acts at its completion. -/

namespace Sys2Proof.Machine

open Sys2Proof

def State.graph (s : State) (die h : Nat) : Graph := tget {} (s.die die).graphs h
def State.setGraph (s : State) (die h : Nat) (x : Graph) : State := s.updDie die (fun d => { d with graphs := tput {} d.graphs h x })
def State.run (s : State) (r : Nat) : Run := tget {} s.runs r
def State.setRun (s : State) (r : Nat) (x : Run) : State := { s with runs := tins s.runs r x }

/-! The header and the nodes (R403, R404). -/

def Graph.field (g : Graph) (hi lo : Nat) : Nat := bits g.header.toNat hi lo
def Graph.ordered (g : Graph) : Bool := g.header.getLsbD 148
def Graph.fmt (g : Graph) : Nat := g.field 156 152
def Graph.rm (g : Graph) : Nat := g.field 159 157
def Graph.myRank (g : Graph) : Nat := g.field 141 128
def Graph.ranksM1 (g : Graph) : Nat := g.field 109 96
def Graph.nodeCount (g : Graph) : Nat := g.field 12 0
def Graph.slotNs (g : Graph) : Nat := g.field 191 160
def Graph.outLen (g : Graph) : Nat := g.field 295 256
/-- Fabric node id and die of a rank. -/
def Graph.rankNode (g : Graph) (r : Nat) : Nat := bits ((g.ranks[r]?).getD 0) 11 0
def Graph.rankDie (g : Graph) (r : Nat) : Nat := bits ((g.ranks[r]?).getD 0) 14 12
def Graph.elsize (g : Graph) : Nat := tyBits g.fmt / 8
/-- Room in graph memory: 8 rank entries take the room of one node (R409). -/
def Graph.room (g : Graph) : Nat := g.nodes.length + (g.ranks.length + 7) / 8

abbrev GNode := BitVec 256
def GNode.f (n : GNode) (hi lo : Nat) : Nat := bits n.toNat hi lo
def GNode.op (n : GNode) : Nat := GNode.f n 255 252
def GNode.sw (n : GNode) : Bool := n.getLsbD 251
def GNode.size (n : GNode) : Nat := GNode.f n 247 232
def GNode.sbase (n : GNode) : Nat := GNode.f n 231 227
def GNode.dbase (n : GNode) : Nat := GNode.f n 226 222
def GNode.sx (n : GNode) : Bool := n.getLsbD 221
def GNode.dx (n : GNode) : Bool := n.getLsbD 220
def GNode.soff (n : GNode) : Nat := GNode.f n 215 176
def GNode.doff (n : GNode) : Nat := GNode.f n 175 136
def GNode.peer (n : GNode) : Nat := GNode.f n 135 122
def GNode.inc (n : GNode) : Nat := GNode.f n 119 112
def GNode.waitc (n : GNode) : Nat := GNode.f n 111 104
def GNode.thresh (n : GNode) : Nat := GNode.f n 103 88
def GNode.chan (n : GNode) : Nat := GNode.f n 87 72
def GNode.tslot (n : GNode) : Nat := GNode.f n 71 56
def GNode.incBy (n : GNode) : Nat := if GNode.f n 55 48 == 0 then 1 else GNode.f n 55 48
def GNode.reads (n : GNode) : Bool := GNode.op n != 1
def GNode.writes (n : GNode) : Bool := GNode.op n != 0

def Graph.node (g : Graph) (i : Nat) : GNode := (g.nodes[i]?).getD 0
/-- Elements of a node's ranges, and the bytes of an element there. -/
def Graph.count (g : Graph) (n : GNode) : Nat := if g.elsize == 0 then 0 else GNode.size n * 512 / g.elsize
def Graph.stride (g : Graph) (acc : Bool) : Nat := if acc then 64 else g.elsize

/-- Whether a node is malformed (R409). -/
def Graph.badNode (g : Graph) (n : GNode) : Bool :=
  let op := GNode.op n
  let out (base off : Nat) (acc : Bool) : Bool := base == 16 && 2 ^ 21 < off + g.count n * g.stride acc
  4 ≤ op || GNode.f n 250 248 != 0 || GNode.f n 219 216 != 0 || GNode.f n 121 120 != 0 || GNode.f n 47 0 != 0
  || 16 < GNode.sbase n || 16 < GNode.dbase n || (op < 2 && g.ranksM1 < GNode.peer n)
  || (g.ordered && (GNode.sx n || GNode.dx n || GNode.sw n)) || (op == 2 && (if g.ordered then GNode.sx n || GNode.dx n else !GNode.dx n))
  || (GNode.reads n && out (GNode.sbase n) (GNode.soff n) (GNode.sx n)) || (GNode.writes n && out (GNode.dbase n) (GNode.doff n) (GNode.dx n))

/-- Whether an image is malformed (R403, R409). DEDUCED, unsafe: log 55. -/
def Graph.bad (g : Graph) : Bool :=
  g.field 511 296 != 0 || g.field 210 192 != 0 || g.field 151 149 != 0 || g.field 147 142 != 0 || g.field 127 110 != 0 || g.field 95 13 != 0
  || g.nodeCount == 0 || 16 < g.field 215 211 || g.ranksM1 < g.myRank || 3 < g.rm || 12 < g.fmt || g.fmt < (if g.ordered then 9 else 10)
  || g.ranks.any (fun r => r / 2 ^ 15 != 0) || g.nodes.any g.badNode

/-! Loading (R409). -/

/-- A line as the LLC holds it, which it comes into where it is absent. -/
def State.lineAtLlc (s : State) (line attr : Nat) : Line × State :=
  let s := s.llcFill line attr
  (match s.llcGet line with | some c => c.data | none => 0, s)

/-- A line of a page of another node's memory as the windrose reads it through a fabric window: this package's own memory where the
window names this package (R298, R407). -/
def State.windowRead (s : State) (pa : Nat) : Line × State :=
  if s.windowNode pa == s.part.pkgix then s.lineAtLlc (pa % 2 ^ 51 / 64) 32
  else
    let (n, s) := s.draw
    (Config.fabricData n, s)

/-- The fault that a range of a context's memory meets, and the address that fails. -/
def State.imageFault (s : State) (ctx va n : Nat) : Option (Nat × Nat) :=
  (List.range ((va % 65536 + n + 65535) / 65536)).findSome? (fun i =>
    let a := (va / 65536 + i) * 65536
    match s.walkNow ctx a with
    | .fault c => some (c, max va a)
    | .next _ => some (fcPage, max va a)
    | .leaf _ => none)

/-- `n` bytes of a context's memory as the windrose reads an image: at the LLC, or through a fabric window (R409); or the fault and the
address that failed. -/
def State.imageBytes (s : State) (ctx va n : Nat) : (Nat ⊕ (Nat × Nat)) × State :=
  match s.imageFault ctx va n with
  | some f => (.inr f, s)
  | none =>
    let r := (List.range ((n + 63) / 64)).foldl (fun (p : List Nat × State) i =>
      match p.2.transNow ctx (va + 64 * i) with
      | some (pa, attr) =>
        let x := if attr.testBit 51 then p.2.windowRead pa else p.2.lineAtLlc (pa / 64) attr
        (p.1 ++ [x.1.toNat], x.2)
      | none => (p.1 ++ [0], p.2)) ([], s)
    (.inl (packBits 512 r.1), r.2)

/-- The graph that an image holds. -/
def graphOf (h ranks nodes ctx : Nat) : Graph :=
  { header := BitVec.ofNat 512 h, ctx := ctx
    ranks := (List.range (bits h 109 96 + 1)).map (fun r => bits ranks (32 * r + 31) (32 * r))
    nodes := (List.range (bits h 12 0)).map (fun i => BitVec.ofNat 256 (nodes / 2 ^ (256 * i))) }

/-- The bytes of an image after its header: the rank entries, padded, and the nodes (R403). -/
def imageRest (h : Nat) : Nat := roundUp (4 * (bits h 109 96 + 1)) 64 + 32 * bits h 12 0

/-- The image's graph, or the late fault that reading it ends in. DEDUCED, unsafe: log 55. -/
def State.readGraph (s : State) (ctx va : Nat) : (Graph ⊕ (Nat × Nat)) × State :=
  match s.imageBytes ctx va 64 with
  | (.inr f, s) => (.inr f, s)
  | (.inl h, s) =>
    match s.imageBytes ctx (va + 64) (imageRest h) with
    | (.inr f, s) => (.inr f, s)
    | (.inl x, s) =>
      let g := graphOf h x (x / 2 ^ (8 * roundUp (4 * (bits h 109 96 + 1)) 64)) ctx
      (if g.bad then .inr (fcIllop, va) else .inl g, s)

/-- A late fault of a windrose instruction, which writes nothing: its entry lands and carries no result (R369). -/
def State.windFault (s : State) (slot uid seq thread ctx code detail : Nat) : State :=
  let s := s.updEntry slot uid (fun e => { e with writes := [] })
  (s.landAt slot uid s.cycle).post s.cycle 8 slot .lateFault [slot, code, seq, detail, thread, ctx]

/-- A status word whose code the spec leaves open among those it names (R363). DESIGN CHOICE, safe: log 10. -/
def openCode (x : Word) : Word := x - BitVec.ofNat 64 (x.toNat % 256) + BitVec.ofNat 64 (x.toNat % 256 % 10)

/-- The status of a windrose instruction lands. -/
def State.windStatus (s : State) (slot uid v : Nat) : State :=
  (s.updEntry slot uid (fun e => e.orVal 0 (BitVec.ofNat 2048 v))).landAt slot uid s.cycle

/-- GRAPH_IMAGE_LOADED: the windrose has read an image (R409). DEDUCED, unsafe: log 55. -/
def execGraphImageLoaded (s : State) : Result :=
  match s.arg with
  | [slot, uid, seq, thread, va, ctx, word] =>
    let die := dieOf slot
    (match s.readGraph ctx va with
    | (.inr f, s) => .next (s.windFault slot uid seq thread ctx f.1 (if f.1 == fcIllop then word else f.2))
    | (.inl g, s) =>
      let gs := (s.die die).graphs
      let used := gs.foldl (fun n kg => n + kg.2.room) 0
      match (List.range 64).find? (fun h => (gs.lookup h).isNone) with
      | none => .next (s.windStatus slot uid 2)
      | some h =>
        if 4096 < used + g.room then .next (s.windStatus slot uid 2)
        else .next ((s.setGraph die h g).windStatus slot uid (h * 65536)))
  | _ => .next s

/-- A windrose instruction takes an entry and enters the ring. -/
def windIssue (fn : Nat) (x : Args) (s : State) : Nat × Nat × State :=
  let (q, s) := s.enterRing 0xC0 fn
  let (u, s) := s.fresh
  (u, q, s.takeEntry { uid := u, form := .engine, writes := regS x, seq := some q })

/-- The form of `cgload` that loads an image (R409). -/
def cgloadImage (x : Args) (s : State) : State :=
  let va := bits (s.opVal x.b).toNat 62 0
  if 2 ^ 57 ≤ va then s.raise fcSpace va
  else if va % 64 != 0 then s.raise fcAlign va
  else
    let g := s.cur
    let (u, q, s) := windIssue 0 x s
    let (n, s) := s.draw
    (s.post (s.cycle + 1 + Config.imageDelay n) 3 680 .graphImageLoaded [g, u, q, s.me.thread, va, s.ctxOfSlot g, illopDetail (encWord 0xC0 0 x)]).advance

/-- A member of an in-switch group has received: the merge goes once all of this package have. DEDUCED, unsafe: log 58. -/
def State.mergeTaken (s : State) (m rank : Nat) : State :=
  let x : Merge := tget {} s.merges m
  let left := x.takers.filter (· != rank)
  { s with merges := if left.isEmpty then tdel s.merges m else tins s.merges m { x with takers := left } }

/-- A rank whose graphs are all unloaded awaits no merge that has ended. DEDUCED, unsafe: log 58. -/
def State.forgetRank (s : State) (die : Nat) (g : Graph) : State :=
  if (s.die die).graphs.any (fun kg => kg.2.ranks == g.ranks && kg.2.myRank == g.myRank) then s
  else (s.merges.filter (fun km => km.2.table == g.ranks && km.2.st != 0)).foldl (fun s km => s.mergeTaken km.1 g.myRank) s

/-- The form of `cgload` that unloads a handle (R409). -/
def cgloadUnloadBody (x : Args) (s : State) : State :=
  let g := s.cur
  let die := dieOf g
  let h := bits (s.opVal x.b).toNat 15 0
  let busy := s.runs.any (fun kr => kr.2.die == die && kr.2.handle == h && kr.2.st != 0)
  let (u, _, s) := windIssue 0 x s
  let s := if busy then s else (s.updDie die (fun d => { d with graphs := tdel d.graphs h })).forgetRank die (s.graph die h)
  (s.windStatus g u (if busy then 2 else 0)).advance

/-- cgload: Reg(B)[63] chooses its form (R409). -/
def execCgload (x : Args) (s : State) : Result :=
  buffered 0xC0 0 x s (fun s => if (s.opVal x.b).getLsbD 63 then cgloadUnloadBody x s else cgloadImage x s)

/-- The unload form of cgload. -/
def execCgloadUnload (x : Args) (s : State) : Result := buffered 0xC0 0 x s (cgloadUnloadBody x)

/-! Runs (R410, R413). -/

/-- The state of a run, packed as `cgstat` reads it (R414). DEDUCED, unsafe: log 57. -/
def runState (st fired done : Nat) : Nat := st + done * 2 ^ 8 + fired * 2 ^ 24

/-- cgstat (R414). DEDUCED, unsafe: log 57. -/
def cgstatBody (x : Args) (s : State) : State :=
  let w := (s.opVal x.b).toNat
  if w / 2 ^ 32 != 0 then s.raise fcIllop (illopDetail (encWord 0xC0 3 x))
  else
    let g := s.cur
    let die := dieOf g
    let h := bits w 15 0
    let k := bits w 31 16
    let v := match s.runs.find? (fun kr => kr.2.die == die && kr.2.handle == h && kr.2.k == k && kr.2.st != 0) with
      | some (_, r) => runState r.st r.fired.length r.done.length
      | none => (match (s.graph die h).ended.find? (fun e => e.1 == k) with
        | some (_, st, fired, done) => runState st fired done
        | none => 0)
    let (u, _, s) := windIssue 3 x s
    ((s.updEntry g u (fun e => e.orVal 0 (BitVec.ofNat 2048 v))).landAt g u (s.cycle + 16)).advance

/-- cgrun and cgrun.at issue: the checks, then the request waits for the thread's earlier accesses (R410, R413). DEDUCED, unsafe: log 56. -/
def cgrunBody (fn : Nat) (at_ : Option Nat) (x : Args) (s : State) : State :=
  let w0 := (s.grp x.b 0).toNat
  let table := (s.grp x.b 1).toNat
  let w2 := (s.grp x.b 2).toNat
  if w0 / 2 ^ 16 != 0 || w2 / 2 ^ 40 != 0 then s.raise fcIllop (illopDetail (encWord 0xC0 fn x))
  else if bits w2 23 15 != dieOf s.cur then s.raise fcSpace w2
  else if 2 ^ 57 ≤ table then s.raise fcSpace table
  else if table % 64 != 0 then s.raise fcAlign table
  else if 2 ^ 57 < table + 128 then s.raise fcSpace table
  else
    let g := s.cur
    let waits := (s.me.open_.filter (fun p => !p.old)).map (·.uid)
    let (u, q, s) := windIssue fn x s
    let (r, s) := s.fresh
    let s := s.setRun r { die := dieOf g, handle := w0, slot := g, thread := s.me.thread, launch := s.me.launch, seq := q, uid := u
                          ctx := s.ctxOfSlot g, table := table, dest := bits w2 23 0, tag := bits w2 39 24, waits := waits, at_ := at_ }
    (s.post (s.cycle + 1) 3 690 .runStartTime [r]).advance

def execCgrun (x : Args) (s : State) : Result := buffered 0xC0 1 x s (cgrunBody 1 none x)
def execCgrunAt (x : Args) (s : State) : Result :=
  buffered 0xC0 2 x s (fun s => cgrunBody 2 (some (bits (s.opVal x.c).toNat 62 0)) x s)
def execCgstat (x : Args) (s : State) : Result := buffered 0xC0 3 x s (cgstatBody x)

/-! Memory as the windrose sees it (R407). -/

/-- The windrose's stop (R265). -/
def roseStop : Nat := 52

/-- A line of a page as the windrose reads it: at its home, or through a fabric window (R298, R407). -/
def State.roseRead (s : State) (die pa attr : Nat) : Line × State :=
  if attr.testBit 51 then s.windowRead pa else s.readHome die pa attr

/-- Bytes of a line as the windrose writes them; `sink` is the node that awaits them in a fabric window of another package (R411). What a
window gives back of this package's own memory is written at once, as it is read, so that two sums into one accumulator compose
(R405, R407). -/
def State.roseWrite (s : State) (die pa attr : Nat) (data : Line) (mask : BitVec 64) (sink : Sink) : State :=
  if !attr.testBit 51 then s.writeHome die pa attr data mask
  else if s.windowNode pa == s.part.pkgix then
    (s.llcFill (pa % 2 ^ 51 / 64) 32).llcWrite (pa % 2 ^ 51 / 64) 32 data mask
  else
    s.toWindow { acc := { kind := .store, addr := pa }, pa := pa, wdata := data, wmask := mask, attr := attr, die := die, stop := roseStop
                 lane := bits pa 8 6, sink := sink }

/-- The address of a range: a base entry's, or an offset of staging. -/
def Run.addr (r : Run) (base off : Nat) : Nat := if base == 16 then off else (r.bases[base]?).getD 0 + off

/-- Lines of `n` bytes from an address: physical address and attribute. -/
def Run.lines (r : Run) (va n : Nat) : List (Nat × Nat) :=
  (List.range ((va % 64 + n + 63) / 64)).filterMap (fun i =>
    let a := va / 64 * 64 + 64 * i
    (findTrans r.pages r.ctx a).map (fun t => (t.pa a, t.attr a)))

/-- `n` bytes of a range, line by line. -/
def State.rangeRead (s : State) (r : Run) (base off n : Nat) : Nat × State :=
  if base == 16 then (memRead (s.die r.die).staging off n, s)
  else
    let va := r.addr base off
    let p := (r.lines va n).foldl (fun (p : List Nat × State) l =>
      let x := p.2.roseRead r.die l.1 l.2
      (p.1 ++ [x.1.toNat], x.2)) ([], s)
    (packBits 512 p.1 / 2 ^ (8 * (va % 64)) % 2 ^ (8 * n), p.2)

/-- Writes `n` bytes of a range. -/
def State.rangeWrite (s : State) (r : Run) (base off n x : Nat) (sink : Sink) : State :=
  if base == 16 then s.updDie r.die (fun d => { d with staging := memWrite d.staging off n x })
  else
    let va := r.addr base off
    let sh := va % 64
    let ls := r.lines va n
    ls.zipIdx.foldl (fun s li =>
      let lo := 64 * li.2
      let mask := (List.range 64).foldl (fun m b => if sh ≤ lo + b && lo + b < sh + n then m + 2 ^ b else m) 0
      s.roseWrite r.die li.1.1 li.1.2 (BitVec.ofNat 512 (x * 2 ^ (8 * sh) / 2 ^ (8 * lo))) (BitVec.ofNat 64 mask) sink) s

/-- Whether a node's ranges touch a line that cannot be reached at its home now. -/
def State.rangeBusy (s : State) (r : Run) (base off n : Nat) : Bool :=
  base != 16 && (r.lines (r.addr base off) n).any (fun l => !l.2.testBit 51 && !s.homeFree r.die l.1 l.2)

/-! Nodes (R405, R406). -/

/-- The elements of a source or destination, each as its code or its accumulator, with the reserved bits as they stand. -/
def State.elemsOf (s : State) (r : Run) (g : Graph) (n : GNode) (base off : Nat) (acc : Bool) : List Nat × State :=
  let st := g.stride acc
  let x := s.rangeRead r base off (g.count n * st)
  ((List.range (g.count n)).map (fun i => bits x.1 (8 * st * i + 8 * st - 1) (8 * st * i)), x.2)

/-- Writes the elements of the destination of node `i` of a run. -/
def State.setElems (s : State) (id i : Nat) (l : List Nat) : State :=
  let r := s.run id
  let g := s.graph r.die r.handle
  let n := g.node i
  let st := g.stride (GNode.dx n)
  s.rangeWrite r (GNode.dbase n) (GNode.doff n) (l.length * st) (packBits (8 * st) l) (.windrose id i)

/-- What an accumulator holds but for its reserved bits (R194). -/
def xaOf (x : Nat) : Nat := x % 2 ^ 483

/-- What reduce and copy write, and their flags (R405). -/
def localNode (g : Graph) (n : GNode) (src dst : List Nat) : List Nat × Nat :=
  if GNode.op n == 2 then
    if g.ordered then
      let rs := (dst.zip src).map (fun p => roundRes g.fmt g.rm (numAdd g.rm (decodeFloat g.fmt p.1) (decodeFloat g.fmt p.2)))
      (rs.map (·.1), rs.foldl (fun f r => f ||| r.2) 0)
    else ((dst.zip src).map (fun p => if GNode.sx n then xaMerge false (xaOf p.1) (xaOf p.2) else xaAdd false (xaOf p.1) (decodeFloat g.fmt p.2)), 0)
  else if GNode.sx n == GNode.dx n then (src, 0)
  else if GNode.dx n then (src.map (fun x => xaAdd false 0 (decodeFloat g.fmt x)), 0)
  else
    let rs := src.map (fun x => xaRound false (xaOf x) g.fmt g.rm 0)
    (rs.map (·.1), rs.foldl (fun f r => f ||| r.2) 0)

/-- The exact additions of a node, of which the windrose does 64 in a cycle (R390). -/
def Graph.additions (g : Graph) (n : GNode) : Nat :=
  if (GNode.op n == 2 && !g.ordered) || (GNode.op n == 3 && !GNode.sx n && GNode.dx n) then g.count n else 0

/-- Fired nodes start one per cycle, and their additions follow one another at the windrose's rate; a started node completes after
a time that the spec does not state beyond them (R390, R406). -/
def State.startNodes (s : State) (id : Nat) (ns : List Nat) : State :=
  let die := (s.run id).die
  ns.foldl (fun s n =>
    let r := s.run id
    let g := s.graph die r.handle
    let t := max s.cycle (s.die die).nodeFree
    let adds := g.additions (g.node n)
    let t1 := if adds == 0 then t + 1 else max (t + 1) (s.die die).addFree + (adds + 63) / 64
    let s := s.updDie die (fun d => { d with nodeFree := t + 1, addFree := if adds == 0 then d.addFree else t1 })
    let (k, s) := s.draw
    (s.setRun id { r with fired := r.fired ++ [n] }).post (t1 + Config.nodeDelay k) 3 700 .nodeComplete [id, n]) s

/-- Nodes that an addition to a counter fires: in ascending threshold, then in arming order (R406). -/
def firedBy (g : Graph) (r : Run) (c old new : Nat) : List Nat :=
  let hit := (List.range g.nodes.length).filter (fun i =>
    let n := g.node i
    GNode.waitc n == c && old < GNode.thresh n && GNode.thresh n ≤ new && !r.fired.contains i)
  hit.mergeSort (fun i j => decide (GNode.thresh (g.node i) < GNode.thresh (g.node j) ∨ (GNode.thresh (g.node i) = GNode.thresh (g.node j) ∧ i ≤ j)))

/-- A run ends OK when every node has completed, and INCOMPLETE when none is running or can fire: a receive that never completes
runs no more (R406, R411, R415). -/
def State.runCheck (s : State) (id : Nat) : State :=
  let r := s.run id
  let g := s.graph r.die r.handle
  if r.done.length == g.nodes.length then s.post s.cycle 3 710 .runEnd [id, 3]
  else if r.fired.all (fun n => r.done.contains n || r.failed.contains n) then s.post s.cycle 3 710 .runEnd [id, 4]
  else s

/-- A receive writes nothing and never completes (R405, R415). -/
def State.nodeFails (s : State) (id i : Nat) : State :=
  let r := s.run id
  (s.setRun id { r with failed := r.failed ++ [i] }).runCheck id

/-- A node has completed: its counter, and the nodes this fires. -/
def State.nodeDone (s : State) (id i : Nat) : State :=
  let r := s.run id
  let g := s.graph r.die r.handle
  let n := g.node i
  let r := { r with done := r.done ++ [i] }
  if GNode.inc n == 255 then (s.setRun id r).runCheck id
  else
    let old := tget 0 r.counters (GNode.inc n)
    let new := min (old + GNode.incBy n) 65535
    let fire := firedBy g r (GNode.inc n) old new
    ((s.setRun id { r with counters := tput 0 r.counters (GNode.inc n) new }).startNodes id fire).runCheck id

/-- Whether writes of a node to a fabric window are still to be performed. -/
def State.nodeWrites (s : State) (id i : Nat) : Bool := s.reqs.any (fun kr => kr.2.sink == .windrose id i)

/-- A node has written its elements: it completes once all of them have been performed at their places (R338, R411). -/
def State.nodeWrote (s : State) (id i : Nat) : State :=
  if s.nodeWrites id i then
    let r := s.run id
    s.setRun id { r with writing := r.writing ++ [i] }
  else s.nodeDone id i

/-- Whether a rank is a windrose of this package. DEDUCED, unsafe: log 58. -/
def State.rankHere (s : State) (g : Graph) (r : Nat) : Bool := g.rankNode r == s.part.pkgix

/-- The graphs of a rank of this package over the ranks of a graph, under whatever handles they are loaded. -/
def State.graphsOf (s : State) (g : Graph) (r : Nat) : List Graph :=
  ((s.die (g.rankDie r)).graphs.map (·.2)).filter (fun h => h.myRank == r && h.ranks == g.ranks)

/-- Whether a graph sends through the switch of a node on its channel. -/
def Graph.sendsTo (h : Graph) (n : GNode) : Bool :=
  h.nodes.any (fun m => GNode.op m == 0 && GNode.sw m && GNode.peer m == GNode.peer n && GNode.chan m == GNode.chan n)

/-- The ranks of this package but the switch's. -/
def State.ranksHere (s : State) (g : Graph) (n : GNode) : List Nat :=
  (List.range (g.ranksM1 + 1)).filter (fun r => r != GNode.peer n && s.rankHere g r)

/-- Whether a rank of this package is a member of an in-switch group: it has a graph, over the same ranks, that sends through the switch
on the channel, or the switch's own set of members holds it, which the spec does not say who writes (R415). DEDUCED, unsafe: log 58. -/
def State.inGroup (s : State) (g : Graph) (n : GNode) (r : Nat) : Bool :=
  (s.graphsOf g r).any (fun h => h.sendsTo n) || Config.switchGroup (g.rankNode (GNode.peer n)) (GNode.chan n) r

/-- The members of an in-switch group on this package (R415); none while a rank has no graph. DEDUCED, unsafe: log 58. -/
def State.groupOf (s : State) (g : Graph) (n : GNode) : Option (List Nat) :=
  let rs := s.ranksHere g n
  if rs.any (fun r => (s.graphsOf g r).isEmpty) then none
  else some (rs.filter (fun r => s.inGroup g n r))

/-- The contributors of a failed group (R415): bit m is the m-th member in ascending rank. Of this package they are those whose
records the switch has, of others the spec leaves them open; a group has up to 64. DEDUCED, unsafe: log 58. -/
def State.maskOf (s : State) (g : Graph) (n : GNode) (got : List Nat) (k : Nat) : Nat :=
  let sends := fun (r : Nat) => if s.rankHere g r then got.contains r || s.inGroup g n r else Config.peerMember k r
  let all := ((List.range (g.ranksM1 + 1)).filter (fun r => r != GNode.peer n && sends r)).take 64
  all.zipIdx.foldl (fun (x : Nat) rm =>
    if (if s.rankHere g rm.1 then got.contains rm.1 else (Config.switchMask k).toNat.testBit rm.2) then x + 2 ^ rm.2 else x) 0

/-- The merge, by the switch's node, the channel, the run number and the ranks, that a rank has not contributed to and that collects
or still awaits it; else a new one, so that a retry is none of an earlier merge that failed. DEDUCED, unsafe: log 58. -/
def State.mergeOf (s : State) (g : Graph) (node chan k : Nat) : Nat × Merge :=
  match s.merges.find? (fun km => km.2.node == node && km.2.chan == chan && km.2.k == k && km.2.table == g.ranks
      && !km.2.ranks.contains g.myRank && (km.2.st == 0 || km.2.takers.contains g.myRank)) with
  | some km => km
  | none => (s.uid, { node := node, chan := chan, k := k, table := g.ranks })

/-- The merge that a receive of a run takes from: that which holds the run's records, or one that has failed without its rank's. -/
def State.mergeFor (s : State) (id : Nat) (g : Graph) (node chan k : Nat) : Option (Nat × Merge) :=
  s.merges.find? (fun km => km.2.node == node && km.2.chan == chan && km.2.k == k && km.2.table == g.ranks && km.2.st != 0
    && km.2.takers.contains g.myRank && (km.2.runs.contains id || !km.2.ranks.contains g.myRank))

/-- The data flits of a send leave the package for the node of a rank, in packets of a head flit and up to seven of data (R296,
R407).
They ride lane 0. DESIGN CHOICE, unsafe: log 161. -/
def State.sendAway (s : State) (r : Run) (g : Graph) (n : GNode) (flits : List Line) : State :=
  let head := linkHead 0 (g.rankDie (GNode.peer n)) g.myRank (GNode.peer n) (GNode.chan n) r.k (GNode.sx n) flits.length
  (List.range ((flits.length + 6) / 7)).foldl (fun s j =>
    let ls := head :: (flits.drop (7 * j)).take 7
    s.offerOut r.die roseStop 0 ls.length s.cycle 3 3 (g.rankNode (GNode.peer n)) ls 0 0) s

/-- The data flits of a send cross to a windrose of the package, in packets of up to eight (R407).
They ride lane 0. DESIGN CHOICE, unsafe: log 161. -/
def State.sendHere (s : State) (r : Run) (g : Graph) (n : GNode) (flits : List Line) : State :=
  let die := g.rankDie (GNode.peer n)
  let (l, s) := s.fresh
  let packets := (flits.length + 7) / 8
  let s := { s with links := s.links ++ [{ id := l, die := die, src := g.myRank, dst := GNode.peer n, chan := GNode.chan n, k := r.k
                                           sx := GNode.sx n, left := packets, flits := flits }] }
  (List.range packets).foldl (fun s j =>
    s.offerTo r.die roseStop die roseStop 0 (min 8 (flits.length - 8 * j)) s.cycle 3 (.link l)) s

/-- What a receive posts for a send, or a send looks for: die of the sender, ranks, channel, run number (R410). -/
def Graph.creditOf (g : Graph) (r : Run) (n : GNode) : Nat × Nat × Nat × Nat × Nat := (r.die, g.myRank, GNode.peer n, GNode.chan n, r.k)

/-- A send acts (R405, R410, R413, R415): it waits for its time slot and for its peer's credit. -/
def State.sendNode (s : State) (id i : Nat) (wait : State) : State :=
  let r := s.run id
  let g := s.graph r.die r.handle
  let n := g.node i
  if r.slotted && s.skyNow < r.start + GNode.tslot n * g.slotNs then wait
  else
    let src := s.elemsOf r g n (GNode.sbase n) (GNode.soff n) (GNode.sx n)
    let s := src.2
    let vals := if GNode.sx n then src.1.map xaOf else src.1
    let flits := flitsOf (GNode.sx n) g.elsize vals
    if GNode.sw n then
      -- an accumulator travels as its XW record (R197, R198)
      let data := vals.map canonXa
      let (m, x) := s.mergeOf g (g.rankNode (GNode.peer n)) (GNode.chan n) r.k
      let x := { x with runs := x.runs ++ [id] }
      let sums := if x.ranks.isEmpty then data else (x.sums.zip data).map (fun p => xaMerge false p.1 p.2)
      -- what comes for a group that has failed is discarded
      let s := if x.st != 0 then { s with merges := tins s.merges m x }
        else { s with uid := s.uid + 1, merges := tins s.merges m { x with ranks := x.ranks ++ [g.myRank], sums := sums } }
      let (k, s) := s.draw
      let s := ((s.sendAway r g n flits).nodeDone id i).post (s.cycle + 1 + Config.fabricDelay k) 3 720 .inSwitchMerge [m, r.die, r.handle, i]
      if x.ranks.isEmpty then
        -- the switch waits for the others a time that the spec leaves open
        let (k, s) := s.draw
        s.post (s.cycle + 1 + Config.fabricDelay k) 3 721 .inSwitchMerge [m, r.die, r.handle, i, 1]
      else s
    else
      let here := s.rankHere g (GNode.peer n)
      if s.credits.contains (g.creditOf r n) || (!here && tget 0 r.credit i ≤ s.cycle) then
        let s := { s with credits := s.credits.erase (g.creditOf r n) }
        (if here then s.sendHere r g n flits else s.sendAway r g n flits).nodeDone id i
      else wait

/-- A receive from a rank, whose data is there, acts; data of the other kind ends its run (R405). -/
def State.takeLink1 (s : State) (id i : Nat) (sx : Bool) (l : List Nat) : State :=
  let r := s.run id
  let g := s.graph r.die r.handle
  let n := g.node i
  if sx != GNode.dx n then s.nodeFails id i else (s.setElems id i (l.take (g.count n))).nodeWrote id i

/-- A run that ends takes nothing more from the merges that have ended: those that its records came for. DEDUCED, unsafe: log 58. -/
def State.leaveMerges (s : State) (id rank : Nat) : State :=
  (s.merges.filter (fun km => km.2.runs.contains id && km.2.st != 0)).foldl (fun s km => s.mergeTaken km.1 rank) s

/-- A receive acts when its data is there (R405, R415). From another package it is what the fabric has brought, or else what the
peer sends in a time that the spec leaves open. -/
def State.recvNode (s : State) (id i : Nat) (wait : State) : State :=
  let r := s.run id
  let g := s.graph r.die r.handle
  let n := g.node i
  if GNode.sw n then
    match s.mergeFor id g (g.rankNode (GNode.peer n)) (GNode.chan n) r.k with
    | none => wait
    | some km =>
      let s := s.mergeTaken km.1 g.myRank
      if km.2.st == 2 then (s.setRun id { r with mask := km.2.mask }).nodeFails id i
      else (s.setElems id i km.2.sums).nodeWrote id i
  else
    match s.links.find? (fun l => l.die == r.die && l.src == GNode.peer n && l.dst == g.myRank && l.chan == GNode.chan n && l.k == r.k) with
    | some l =>
      if l.left != 0 then wait
      else ({ s with links := s.links.erase l }).takeLink1 id i l.sx (unpackFlits l.sx g.elsize l.flits)
    | none =>
      if s.rankHere g (GNode.peer n) then wait
      else
        let (k, s) := s.draw
        let sx := Config.peerSends k
        s.takeLink1 id i sx ((List.range (g.count n)).map (fun j =>
          let x := (Config.peerElement k j).toNat
          if sx then canonXa x else x % 2 ^ (8 * g.elsize)))

/-- NODE_COMPLETE: a started node acts on its elements and completes, once, or waits for data, credit or its time (R405,
R406), or for what it has written in a fabric window (R411). -/
def execNodeComplete (s : State) : Result :=
  let id := s.arg.headD 0
  let i := s.arg.getD 1 0
  if (s.runs.lookup id).isNone || (s.run id).done.contains i || (s.run id).failed.contains i then .next s
  else
    let r := s.run id
    let g := s.graph r.die r.handle
    let n := g.node i
    let wait := s.post (s.cycle + 1) 3 700 .nodeComplete [id, i]
    let len (acc : Bool) : Nat := g.count n * g.stride acc
    if r.writing.contains i then
      .next (if s.nodeWrites id i then s else (s.setRun id { r with writing := r.writing.filter (· != i) }).nodeDone id i)
    else if (GNode.reads n && s.rangeBusy r (GNode.sbase n) (GNode.soff n) (len (GNode.sx n)))
        || (GNode.writes n && s.rangeBusy r (GNode.dbase n) (GNode.doff n) (len (GNode.dx n))) then .next wait
    else match GNode.op n with
      | 0 => .next (s.sendNode id i wait)
      | 1 => .next (s.recvNode id i wait)
      | _ =>
        let src := s.elemsOf r g n (GNode.sbase n) (GNode.soff n) (GNode.sx n)
        let dst := if GNode.op n == 2 then src.2.elemsOf r g n (GNode.dbase n) (GNode.doff n) (GNode.dx n) else ([], src.2)
        let w := localNode g n src.1 dst.1
        let s := (dst.2.setRun id { r with flags := r.flags ||| w.2 }).setElems id i w.1
        .next (s.nodeWrote id i)

/-- IN_SWITCH_MERGE: the switch has what a member sent; with every member's records it returns the sum as its canonical record,
or, when a member fails, an INCOMPLETE record; with 1 its time for the group has passed: without a member's records, the same (R415).
DEDUCED, unsafe: log 58. -/
def execInSwitchMerge (s : State) : Result :=
  match s.arg with
  | m :: die :: h :: i :: late =>
    let g := s.graph die h
    let n := g.node i
    let x : Merge := tget {} s.merges m
    let fails := fun (s : State) (k : Nat) (rs : List Nat) =>
      { s with merges := tins s.merges m { x with takers := rs, st := 2, mask := s.maskOf g n x.ranks k } }
    if (s.merges.lookup m).isNone || x.st != 0 then .next s
    else (match s.groupOf g n with
    | none =>
      if late.isEmpty then .next (s.post (s.cycle + 1) 3 720 .inSwitchMerge s.arg)
      else
        let (k, s) := s.draw
        .next (fails s k ((s.ranksHere g n).filter (fun r => !(s.graphsOf g r).isEmpty)))
    | some rs =>
      if rs.any (fun r => !x.ranks.contains r) then
        if late.isEmpty then .next s
        else
          let (k, s) := s.draw
          .next (fails s k rs)
      else
        let (k, s) := s.draw
        let x := { x with takers := rs }
        if Config.switchFails k then .next (fails s k rs)
        else
          -- the members on other packages contribute what they send
          let others := (List.range (g.ranksM1 + 1)).filter (fun r => r != GNode.peer n && !s.rankHere g r && Config.peerMember k r)
          let sums := x.sums.zipIdx.map (fun p =>
            canonXa (others.foldl (fun a o => xaMerge false a (canonXa (Config.peerElement k (p.2 * 8192 + o)).toNat)) p.1))
          .next { s with merges := tins s.merges m { x with st := 1, sums := sums } })
  | _ => .next s

/-! Starting and ending (R410 to R413). -/

/-- The receives of a run post their credit, which stays until a send takes it: within the package at once, to another package by
the fabric; and for each send to another package the peer's credit is due in a time that the spec leaves open (R410). DEDUCED,
unsafe: log 58. -/
def State.postCredits (s : State) (id : Nat) : State :=
  let r := s.run id
  let g := s.graph r.die r.handle
  g.nodes.zipIdx.foldl (fun s ni =>
    let n := ni.1
    if GNode.sw n then s
    else if s.rankHere g (GNode.peer n) then
      if GNode.op n == 1 then { s with credits := s.credits ++ [(g.rankDie (GNode.peer n), GNode.peer n, g.myRank, GNode.chan n, r.k)] } else s
    else match GNode.op n with
      | 0 =>
        let (k, s) := s.draw
        let r := s.run id
        s.setRun id { r with credit := tput 0 r.credit ni.2 (s.cycle + 1 + Config.fabricDelay k) }
      | 1 => s.offerOut r.die roseStop 0 1 s.cycle 3 3 (g.rankNode (GNode.peer n))
        [linkHead 1 (g.rankDie (GNode.peer n)) (GNode.peer n) g.myRank (GNode.chan n) r.k (GNode.dx n) 0] 0 0
      | _ => s) s

/-- The run starts: nodes are armed, and those that wait for nothing fire in index order; a run in which none does ends (R406). -/
def State.startRun (s : State) (id : Nat) : State :=
  let r := s.run id
  let g := s.graph r.die r.handle
  let timed := g.slotNs != 0 && r.at_.isSome
  let ok := !s.skyUnsync && 2 * s.skyErr ≤ g.slotNs
  let s := s.setRun id { r with st := 2, start := s.skyNow, slotted := timed && ok, skew := timed && !ok }
  ((s.postCredits id).startNodes id ((List.range g.nodes.length).filter (fun i => GNode.waitc (g.node i) == 255 || GNode.thresh (g.node i) == 0))).runCheck id

/-- The virtual ranges that the nodes name: address and length. -/
def Run.ranges (r : Run) (g : Graph) : List (Nat × Nat × Bool) :=
  g.nodes.flatMap (fun n =>
    (if GNode.reads n && GNode.sbase n != 16 then [(r.addr (GNode.sbase n) (GNode.soff n), g.count n * g.stride (GNode.sx n), false)] else [])
    ++ (if GNode.writes n && GNode.dbase n != 16 then [(r.addr (GNode.dbase n) (GNode.doff n), g.count n * g.stride (GNode.dx n), true)] else []))

/-- Translates every range; the first fault, or the translations. -/
def State.runPages (s : State) (r : Run) (g : Graph) : List Trans ⊕ (Nat × Nat) :=
  (r.ranges g).foldl (fun acc x =>
    (List.range ((x.1 % 65536 + x.2.1 + 65535) / 65536)).foldl (fun acc i =>
      match acc with
      | .inr f => .inr f
      | .inl ts =>
        let a := (x.1 / 65536 + i) * 65536
        match s.walkNow r.ctx a with
        | .leaf t => if x.2.2 && !atW t.leaf.toNat then .inr (fcPerm, max x.1 a) else .inl (if ts.contains t then ts else ts ++ [t])
        | .fault c => .inr (c, max x.1 a)
        | .next _ => .inr (fcPage, max x.1 a)) acc) (.inl [])

/-- The table of 16 bases (R410), as the windrose reads it at its home. DEDUCED, unsafe: log 56. -/
def State.runBases (s : State) (r : Run) : (List Nat ⊕ (Nat × Nat)) × State :=
  [r.table, r.table + 64].foldl (fun (acc : (List Nat ⊕ (Nat × Nat)) × State) a =>
    match acc.1 with
    | .inr _ => acc
    | .inl bs => match acc.2.walkNow r.ctx a with
      | .fault c => (.inr (c, a), acc.2)
      | .next _ => (.inr (fcPage, a), acc.2)
      | .leaf t =>
        let x := acc.2.roseRead r.die (t.pa a) (t.attr a)
        (.inl (bs ++ (List.range 8).map (fun i => bits x.1.toNat (64 * i + 63) (64 * i))), x.2)) (.inl [], s)

/-- A run is accepted: its ranges are translated, its result lands, and it starts or waits for its time (R410, R413). A fault in
the translation raises late, and the run writes nothing (R369). DESIGN CHOICE, safe: log 10. -/
def State.acceptRun (s : State) (id : Nat) : State :=
  let r := s.run id
  let g := s.graph r.die r.handle
  let drop := { s with runs := tdel s.runs id }
  if ((s.die r.die).graphs.lookup r.handle).isNone then
    -- a handle that names no graph: the spec states no result
    let (n, t) := drop.draw
    t.windStatus r.slot r.uid (openCode (Config.openStatus n)).toNat
  else if 8 ≤ (s.runs.filter (fun kr => kr.2.die == r.die && kr.2.st != 0)).length then drop.windStatus r.slot r.uid 2
  else
    match drop.runBases r with
    | (.inr f, t) => t.windFault r.slot r.uid r.seq r.thread r.ctx f.1 f.2
    | (.inl bs, t) =>
      let r := { r with k := g.runs % 65536, bases := bs }
      match t.runPages r g with
      | .inr f => t.windFault r.slot r.uid r.seq r.thread r.ctx f.1 f.2
      | .inl ts =>
        let s := (t.setGraph r.die r.handle { g with runs := g.runs + 1 }).windStatus r.slot r.uid (r.k * 65536)
        let s := s.setRun id { r with st := 1, pages := ts, late := r.at_.any (fun t => decide (t < s.skyNow)) }
        if r.at_.all (fun t => decide (t ≤ s.skyNow)) then s.startRun id else s.post (s.cycle + 1) 3 690 .runStartTime [id]

/-- RUN_START_TIME: a run awaits the accesses of its thread, is accepted, and starts at its time (R410, R413). -/
def execRunStartTime (s : State) : Result :=
  let id := s.arg.headD 0
  if (s.runs.lookup id).isNone then .next s
  else
    let r := s.run id
    let again := s.post (s.cycle + 1) 3 690 .runStartTime [id]
    if r.st == 0 then
      if r.waits.any (fun u => (s.slot (s.follow r.slot)).open_.any (fun p => p.uid == u)) then .next again else .next (s.acceptRun id)
    else if r.st == 1 then (if r.at_.all (fun t => decide (t ≤ s.skyNow)) then .next (s.startRun id) else .next again)
    else .next s

/-- SIG of a completion (R412). -/
def Graph.sig (g : Graph) : Nat :=
  let order : Word := if g.ordered then
      g.nodes.foldl (fun h n => if GNode.op n == 2 then mix (mix h (BitVec.ofNat 64 (GNode.f n 255 192))) (BitVec.ofNat 64 (GNode.f n 191 128)) else h) 0
    else 0
  order.toNat + (if g.elsize == 0 then 0 else g.outLen / g.elsize) % 2 ^ 32 * 2 ^ 64 + g.rm * 2 ^ 96 + g.fmt * 2 ^ 99
    + (if g.ordered then 1 else 0) * 2 ^ 104 + (if g.ordered then (g.ranksM1 + 1) % 65536 else 0) * 2 ^ 112

/-- RUN_END: the run has ended, OK (3) or INCOMPLETE (4): its completion is delivered 8 cycles later (R411). -/
def execRunEnd (s : State) : Result :=
  let id := s.arg.headD 0
  let st := s.arg.getD 1 3
  if (s.runs.lookup id).isNone then .next s
  else
    let r := s.run id
    let g := s.graph r.die r.handle
    let start := r.addr (g.field 215 211) (g.field 255 216)
    let pay := (if st == 3 then 0 else 6) + r.flags * 2 ^ 8 + (if r.late then 2 ^ 16 else 0) + (if r.skew then 2 ^ 17 else 0)
      + r.handle * 2 ^ 32 + r.k * 2 ^ 48 + r.mask * 2 ^ 64 + g.outLen * 2 ^ 128 + start % 2 ^ 64 * 2 ^ 192 + g.sig * 2 ^ 256
    let s := s.sendAt (s.cycle + 8) { msg := { hdr := unitHdr 6 2 r.die r.tag 48, pay := BitVec.ofNat 960 pay }, dest := .slot r.dest }
    let s := s.setGraph r.die r.handle { g with ended := ((r.k, st, r.fired.length, r.done.length) :: g.ended).take 8 }
    let s := ({ s with runs := tdel s.runs id }).leaveMerges id g.myRank
    .next (match s.launches.lookup r.launch with
      | some l => (List.range l.crews.length).foldl (fun s q => s.post (s.cycle + 1) 8 q .taskEnd [r.launch, q]) s
      | none => s)

end Sys2Proof.Machine
end

