-- ==== Sys2Proof/Machine/Land.lean ====
section
/-! DEFINITION. Results that land (R13, R19, R107), fabric-window accesses (R298), and the instruction cache and the
fetch of a word (R37, R38, R366, R436). -/

namespace Sys2Proof.Machine

open Sys2Proof

/-! Results. -/

/-- A part of an entry's value has come; when it was the last the entry lands, after any acquire (R13, R310). -/
def State.landEntry (s : State) (g0 uid : Nat) : State :=
  let g := s.follow g0
  match s.entry g0 uid with
  | none => s
  | some e =>
    if e.landed then s
    else if 1 < e.left then s.updEntry g uid (fun e => { e with left := e.left - 1 })
    else if e.fault.isNone && !e.acq.isEmpty then
      (s.updEntry g uid (fun e => { e with acq := [], acqWide := [] })).startJoin
        { ctx := s.ctxOfSlot g, core := coreOf g, ranges := e.acq, wide := e.acqWide, inval := true, land := some (g, uid) }
    else s.updSlot g (fun x =>
      let x := { x with rb := x.rb.map (fun y => if y.uid == uid then { y with landed := true } else y) }
      match e.seq with
      | some q => if e.fault.isNone then x.ringDone q e.flags else x
      | none => x)

/-- The bytes of a response enter the entry of their access; a poisoned word gives it MCHK (R377). DEDUCED, safe: log 30. -/
def State.takeData (s : State) (q : GReq) (slot uid : Nat) : State :=
  let bad := q.elems.findSome? (fun e => s.poisonOf 0 (q.pa / 64 * 64 + e.addr % 64) e.n e.addr)
  (s.updEntry slot uid (fun e => { (e.orVal 0 (elemsValue q.rdata q.elems)) with
    fault := if e.fault.isNone then bad else e.fault })).landEntry slot uid

/-- The response of an L1 fetch merges into its line, which keeps its dirty bytes (R107): that of the latest fetch, so that no
later hit is older than what an earlier load received (R335). DEDUCED, unsafe: log 104. -/
def State.mergeL1 (s : State) (core r : Nat) (q : GReq) : State :=
  match s.l1Find core q.pa with
  | none => s
  | some l =>
    match l.miss with
    | none => s
    | some list =>
      if list.head? == some r then
        let l' := { l with
          data := mergeLine q.rdata l.data (l.dirty ||| l.newer), valid := BitVec.allOnes 64, miss := none, newer := 0 }
        let set := l1Set q.pa
        s.setL1 core set ((tget [] (s.core core).l1 set).map (fun x => if x.tag == l.tag then l' else x))
      else s

/-- RESULT_LANDS (R13): [slot, entry] a part of an entry's value has its time; [request] the response of a global access has
reached its core. -/
def execResultLands (s : State) : Result :=
  match s.arg with
  | [g, uid] => .next (s.landEntry g uid)
  | r :: _ =>
    let q := s.req r
    let s := s.delReq r
    (match q.sink with
    | .entry g uid => .next (s.takeData q g uid)
    | .l1 core g uid => .next ((s.mergeL1 core r q).takeData { q with rdata := mergeLine q.rdata q.wdata q.keep } g uid)
    | .prefetchL1 core => .next (s.mergeL1 core r q)
    | _ => .next s)
  | [] => .next s

/-! Fabric windows (R298). -/

/-- Whether a window access is answered. -/
def GReq.answered (q : GReq) : Bool :=
  match q.sink with | .tile _ => true | .copy _ _ => true | _ => q.acc.kind.hasEntry

/-- The response of a window access enters at the I/O link of the requester's row and crosses to it (R289). -/
def State.windowBack (s : State) (r : Nat) (data : Line) : State :=
  let q := s.req r
  (s.setReq r { q with rdata := data }).offerTo (entryDie q.die) ioStop q.die q.stop q.lane 1 s.cycle 3 (.resp r)

/-- WINDOW_ACCESS: [request] the access is performed at its target: at the LLC of this package where the window leads back
to it, else at a host or in another package, whose data is not of this part (R298). With 1, a request that another node has
sent is answered; with 2, it is performed at the LLC. DEDUCED, unsafe: log 81. -/
def execWindowAccess (s : State) : Result :=
  let r := s.arg.headD 0
  let q := s.req r
  if (s.reqs.lookup r).isNone then .next s
  else match s.arg.getD 1 0, q.sink with
  | 1, .fabric node tag =>
    -- an atomic's old value, or a status, in its place of the line
    .next ((s.delReq r).offerOut q.die ioStop q.lane 1 s.cycle 3 1 node (respLines tag 0 [q.rdata]) 0 0)
  | 2, _ => .next (s.llcServe r)
  | _, _ =>
    if s.windowNode q.pa == s.part.pkgix then
      .next ((s.setReq r { q with pa := q.pa % 2 ^ 51, attr := 32, llc := true }).llcServe r)
    else
      let (n, s) := s.draw
      let s := s.reqDone r
      if q.answered then .next (s.windowBack r (Config.fabricData n)) else .next (s.delReq r)

/-! The instruction cache (R436). -/

/-- Lines of a cluster's instruction cache. -/
def icacheLines : Nat := 1536

/-- The virtual address of a slot's next word (R37). -/
def State.fetchVa (s : State) (g : Nat) : Nat := fieldOf (s.launchOfSlot g).record 56 0 + 12 * (s.slot g).pc.toNat

/-- A line of the cluster's cache, made the most recent. -/
def State.icacheGet (s : State) (c line : Nat) : Option (Line × State) :=
  let k := s.cluster c
  match k.icache.lookup line with
  | none => none
  | some d => some (d, s.setCluster c { k with icache := (line, d) :: k.icache.filter (fun l => l.1 != line) })

/-- Requests a line from its home, as a load of a CA 01 page (R436), unless it is on its way. -/
def State.icacheAsk (s : State) (c pa attr : Nat) : State :=
  let k := s.cluster c
  if k.ifill.contains (pa / 64) then s
  else
    let s := s.setCluster c { k with ifill := k.ifill ++ [pa / 64] }
    let q := { s.mkReq { kind := .load } (c * 8) (pa / 64 * 64) attr s.cycle [] (.icache c) with wmask := 0 }
    if attr.testBit 51 then s.toWindow q else s.toSlice q s.cycle

/-- A virtual line of code is translated through the cluster TLB and requested, if it is absent; what it waits for is `w`
while its page is not in the TLB (R436). DEDUCED, unsafe: log 67. -/
def State.askLine (s : State) (c ctx va : Nat) (w : Waiter) : State :=
  if 2 ^ 57 ≤ va then s
  else match s.tlb c ctx va with
    | (none, s) => s.missTlb c ctx va w
    | (some t, s) =>
      if !atX t.leaf.toNat || ((s.cluster c).icache.lookup (t.pa va / 64)).isSome then s
      else s.icacheAsk c (t.pa va) (t.attr va)

/-- ICACHE_MISS: [slot, line] the slot's next word lies in an absent line; [slot, line, context] the line after one that a
slot takes its first word from, if that word has issued (R436); [slot, line, context, 0] the same once its page is known.
DEDUCED, unsafe: log 67. -/
def execIcacheMiss (s : State) : Result :=
  let g := s.arg.headD 0
  let line := s.arg.getD 1 0
  let c := clusterOf g
  match s.arg.drop 2 with
  | [ctx] =>
    let waits := match (s.slot g).st with
      | .parked .recvWork => false
      | .parked _ => true
      -- its marker has kept the word from issuing (R19); a word that raises an exact fault has issued (R370)
      | .stopped _ => (s.slot g).trapped.any (fun m => bits m.pay.toNat 55 54 == 1)
      | _ => false
    if waits || (s.slot g).lastLine == some (line - 1) then .next s
    else .next ((s.updSlot g (fun x => { x with lastLine := some (line - 1) })).askLine c ctx (64 * line) (.ahead g line ctx))
  | ctx :: _ => .next (s.askLine c ctx (64 * line) (.ahead g line ctx))
  | [] => .next (s.askLine c (s.ctxOfSlot g) (64 * line) (.fetch g line))

/-- Whether a store to a line has begun and is not performed: a request that writes it, a vector store with lines still to leave, a
`cstore` or `tstg` of its bytes. DESIGN CHOICE, unsafe: log 114. -/
def State.lineBusy (s : State) (line : Nat) : Bool :=
  let writes := fun (ps : List Trans) (ctx : Nat) (ls : List Nat) =>
    ls.any (fun l => (findTrans ps ctx (64 * l)).any (fun t => s.ownLine (t.pa (64 * l) / 64) == line))
  s.reqs.any (fun kq => s.ownLine (kq.2.pa / 64) == line && kq.2.wmask != 0)
    || s.slots.any (fun kx => kx.2.sending.any (fun y => y.acc.kind == .store && y.lines.any (fun l => s.ownLine (l.2.1 / 64) == line)))
    || s.copies.any (fun kc => kc.2.kind == 1 && kc.2.img == 0 && writes kc.2.pages kc.2.ctx kc.2.allLines)
    || s.tiles.any (fun kx => kx.2.acc.kind == .tileStore && writes kx.2.pages kx.2.ctx kx.2.linesOf)

/-- Whether a store to code is whole at the homes that a die reads: nothing of it is under way, and none of its bytes stand in an L1 or
in a slice of another die. DESIGN CHOICE, unsafe: log 114. -/
def State.wholeAt (s : State) (x : CodeStore) (die : Nat) : Bool :=
  x.lines.all (fun l =>
    let left := fun (ls : List CLine) => ls.any (fun c => c.tag == l.1 && c.dirty &&& l.2.2 != 0)
    !s.lineBusy l.1 && !s.cores.any (fun kc => left (tget [] kc.2.l1 (l1Set (64 * l.1))))
      && !s.slices.any (fun ks => ks.1 / 128 != die && left (tget [] ks.2.sets (l2Set (64 * l.1)))))

def CodeStore.covers (x : CodeStore) (line : Nat) : Bool := x.lines.any (fun l => l.1 == line)

/-- The stores to code are looked at: one that is now whole for a die is so, and the lines that its clusters have cached are older; one
that is whole everywhere and older nowhere is forgotten. -/
def State.settleCode (s : State) : State :=
  let cached := fun (c line : Nat) => (s.cluster c).icache.any (fun y => s.ownLine y.1 == line)
  { s with codeStores := (s.codeStores.map (fun (x : CodeStore) =>
      (List.range 8).foldl (fun (x : CodeStore) d =>
        if x.whole.contains d || !s.wholeAt x d then x
        else { x with
          whole := x.whole ++ [d]
          stale := x.stale ++ (s.clusters.filter (fun kc => kc.1 / 256 == d)).flatMap (fun kc =>
            (x.lines.filter (fun l => cached kc.1 l.1)).map (fun l => (kc.1, l.1))) })
        { x with stale := x.stale.filter (fun y => cached y.1 y.2) })).filter (fun x => !(x.whole.length == 8 && x.stale.isEmpty)) }

/-- A line as a fetch of a die finds it at its home: in the slice, or at the LLC. -/
def State.homeLine (s : State) (die line attr : Nat) : Line :=
  match (tget [] (s.slice (s.homeSlice die (64 * line) attr)).sets (l2Set (64 * line))).find? (fun c => c.tag == line && c.miss.isNone) with
  | some c => c.data
  | none => s.llcLine line attr

/-- A line of code that a cluster has fetched, as a store that the home holds in part leaves it: as before the store until it is whole
there, and then as the home has it; so that no fetch sees a word in part (R38). DESIGN CHOICE, unsafe: log 114. -/
def State.codeView (s : State) (c line0 attr : Nat) (got : Line) : Line :=
  let line := s.ownLine line0
  let die := c / 256
  match s.codeStores.filter (fun x => x.covers line) with
  | [] => got
  | xs => match xs.find? (fun x => !x.whole.contains die) with
    | some x => ((x.lines.find? (fun l => l.1 == line)).map (·.2.1)).getD got
    | none => s.homeLine die line attr

/-- ICACHE_FILL: [cluster, line, request] the line enters the cache, which gives up its least recently used line. -/
def execIcacheFill (s : State) : Result :=
  let c := s.arg.headD 0
  let line := s.arg.getD 1 0
  let r := s.arg.getD 2 0
  let q := s.req r
  let s := s.settleCode
  let k := s.cluster c
  let s := { s with codeStores := s.codeStores.map (fun (x : CodeStore) => { x with stale := x.stale.filter (· != (c, s.ownLine line)) }) }
  .next ((s.setCluster c { k with
    icache := ((line, s.codeView c line q.attr q.rdata) :: k.icache.filter (fun l => l.1 != line)).take icacheLines
    ifill := k.ifill.filter (· != line) }).delReq r)

/-- Whether two cached lines of a cluster hold a store to code one without the other. -/
def State.torn (s : State) (c l1 l2 : Nat) : Bool :=
  let (l1, l2) := (s.ownLine l1, s.ownLine l2)
  s.codeStores.any (fun x => x.covers l1 && x.covers l2 && x.stale.contains (c, l1) != x.stale.contains (c, l2))

/-- A word that straddles two lines that are present: the 12 bytes there, but where one of the lines is older than a store to both and
the other is not, the bytes that the homes hold, so that a fetch returns the old bytes or the new ones (R38). DESIGN CHOICE, unsafe: log 114. -/
def State.straddle (s : State) (c pa l2 at1 at2 : Nat) (d1 d2 : Line) : BitVec 96 :=
  let l1 := pa / 64
  let word := fun (d1 d2 : Line) => BitVec.ofNat 96 ((d2 ++ d1).toNat / 2 ^ (8 * (pa % 64)))
  if s.torn c l1 l2 then word (s.codeView c l1 at1 d1) (s.codeView c l2 at2 d2) else word d1 d2

/-- What the fetch of one line finds: a hit names the line's place. -/
inductive LineFetch where
  | hit (pa : Nat) (d : Line) (s : State)
  | miss (s : State)
  | fault (code : Nat) (s : State)

/-- A line of a slot's next word: through the TLB, which faults without X (R38, R102), and the cache. A line that is present
needs its translation in the TLB all the same: the slot waits for the walk. DEDUCED, unsafe: log 67. -/
def State.fetchLine (s : State) (g va : Nat) : LineFetch :=
  let c := clusterOf g
  match s.tlb c (s.ctxOfSlot g) va with
  | (none, s) => .miss (s.post s.cycle 3 600 .icacheMiss [g, va / 64])
  | (some t, s) =>
    if !atX t.leaf.toNat then .fault fcPerm s
    else match s.icacheGet c (t.pa va / 64) with
      | some (d, s) => .hit (t.pa va) d s
      | none => .miss (s.post s.cycle 3 600 .icacheMiss [g, va / 64])

/-- What the turn of a slot finds. -/
inductive Fetched where
  /-- the slot's next word -/
  | word (w : BitVec 96) (s : State)
  /-- nothing issues in this turn -/
  | idle (s : State)

/-- The word is there: the line after one that the slot has just begun is requested once the word has issued (R436).
DEDUCED, unsafe: log 67. -/
def State.fetchHit (s : State) (g va : Nat) : State :=
  let last := (va + 11) / 64
  if (s.slot g).lastLine == some last then s else s.post s.cycle 3 601 .icacheMiss [g, last + 1, s.ctxOfSlot g]

/-- Fetches the running slot's next word (R37, R38, R436). DEDUCED, unsafe: log 21. -/
def State.fetch (s : State) : Fetched :=
  let g := s.cur
  let va := s.fetchVa g
  if 2 ^ 57 < va + 12 then .idle (s.raise fcSpace va)
  else match s.fetchLine g va with
    | .fault code s => .idle (s.raise code va)
    | .miss s =>
      -- a word that straddles two lines requests both that are absent
      if va % 64 + 12 ≤ 64 then .idle (s.park g .fetch)
      else match s.fetchLine g ((va / 64 + 1) * 64) with
        | .miss s => .idle (s.park g .fetch)
        | .hit _ _ s => .idle (s.park g .fetch)
        | .fault _ s => .idle (s.park g .fetch)
    | .hit pa d s =>
      if va % 64 + 12 ≤ 64 then .word (BitVec.ofNat 96 (d.toNat / 2 ^ (8 * (va % 64)))) (s.fetchHit g va)
      else
        let va2 := (va / 64 + 1) * 64
        match s.fetchLine g va2 with
        | .fault code s => .idle (s.raise code va2)
        | .miss s => .idle (s.park g .fetch)
        | .hit pa2 d2 s =>
          let at_ := fun (va : Nat) => ((findTrans (s.cluster (clusterOf g)).tlb (s.ctxOfSlot g) va).map (·.attr va)).getD 0
          .word (s.straddle (clusterOf g) pa (pa2 / 64) (at_ va) (at_ va2) d d2) (s.fetchHit g va)

/-! Turns (R9, R11, R12). -/

/-- The order in which feathering masks the cycles of 16 (R366). -/
def featherOrder : List Nat := [0, 8, 4, 12, 2, 10, 6, 14, 1, 9, 5, 13, 3, 11, 7, 15]

/-- Whether a mill's cores are feathered at a cycle (R366). -/
def State.feathered (s : State) (mill t : Nat) : Bool :=
  (featherOrder.take (s.mill mill).feather).contains ((t + 16 - t / 1050 % 16) % 16)

/-- A fault that the slot carries into its turn: that of a fetch whose walk has ended, or a register-parity error, whose
detail the spec does not state (R38, R377). DESIGN CHOICE, safe: log 10. -/
def State.carried (s : State) : Option State :=
  let va := s.fetchVa s.cur
  match s.me.fetchFault with
  | none => none
  | some (code, block) =>
    let s := s.updMe (fun x => { x with fetchFault := none })
    if code == fcMchk then
      let (n, s) := s.draw
      some (s.raise fcMchk (Config.openStatus n).toNat)
    else if block == va / 65536 then some (s.raise code va)
    else if block == (va + 11) / 65536 then some (s.raise code ((va / 64 + 1) * 64))
    else none

/-- The turn of the running slot: lost while it is feathered, while its crew is being saved, or while it is parked in
`recv.work`; else its next word is fetched. DEDUCED, unsafe: log 63. DEDUCED, unsafe: log 66. -/
def State.turn (s : State) : Fetched :=
  let g := s.cur
  let s := s.updMe (fun x => { x with due := none })
  if (s.mill (millOf g)).stopping && !s.isFirmware g then .idle s
  else if s.feathered (millOf g) s.cycle then .idle (s.again g)
  else match s.me.st with
    | .parked .recvWork => .idle ((s.chargeWait g).again g)
    | .running | .parked _ =>
      (match s.carried with
      | some s => .idle s
      | none => s.fetch)
    | _ => .idle s

end Sys2Proof.Machine
end

