-- ==== Sys2Proof/Machine/System.lean ====
section
/-! DEFINITION. Late faults, trap messages and their forwarding, slotgo (R370, R371, R383), migration (R71 to R75), feathering
(R366), machine checks (R377, R435), and what firmware, the boot ROM and the fabric do (R294, R297 to R302, R352, R353,
R378, R379). -/

namespace Sys2Proof.Machine

open Sys2Proof

/-! Late faults and traps. -/

/-- A late fault of a thread that a save holds is kept with its slot. -/
def State.savedLate (s : State) (g code seq detail img : Nat) : State :=
  let x : SaveImage := tget {} s.saves img
  let k := x.oldMills.takeWhile (· != millOf g) |>.length
  { s with saves := tput {} s.saves img { x with slots := x.slots.mapIdx (fun j t =>
    if j == k then
      let y : Slot := tget {} t (g % 512)
      tput {} t (g % 512) { y with heldLate := y.heldLate ++ [(code, seq, detail)] }
    else t) } }

/-- LATE_FAULT: [slot, code, sequence, detail, thread, context] a late fault arrives (R370); one of a thread that migrates is held with
its state (R75), and so is one of a thread that a save holds. DEDUCED, unsafe: log 60. -/
def execLateFault (s : State) : Result :=
  match s.arg with
  | [g0, code, seq, detail, thread, ctx] =>
    let g := s.follow g0
    let x := s.slot g
    if x.st == .migrating && x.thread == thread then
      .next (s.setSlot g { x with heldLate := x.heldLate ++ [(code, seq, detail)] })
    else match s.savedSlots.lookup thread with
      | some (img, old) => .next (s.savedLate old code seq detail img)
      | none => .next (s.lateFault g0 code seq detail thread ctx)
  | _ => .next s

/-- The context that a kind-3 or kind-9 message names (R371, R435). -/
def Msg.owner (m : Msg) : Nat := if m.kind == 3 then bits m.pay.toNat 31 24 else bits m.pay.toNat 71 64

/-- Whether a context exists: FEATACC holds BASE (R353). -/
def State.ctxExists (s : State) (ctx : Nat) : Bool := ctx < 256 && fieldOf (s.context ctx).record 511 0 != 0

/-- FPOL and HSLOT of a context (R354). -/
def State.fpol (s : State) (ctx : Nat) : Nat := fieldOf (s.context ctx).record 247 246
def State.hslot (s : State) (ctx : Nat) : Nat := fieldOf (s.context ctx).record 245 222

/-- Firmware of a slot forwards a message by FPOL: to the handler slot, as a message travels (R284), or to the host fault mailbox
(R371). DESIGN CHOICE, unsafe: log 38. -/
def State.forwardTrap (s : State) (m : Msg) (from_ : Nat) : State :=
  let ctx := m.owner
  let die := dieOf from_
  if !s.ctxExists ctx then s.sendAt s.cycle { msg := m, dest := .log die }
  else
    let h := s.hslot ctx
    if s.fpol ctx == 1 && (s.slot (s.follow h)).st.hasThread then
      let (u, s) := s.fresh
      (s.setSent u { msg := { m with uid := u }, dest := .slot h }).routeMsg u from_
    else s.toHost die (s.hnode ctx) (s.fmbox ctx) m

/-- TRAP_FORWARD: [slot, message] firmware takes a message from a supervisor slot's mailbox and forwards it; [message] it forwards
one for a supervisor slot that it has not loaded (R28, R371). DESIGN CHOICE, unsafe: log 38. -/
def execTrapForward (s : State) : Result :=
  match s.arg with
  | [g, u] =>
    (match (s.slot g).mbox.find? (fun m => m.uid == u) with
    | none => .next s
    | some m =>
      let s := s.updSlot g (fun x => { x with mbox := x.mbox.filter (fun y => y.uid != u) })
      .next ((s.retryHeld g).forwardTrap m g))
  | _ =>
    let u := s.arg.headD 0
    let x := s.sent u
    let g := match x.dest with | .slot g => g | _ => 0
    .next ((s.forwardTrap x.msg g).delSent u)

/-- SUPERVISOR_RESTART: [cluster] firmware restarts a supervisor slot that a fault has stopped; where it goes on, the spec
does not state. The cluster's held faults are then delivered (R370). DESIGN CHOICE, safe: log 10. DEDUCED, unsafe: log 65. -/
def execSupervisorRestart (s : State) : Result :=
  let c := s.arg.headD 0
  -- the thread may have migrated: its slot is the one that the supervisor slot forwards to (R73)
  let g := s.follow (supervisorOf c)
  let x := s.slot g
  match x.st with
  | .stopped _ =>
    let (n, s) := s.draw
    let s := s.setSlot g { x with
      st := .running, late := none, trapped := none, pc := (Config.openStatus n).setWidth 32
      rb := x.rb.filter (fun e => e.fault.isNone) }
    let s := s.turnAt g (s.cycle + 1)
    let held := (s.cluster c).supHeld
    let s := s.updCluster c (fun k => { k with supHeld := [] })
    .next (held.foldl (fun s y => s.sendAt s.cycle y) s)
  | _ => .next s

/-! Resuming a slot (R383). -/

/-- An exact fault of an instruction that a resume issues again: the slot stops, its program counter as it is. -/
def State.raiseAt (s : State) (g code ix detail : Nat) : State :=
  let m := trapMsg g (s.ctxOfSlot g) code 0 ix detail 0 0 false
  (s.updSlot g (fun t => { t with st := .stopped code, due := none, trapped := some m })).reportFault g (s.cycle + 8) m

/-- Parts of an access whose results its entry awaits. -/
def Access.parts (a : Access) : Nat :=
  match a.kind with
  | .load => max 1 a.lines.length
  | .xrnd => max 1 a.words.length
  | _ => 1

/-- The pond words of an access whose banks its issue checks (R156, R163, R319): none of a block load or store. -/
def Access.bankWords (a : Access) : List Nat :=
  match a.kind with
  | .blkLoad => []
  | .blkStore => []
  | .atomic 11 => (List.range 5).map (a.addr / 64 + ·)
  | .xrnd => if a.ty == 9 then (List.range 5).map (a.addr / 64 + ·) else (List.range (a.span / 64)).map (a.addr / 64 + ·)
  | .xclr => if a.ty == 9 then (List.range 5).map (a.addr / 64 + ·) else (List.range (a.span / 64)).map (a.addr / 64 + ·)
  | .xacc => (List.range (a.span / 64)).map (a.addr / 64 + ·)
  | _ => a.words.map (·.1)

/-- Whether an access now meets a bank that has been retired, in the own pond or in a crew member's (R156, R319). -/
def Mill.reissueBad (m : Mill) (a : Access) : Bool :=
  match a.space with
  | .pond => a.bankWords.any (fun w => m.isRetired (64 * w))
  | .crew =>
    let hole := (m.holes[bits a.addr 24 21]?).getD 0
    a.bankWords.any (fun w => let o := 64 * w % 2 ^ 21; hole.getLsbD (8 * offGroup o + offBank o))
  | .glob => false

/-- A kept faulting entry of the slot, or a fault record, is issued again as a new access (R383); an access to a bank that has
been retired raises BANKRET instead (R156). DEDUCED, unsafe: log 80. -/
def State.reissue (s : State) (g : Nat) (e : Entry) : State × Bool :=
  match e.acc with
  | none => (s, true)
  | some a =>
    let m := s.mill (millOf g)
    if m.reissueBad a then (s.raiseAt g fcBankret e.ix a.addr, false)
    else
      let (u, s) := s.fresh
      let a := { a with uid := u, slot := g, ord := a.order }
      let s := s.updSlot g (fun x => { x with
       rb :=
        if a.kind.isBind then x.rb.map (fun y => if y.uid == e.uid then { y with uid := u, acc := some a } else y)
        else if e.isRec then x.rb.filter (fun y => y.uid != e.uid)
        else x.rb.map (fun y => if y.uid == e.uid then
          { y with uid := u, acc := some a, fault := none, landed := false, left := a.parts, flags := 0
                   writes := y.writes.map (fun w => { w with val := 0 }) }
          else y) })
      match a.kind with
      | .bind op => (s.rebind op { e with uid := u } a, true)
      | .control =>
        let c : CtlReq := tget {} s.controls a.aux
        let s := { s with controls := tput {} s.controls a.aux { c with slot := g, uid := u } }
        (s.offer (dieOf g) (s.part.stopOf (millOf g)) 60 0 1 (s.cycle + 6) 0 (.control a.aux), true)
      | _ => (s.issueAccess a, true)

/-- The re-issues in issue order, until one faults. DEDUCED, unsafe: log 80. -/
def State.reissueAll (s : State) (g : Nat) : List Entry → State × Bool
  | [] => (s, true)
  | e :: t =>
    match s.reissue g e with
    | (s, false) => (s, false)
    | (s, true) => s.reissueAll g t

/-- A stopped slot resumes in a mode of R383. -/
def State.resumeSlot (s : State) (g mode : Nat) : State :=
  let x := s.slot g
  -- a `recv.work` that still waits is issued again, or left out
  let x := { x with late := none, trapped := none, rb := x.rb.filter (fun e => !(e.form == .work && !e.landed)) }
  let bad := x.rb.filter (fun e => e.landed && e.fault.isSome)
  if mode == 0 then
    match (s.setSlot g x).reissueAll g bad with
    | (s, true) => (s.updSlot g (fun x => { x with st := .running })).turnAt g (s.cycle + 1)
    | (s, false) => s
  else
    let x := { x with st := .running, rb := x.rb.filter (fun e => !(e.landed && e.fault.isSome)), pc := if mode == 1 then x.pc + 1 else x.pc }
    (s.setSlot g x).turnAt g (s.cycle + 1)

/-- slotgo (R383): it acts only on states 3 and 4; a mode above 2 raises ILLOP. -/
def slotgoBody (x : Args) (s : State) : State :=
  onTarget 2 x false (fun t s =>
    let y := s.slot t
    let mode := (s.opVal x.c).toNat
    if 2 < mode then s.raise fcIllop (illopDetail (encWord 2 2 x))
    else
      let code := y.st.code
      let s := if code == 3 || code == 4 then s.resumeSlot t mode else s
      (s.writeA x (BitVec.ofNat 64 code)).advance) s

def execSlotgo (x : Args) (s : State) : Result := plain 0x02 2 x s (slotgoBody x)

/-! Migration (R71 to R75). -/

/-- Every line leaves an L1; dirty bytes are written back (R339). DEDUCED, unsafe: log 61. -/
def State.emptyL1 (s : State) (core : Nat) (sink : Sink) : State :=
  let ls := (s.core core).l1.flatMap (·.2)
  let c := s.core core
  ls.foldl (fun s l => s.wbL1 core l s.cycle sink) (s.setCore core { c with l1 := [] })

/-- The dirty bytes of an L1 go home and their lines leave it, as `clg` at core scope has it (R130, R339). The join that awaits them and the write-backs that have left before, none where
there is nothing to await. DEDUCED, unsafe: log 61. -/
def State.cleanL1 (s : State) (core : Nat) : Option Nat × State :=
  let c := s.core core
  let dirty := (c.l1.flatMap (·.2)).filter (fun l => l.dirty != 0)
  let away := fun (q : GReq) => !q.llc && q.core == core + 1
  if dirty.isEmpty && !s.reqs.any (fun kq => kq.2.writeBack && away kq.2) then (none, s)
  else
    let (j, s) := s.fresh
    let (n, s) := s.awaitReqs j away
    let s := s.setJoin j { left := n + dirty.length, stage := 2, core := core }
    let s := s.setCore core { c with l1 := (c.l1.map (fun kl => (kl.1, kl.2.filter (fun l => l.dirty == 0)))).filter (fun kl => !kl.2.isEmpty) }
    (some j, dirty.foldl (fun s l => s.wbL1 core l s.cycle (.join j)) s)

/-- The lowest empty slot of the lowest G core of a cluster (R71). -/
def State.gSlot (s : State) (c : Nat) : Option Nat :=
  (List.range 64).findSome? (fun i => if (s.slot (c * 128 + i)).st == .empty then some (c * 128 + i) else none)

/-- The transfer to a reserved slot begins: the dirty bytes of the source core go home (R339), and the thread issues there at
the slot's first issue cycle at or after 160 cycles (R71). -/
def State.transfer (s : State) (src dst : Nat) : State :=
  let (j, s) := s.cleanL1 (coreOf src)
  let s := s.updSlot src (fun x => { x with st := .migrating, link := some dst, flush := j })
  let s := s.updSlot dst (fun x => { x with st := .reserved, link := some src })
  s.post (issueAt dst (s.cycle + 160)) 1 500 .migrationArrive [src, dst]

/-- MIGRATION_START: [slot] cycle m of a thread at its G instruction: it takes a G-core slot, or enters the queue (R71,
R72).
A thread that `slotstop` has stopped before m does not migrate then; after `slotgo` its G instruction issues again.
DESIGN CHOICE, unsafe: log 153. -/
def execMigrationStart (s : State) : Result :=
  let g := s.arg.headD 0
  let c := clusterOf g
  if (s.slot g).st != .parked .migration || ((s.mill (millOf g)).stopping && !s.isFirmware g) then .next s
  else match s.gSlot c with
    | some d => .next (s.transfer g d)
    | none => .next ((s.updSlot g (fun x => { x with st := .migrating, link := none })).updCluster c (fun k => { k with migq := k.migq ++ [g] }))

/-- Waiting threads take G-core slots, first in, first out. -/
def State.serveQueue (s : State) (c : Nat) : Nat → State
  | 0 => s
  | n + 1 =>
    match (s.cluster c).migq, s.gSlot c with
    | g :: rest, some d => ((s.updCluster c (fun k => { k with migq := rest })).transfer g d).serveQueue c n
    | _, _ => s

/-- MIGRATION_QUEUE_SERVE: [cluster] a slot has emptied (R72). -/
def execMigrationQueueServe (s : State) : Result :=
  let c := s.arg.headD 0
  .next (s.serveQueue c (s.cluster c).migq.length)

/-- The lines of accesses that have not left go on to leave (R126). -/
def State.sendOn (s : State) (g : Nat) (l : List Sending) : State := l.foldl (fun s y => s.postSend g y.acc.uid) s

/-- MIGRATION_ARRIVE: [source, destination] the thread's state is in its new slot, and it issues in this cycle, once the
write-backs are performed; a held late fault parks it first (R71, R73, R75, R339). DEDUCED, unsafe: log 60. DEDUCED, unsafe: log 61.
DEDUCED, unsafe: log 121. -/
def execMigrationArrive (s : State) : Result :=
  let src := s.arg.headD 0
  let dst := s.arg.getD 1 0
  let x := s.slot src
  let d := s.slot dst
  if x.st != .migrating || x.link != some dst || d.st != .reserved then .next s
  else if (match x.flush with | some j => (s.joins.lookup j).isSome | none => false) then
    .next (s.post (s.cycle + 16) 1 500 .migrationArrive [src, dst])
  else
    let s := s.emptyL1 (coreOf dst) .none
    let s := s.setSlot dst { x with
      st := .running, link := some src, flush := none, heldLate := [], due := none, lastLine := none
      open_ := d.open_ ++ x.open_.map (fun p => { p with moved := true }), held := d.held ++ x.held, sending := d.sending ++ x.sending }
    let s := s.setSlot src { st := .forwarding, link := some dst, thread := x.thread }
    let s := { s with heldMsgs := tput [] (tdel s.heldMsgs src) dst (tget [] s.heldMsgs dst ++ tget [] s.heldMsgs src) }
    let s := s.retryHeld dst
    let s := (s.sendOn dst x.sending).drain dst
    if x.heldLate.isEmpty then .next (s.turnAt dst s.cycle)
    else .next (x.heldLate.foldl (fun s f => s.lateFault dst f.1 f.2.1 f.2.2 x.thread (s.ctxOfSlot dst)) s)

/-! Feathering (R366). -/

/-- The next level of a mill, from its energy in thousandths of its share and the die's headroom in tenths of a degree. -/
def nextFeather (f energy headroom : Nat) : Nat :=
  if 1000 < energy || headroom < 50 then min (f + 1) 12
  else if energy < 850 && 100 ≤ headroom then f - 1
  else f

/-- FEATHER_WINDOW_END: the fantail sets every mill's level for the next window (R366). DESIGN CHOICE, safe: log 9. -/
def execFeatherWindowEnd (s : State) : Result :=
  let s := (List.range 8).foldl (fun s d =>
    let (h, s) := s.draw
    (List.range s.part.liveMills).foldl (fun s m =>
      let (e, s) := s.draw
      s.updMill (d * 64 + m) (fun k => { k with feather := nextFeather k.feather (Config.millEnergy e) (Config.thermalHeadroom h) })) s) s
  .next (s.post (s.cycle + 1050) 0 0 .featherWindowEnd [])

/-! Machine checks (R377, R435). -/

/-- A kind-9 message. DEDUCED, unsafe: log 70. -/
def checkMsg (tag die ctx addr gen lid mill bank : Nat) : Msg :=
  { hdr := unitHdr 9 7 die tag 32
    pay := BitVec.ofNat 960 (addr % 2 ^ 64 * 2 ^ 192 + gen % 2 ^ 32 * 2 ^ 160 + lid % 2 ^ 32 * 2 ^ 128 + ctx % 256 * 2 ^ 64
      + die % 32 * 2 ^ 37 + mill % 64 * 2 ^ 31 + bank % 32 * 2 ^ 26) }

/-- The lowest live cluster of a mill. -/
def State.liveCluster (s : State) (mill : Nat) : Option Nat :=
  (List.range 4).findSome? (fun c => if (s.cluster (mill * 4 + c)).retired then none else some (mill * 4 + c))

/-- The context whose task holds a mill, or last held it. -/
def State.millOwner (s : State) (mill : Nat) : Nat :=
  match (s.mill mill).launch with
  | some l => (s.launchOf l).ctx
  | none => (s.mill mill).lastCtx

/-- Whether a mill runs a task of its crew. -/
def State.runsTask (s : State) (m : Mill) : Bool :=
  match m.launch with
  | some l => (((s.launchOf l).current[m.crew]?).getD none).isSome
  | none => false

/-- The lowest cluster, by die, mill and cluster, that runs a task of a context. -/
def State.runsIn (s : State) (ctx : Nat) : Option Nat :=
  (s.mills.findSome? (fun km => match km.2.launch with
    | some l => if (s.launchOf l).ctx == ctx && s.runsTask km.2 then some km.1 else none
    | none => none)).bind s.liveCluster

/-- The stop of the dispatcher, with the log of machine checks (R265). -/
def dispatcherStop : Nat := 53

/-- The compute die by which the machine checks of a die, or of a base or I/O die beside it, travel (R287, R289, R292).
DESIGN CHOICE, unsafe: log 163. -/
def checkDie (die : Nat) : Nat := if die < 16 then die % 8 else if die == 16 then 0 else 3

/-- To the fault mailbox of a context, or to the log where it does not exist. -/
def State.toFmbox (s : State) (m : Msg) (die ctx : Nat) : State :=
  if !s.ctxExists ctx then s.sendAt s.cycle { msg := m, dest := .log die }
  else s.toHost (checkDie die) (s.hnode ctx) (s.fmbox ctx) m

/-- A machine-check message goes to a supervisor slot, as a packet but within the mill of the event, or else to the fault mailbox
(R284, R435). The check of no mill leaves by the dispatcher's stop. DESIGN CHOICE, unsafe: log 163. -/
def State.toOwner (s : State) (m : Msg) (die ctx : Nat) (at_ c : Option Nat) : State :=
  if !s.ctxExists ctx then s.sendAt s.cycle { msg := m, dest := .log die }
  else match c with
    | some c =>
      let x : Sent := { msg := m, dest := .slot (supervisorOf c) }
      match at_ with
      | some mill => s.sendFrom (mill / 64) (s.part.stopOf mill) x
      | none => s.sendFrom (checkDie die) dispatcherStop x
    | none => s.toFmbox m die ctx

/-- The message on a retired bank holds, below BANK, the crew stores dropped with it (R156, R435). DESIGN CHOICE, unsafe: log 122. -/
def Msg.counting (m : Msg) (n : Nat) : Msg := { m with pay := m.pay ||| BitVec.ofNat 960 (n % 2 ^ 26) }

/-- The leaf that maps a physical address in the tables of a context, under a table of a level: of several, the first in the order of
the virtual addresses. -/
def State.pageOver (s : State) (ctx pa : Nat) : Nat → Nat → Option Nat
  | 0, _ => none
  | n + 1, table =>
    (List.range (if n == 3 then 2 ^ 18 else if n == 0 then 32 else 512)).findSome? (fun i =>
      match s.walkEntry ctx 0 n (s.llcBytes (table + 16 * i) 0 16) with
      | .next t => s.pageOver ctx pa n t
      | .leaf t => if atAddr t.leaf.toNat ≤ pa && pa < atAddr t.leaf.toNat + t.size then some t.leaf.toNat else none
      | .fault _ => none)

/-- The OWNER of the page of a line of device memory: as a cached copy of the line shows it, or its encryption, or a TLB, or the
tables of the contexts (R377, R435); 256 where no page maps it. DEDUCED, unsafe: log 70. -/
def State.lineOwner (s : State) (line : Nat) : Nat :=
  let cached := (s.llcGet line).map (·.attr)
  let inL2 := s.slices.findSome? (fun kv => ((kv.2.sets.flatMap (·.2)).find? (fun (l : CLine) => l.tag == line)).map (·.attr))
  let inL1 := s.cores.findSome? (fun kv => ((kv.2.l1.flatMap (·.2)).find? (fun (l : CLine) => l.tag == line)).map (·.attr))
  let inHbm := s.hbmAttr.lookup line
  let inTlb := s.clusters.findSome? (fun kv => (kv.2.tlb.find? (fun t => atAddr t.leaf.toNat ≤ 64 * line && 64 * line < atAddr t.leaf.toNat + t.size)).map
    (fun t => t.leaf.toNat))
  match (cached.or (inL2.or (inL1.or (inHbm.or inTlb)))) with
  | some at_ => atOwner at_
  | none =>
    match (List.range 256).findSome? (fun ctx => if s.ctxExists ctx then s.pageOver ctx (64 * line) 4 (fieldOf (s.context ctx).record 51 0) else none) with
    | some at_ => atOwner at_
    | none => 256

/-- A bank's correction is counted; the 64th within 2^20 cycles decides its retirement (R156). -/
def State.correct (s : State) (mill bank : Nat) : State :=
  let m := s.mill mill
  let l := (s.cycle :: tget [] m.corrections bank).filter (fun t => s.cycle < t + 2 ^ 20)
  let s := s.setMill mill { m with corrections := tput [] m.corrections bank l }
  if 64 ≤ l.length && !m.bankRet.getLsbD bank then s.post s.cycle 0 4 .bankRetireDecided [mill, bank] else s

/-- A corrected error of an L1, a slice or a base die is counted (R377). DEDUCED, unsafe: log 70. -/
def State.countCorrected (s : State) (k : Nat) : State := { s with corrected := tput 0 s.corrected k (tget 0 s.corrected k + 1) }

/-- An uncorrectable error in a line of an L1: a clean line goes, so that it is fetched again; the word of a dirty one is
poisoned (R377). -/
def State.l1Error (s : State) (core p : Nat) : State × Bool :=
  match s.l1Find core p with
  | some l =>
    if l.dirty == 0 then
      let set := l1Set p
      (s.setL1 core set ((tget [] (s.core core).l1 set).filter (fun x => x.tag != l.tag)), false)
    else ({ s with poison := tput false s.poison (p / 8) true }, true)
  | none => (s, false)

/-- A flit that fails its check on a link is sent again from the hop: it is ready so much later (R377). DEDUCED, unsafe: log 70. -/
def State.resend (s : State) (u k : Nat) : State :=
  let p := s.packet u
  match p.flits.lookup k with
  | some f =>
    if f.port == 0 then s
    else
      let (n, s) := s.draw
      s.setPacket u { p with flits := tins p.flits k { f with ready := max f.ready s.cycle + 1 + Config.resendDelay n } }
  | none => s

/-- MACHINE_CHECK: [cause, die, place]: 0 a corrected error of a pond bank (mill times 32 plus bank); 1 an uncorrectable error
found at eviction, write-back or scrub, and 2 a word newly poisoned (its physical address; from 2^52 on a pond byte, whose
bank retires); 3 a bank retired; 4 a change of the enumeration table; 5 a vacated mill, with its launch and context; 6 a parity error
of a register that the slot's next instruction reads; 7, 8, 9 a corrected error of a core's L1, a slice, a base die; 10 an
uncorrectable error in an L1, of a core, at an address; 11 a flit of a packet that fails its check on a link (R156, R377,
R435). DEDUCED, unsafe: log 64. DESIGN CHOICE, safe: log 69. DEDUCED, unsafe: log 70. -/
def execMachineCheck (s : State) : Result :=
  let die := s.arg.getD 1 0
  let p := s.arg.getD 2 0
  match s.arg.headD 0 with
  | 0 => .next (s.correct (die * 64 + p / 32) (p % 32))
  | 3 =>
    let mill := die * 64 + p / 32
    let ctx := s.millOwner mill
    let m := (checkMsg 3 die ctx 0 0 0 (p / 32) (p % 32)).counting (tget 0 (s.mill mill).dropped (p % 32))
    let c := if s.runsTask (s.mill mill) then s.liveCluster mill else none
    let s := s.toOwner m die ctx (some mill) c
    .next (s.post s.cycle 3 930 .enumTableUpdate [6, die * 3 + s.part.stopOf mill / 14])
  | 4 =>
    let m := checkMsg 4 die 0 0 s.tableGen 0 63 0
    .next ((List.range 256).foldl (fun s ctx => if s.ctxExists ctx then s.toFmbox m die ctx else s) s)
  | 5 =>
    .next (s.sendAt s.cycle { msg := checkMsg 5 die (s.arg.getD 4 0) 0 0 (s.arg.getD 3 0) p 0, dest := .log die })
  | 6 => .next (s.updSlot p (fun x => { x with fetchFault := some (fcMchk, 0) }))
  | 7 => .next (s.countCorrected p)
  | 8 => .next (s.countCorrected (2 ^ 20 + p))
  | 9 => .next (s.countCorrected (2 ^ 21 + p))
  | 11 => .next (s.resend p (s.arg.getD 3 0))
  | cause =>
    let core := s.arg.getD 3 0
    let e := if cause == 10 then s.l1Error core p else ({ s with poison := tput false s.poison (p / 8) true }, true)
    let s := e.1
    if !e.2 then .next s
    else if p < 2 ^ 52 then
      let tag := if cause == 1 then 1 else 2
      let ctx := s.lineOwner (p / 64)
      .next (s.toOwner (checkMsg tag die ctx (if cause == 1 then p / 64 * 64 else p / 8 * 8) 0 0 63 0) die ctx (if cause == 10 then some (core / 32) else none) (s.runsIn ctx))
    else
      let mill := (p - 2 ^ 52) / 2 ^ 21
      let off := (p - 2 ^ 52) % 2 ^ 21
      let ctx := s.millOwner mill
      let s := s.toOwner (checkMsg cause die ctx 0 0 0 63 0) die ctx (some mill) (s.runsIn ctx)
      let bank := 8 * offGroup off + offBank off
      .next (if (s.mill mill).bankRet.getLsbD bank then s else s.post s.cycle 0 4 .bankRetireDecided [mill, bank])

/-! The enumeration table (R290 to R294). -/

/-- Where it stands. -/
def enumBase : Nat := 0x9FFFF00000

/-- The body of a record, bits [511:64], from the state of the part (R292); of ports and links, what the spec does not
state is an open value of the part. -/
def State.enumBody (s : State) (type index : Nat) : Nat :=
  let p := s.part
  let live (d pm : Nat) : Option Nat := (List.range p.liveMills).find? (fun l => p.physMill d l == pm)
  let slices := match p.grade with | 0 => 128 | 1 => 124 | _ => 120
  let ports := if p.grade == 2 then 24 else 36
  let portLive (i : Nat) : Bool := p.grade != 2 || i < 12 || (18 ≤ i && i < 30)
  match type with
  | 1 => p.pkgix % 1024 * 2 ^ 16 + s.fwRel % 2 ^ 32 * 2 ^ 32 + s.skyErr % 2 ^ 32 * 2 ^ 64 + 256 * 2 ^ 96
  | 2 => p.grade + p.liveMills * 2 ^ 8 + slices * 2 ^ 16 + ports * 2 ^ 24
      + (match p.grade with | 0 => 4200 | 1 => 3900 | _ => 3300) * 2 ^ 32
  | 3 => if index < 8 then p.liveMills * 2 ^ 8 + slices * 2 ^ 16 + 4 * p.liveMills % 256 * 2 ^ 24
      else if index < 16 then 1 else 2
  | 4 => packBits 6 ((List.range 40).map (fun pm => (live index pm).getD 63))
      + packBits 4 ((List.range 40).map (fun pm => match live index pm with
        | some l => packBits 1 ((List.range 4).map (fun c => if (s.cluster ((index * 64 + l) * 4 + c)).retired then 0 else 1))
        | none => 0)) * 2 ^ 240
  | 5 => packBits 7 ((List.range 64).map (fun k => p.remap (index / 2) (64 * (index % 2) + k)))
  | 6 => packBits 32 ((List.range 14).map (fun k => match live (index / 3) (14 * (index % 3) + k) with
      | some l => (s.mill (index / 3 * 64 + l)).bankRet.toNat
      | none => 0))
  | 7 => 0x0F
  | 8 => (if index < 6 then index / 3 * 4 + index % 3 + (index / 3 * 4 + index % 3 + 1) * 8
      else index - 6 + (index - 2) * 8 + 64) + 2 ^ 7 + 30 * 2 ^ 8
  | 9 => packBits 3 ((List.range 64).map (fun i => dieClass (i / 8) (i % 8)))
  | 10 => 80 + 192 * 2 ^ 16 + 2 ^ 32 + 16 * 2 ^ 40
  | 11 => (if portLive index then 1 else 0) + (if 18 ≤ index then 2 else 0) + (Config.portPeer index).toNat % 2 ^ 18 * 2 ^ 8
  | 12 => (match s.fabric[index]? with
      | some w => w.1 % 2 ^ 52 + w.2.1 % 2 ^ 52 * 2 ^ 52 + w.2.2 % 2 ^ 12 * 2 ^ 104
      | none => 0)
  | _ => 0

/-- The records in order: type and index (R290). DEDUCED, unsafe: log 76. -/
def State.enumKeys (s : State) : List (Nat × Nat) :=
  [(1, 1), (2, 1), (3, 18), (4, 8), (5, 16), (6, 24), (7, 8), (8, 10), (9, 1), (10, 8), (11, 36), (12, s.fabric.length), (0, 1)].flatMap
    (fun tn => (List.range tn.2).map (fun i => (tn.1, i)))

/-- UNIT of a record: the die, stack or port, 0xFF for the package. The spec gives a DIELINK record none: 0xFF. DESIGN CHOICE, unsafe: log 147. -/
def enumUnit (type index : Nat) : Nat :=
  match type with
  | 3 => index
  | 4 => index
  | 5 => index / 2
  | 6 => index / 3
  | 7 => index
  | 10 => index
  | 11 => index
  | _ => 255

/-- A record with a generation. -/
def State.enumRecord (s : State) (type index gen : Nat) : Line :=
  let recs := if type == 1 then s.enumKeys.length % 65536 else 0
  BitVec.ofNat 512 (type + enumUnit type index * 2 ^ 8 + index % 65536 * 2 ^ 16 + gen % 2 ^ 32 * 2 ^ 32 + (s.enumBody type index + recs) * 2 ^ 64)

/-- Firmware writes a record as one line. DEDUCED, unsafe: log 76. -/
def State.writeRecord (s : State) (type index gen : Nat) : State :=
  let pos := (s.enumKeys.takeWhile (fun k => k != (type, index))).length
  s.llcWrite (enumBase / 64 + pos) 32 (s.enumRecord type index gen) (BitVec.allOnes 64)

/-- The records that a list of types and indexes names. -/
def State.writeRecords (s : State) (gen : Nat) : List Nat → State
  | t :: i :: rest => (s.writeRecord t i gen).writeRecords gen rest
  | _ => s

/-- A fabric window's record changes, or one more is listed (R292, R298). -/
def State.setWindow (s : State) (i base len node : Nat) : State :=
  { s with fabric := if i < s.fabric.length then s.fabric.set i (base, len, node) else s.fabric ++ [(base, len, node)] }

/-- ENUM_TABLE_UPDATE: [type, index, ...] firmware writes each changed record, then PACKAGE, all with the new generation, and
reports the change (R294); [12, index, base, length, node] it lists a fabric window, and the END record moves behind it. -/
def execEnumTableUpdate (s : State) : Result :=
  let gen := s.tableGen + 1
  let s := match s.arg with
    | [12, i, base, len, node] =>
      -- END moves only where a window is added
      (s.setWindow i base len node).writeRecords gen (if i < s.fabric.length then [12, i] else [12, s.fabric.length, 0, 0])
    | l => s.writeRecords gen l
  let s := s.writeRecord 1 0 gen
  .next (({ s with tableGen := gen }).post s.cycle 3 931 .machineCheck [4, 0, 0])

/-! Firmware, freeze and reset. -/

/-- Firmware loads the supervisor slot of a cluster, where it awaits the cluster's messages (R28). DEDUCED, unsafe: log 76. Its words are
gated by the features of the context of launch 0, since the spec names none for firmware. DESIGN CHOICE, unsafe: log 141. -/
def State.loadSupervisor (s : State) (c : Nat) : State :=
  let (t, s) := s.fresh
  s.setSlot (supervisorOf c) { st := .parked .firmware, thread := t }

/-- The live clusters of the part. -/
def State.liveClusters (s : State) : List Nat :=
  (List.range 8).flatMap (fun d => (List.range s.part.liveMills).flatMap (fun m => (List.range 4).map (fun c => (d * 64 + m) * 4 + c)))

/-- BOOT: [release, verifies] the boot ROM runs an image whose signature verifies, which writes the enumeration table and loads
the supervisor slots; it runs no other, and asks the host for a signed image instead (R28, R290, R379). DEDUCED, unsafe: log 76. -/
def execBoot (s : State) : Result :=
  if s.arg.getD 1 0 == 0 then .next { s with answers := s.answers ++ [(4096, .fetchImage)] }
  else
    let s := { s with fwRel := s.arg.headD 0 }
    let s := s.liveClusters.foldl (fun s c => if (s.cluster c).retired then s else s.loadSupervisor c) s
    .next (s.enumKeys.foldl (fun s k => s.writeRecord k.1 k.2 s.tableGen) s)

/-- FREEZE: an edge on the management path; with an argument, the round boundary at which every clock stops (R378). -/
def execFreeze (s : State) : Result :=
  match s.arg with
  | [] => .next (s.post (nextAt (s.cycle + 1) 32 0) 0 9 .freeze [1])
  | _ => .next { s with frozen := true }

/-- RESET: every state returns to its reset value; the part's manufacture data stays, as do what it has sent out, and the
counters that number things and free values (R378). DEDUCED, unsafe: log 74. DESIGN CHOICE, unsafe: log 75. -/
def execReset (s : State) : Result :=
  .next { State.reset with part := s.part, uid := s.uid, free := s.free, hostOut := s.hostOut, answers := s.answers }

/-- An answer to a node; 4096 is the management path. -/
def State.answerTo (s : State) (node : Nat) (a : Answer) : State := { s with answers := s.answers ++ [(node, a)] }

/-- MANAGEMENT_PATH_READ: [space, unit, address] 0 a line of device memory, as the LLC and HBM hold it; 1 the L1 lines of a
core in the line's set; 2 those of a slice; 3 a record of the enumeration table by its place; 4 a slot; 5 a core; 6 a
cluster; 7 a mill; 8 64 bytes of a mill's pond; 9 what a die holds besides (R290, R378). -/
def execManagementPathRead (s : State) : Result :=
  let u := s.arg.getD 1 0
  let a := s.arg.getD 2 0
  .next (s.answerTo 4096 (match s.arg.headD 0 with
    | 0 => .line (s.llcLine (a / 64) 0)
    | 1 => .cached (tget [] (s.core u).l1 (l1Set a))
    | 2 => .cached (s.l2Lines u (l2Set a))
    | 4 => .slot (s.slot u)
    | 5 => .core (s.core u)
    | 6 => .cluster (s.cluster u)
    | 7 => .mill (s.mill u)
    | 8 => .line (BitVec.ofNat 512 (memRead s.pond (u * 2 ^ 21 + a / 64 * 64) 64))
    | 9 => .die (s.die u)
    | _ => .line (s.llcLine (enumBase / 64 + a) 0)))

/-- FORMAT_WINDOW_WRITE: [stack, window, record] the driver programs a format window (R122). -/
def execFormatWindowWrite (s : State) : Result :=
  .next { s with windows := tput 0 s.windows (16 * s.arg.headD 0 + s.arg.getD 1 0) (BitVec.ofNat 256 (s.arg.getD 2 0)) }

/-! The fabric. -/

/-- Whether a data flit of a collective, behind its packet's head, holds a record that R198 treats as a failed check. -/
def badRecord (head x : Line) : Bool := head.getLsbD 80 && (unpackFlit true 0 x).isNone

/-- A request of another package is performed at the LLC of the home stack of its address (R298), whose die's traffic the answer is:
it leaves by that die's row and I/O die (R289). -/
def State.peerAccess (s : State) (node op ty mask pa tag operands : Nat) (data : Line) : State :=
  let (r, s) := s.fresh
  let pa := pa % 2 ^ 51
  let q : GReq := { id := r, acc := accOfOp op ty pa operands, pa := pa, wdata := data, wmask := BitVec.ofNat 64 mask, attr := 32, die := homeStack pa 32
                    stop := ioStop, lane := bits pa 8 6, at_ := s.cycle, sink := .fabric node tag, llc := true }
  (s.setReq r q).post s.cycle 3 100 .windowAccess [r, 2]

/-- A response of another node: to a window access, or to a message (R284, R298). -/
def State.peerResponse (s : State) (tag status : Nat) (data : Line) : State :=
  let unpost := fun (s : State) (w : Due → Bool) => { s with agenda := s.agenda.filter (fun d => !w d) }
  match s.reqs.lookup tag, s.sents.lookup tag with
  | some q, _ =>
    if !q.attr.testBit 51 then s
    else
      -- the access has been performed at its place (R333)
      let s := (unpost s (fun d => d.what == .event .windowAccess [tag])).reqDone tag
      if q.answered then s.windowBack tag data else s.delReq tag
  | none, some x =>
    (match x.dest with
    | .fabric node box => (unpost s (fun d => d.what == .event .messageDelivery [tag])).answered tag x node box status
    | _ => s)
  | none, none => s

/-- The mailbox that a message's slot id names: MILL 63 is a dispatcher's, of the context in its low bits (R301). -/
def destOfId (id : Nat) : Dest := if bits id 14 9 == 63 then .dispatcher (bits id 17 15) (bits id 7 0) else .slot id

/-- A message of another node goes on to its mailbox (R284, R301); one that names no live slot bounces. It enters by the entry
die of its destination. DESIGN CHOICE, unsafe: log 148. -/
def State.peerMessage (s : State) (node box tag : Nat) (m : Msg) : State :=
  let (u, s) := s.fresh
  let dest := destOfId box
  let x : Sent := { msg := { m with uid := u }, dest := dest, peer := some (node, tag) }
  match dest with
  | .slot g =>
    if !s.liveSlotId g then s.offerOut (entryDie (dieOf g)) ioStop 0 1 s.cycle 3 1 node (respLines tag 1 []) 0 0
    else (s.setSent u x).offerTo (entryDie (dieOf g)) ioStop (dieOf g) (s.part.stopOf (millOf g)) (coreIx g) m.entries s.cycle 3 (.msg u)
  | _ =>
    let die := bits box 17 15
    (s.setSent u x).offerTo (entryDie die) ioStop die 53 0 m.entries s.cycle 3 (.msg u)

/-- A packet of the windrose of another package: data, or the credit of a receive (R405, R407, R410). -/
def State.peerLink (s : State) (head : Line) (flits : List Line) : State :=
  let f (hi lo : Nat) : Nat := lineBits head hi lo
  let die := f 10 8
  if f 7 0 == 1 then { s with credits := s.credits ++ [(die, f 29 16, f 45 32, f 63 48, f 79 64)] }
  else
    match s.links.find? (fun l => l.die == die && l.src == f 29 16 && l.dst == f 45 32 && l.chan == f 63 48 && l.k == f 79 64 && l.left != 0) with
    | some l => { s with links := s.links.map (fun y => if y.id == l.id then { y with left := y.left - flits.length, flits := y.flits ++ flits } else y) }
    | none =>
      let (i, s) := s.fresh
      { s with links := s.links ++ [{ id := i, die := die, src := f 29 16, dst := f 45 32, chan := f 63 48, k := f 79 64, sx := head.getLsbD 80
                                      left := f 127 96 - flits.length, flits := flits }] }

/-- The event of a class-4 message, once the packets that carry it are in: a key exchange, a session command; or, of one packet, a
discipline of the skyclock (R300, R352). That R300 has one node for the time root, which nothing names here, is left out: a discipline
of any node adjusts the clock (log 140). DESIGN CHOICE, unsafe: log 125. -/
def State.management (s : State) (node : Nat) (head : Line) (rest : List Line) : State :=
  let got := tget (0, 0) s.gathers node
  let body := got.2 + packBits 512 (rest.map (·.toNat)) * 2 ^ (8 * got.1)
  let size := got.1 + 64 * rest.length
  let cmd := [node, lineBits head 127 32, lineBits head 255 128, lineBits head 31 8, body]
  if lineBits head 7 0 ≤ 4 && size < lineBits head 31 8 then { s with gathers := tput (0, 0) s.gathers node (size, body) }
  else
  let s := { s with gathers := tdel s.gathers node }
  match lineBits head 7 0 with
  | 0 => s.post s.cycle 3 940 .authenticatedSession [node, body]
  | 1 => s.post s.cycle 3 940 .create cmd
  | 2 => s.post s.cycle 3 940 .destroy cmd
  | 3 => s.post s.cycle 3 940 .loadkey cmd
  | 4 => s.post s.cycle 3 940 .quote cmd
  | _ => s.post s.cycle 3 940 .skyclockDiscipline [lineBits head 8 8, lineBits head 23 16, lineBits head 63 32]

/-- A whole packet has come in at a port; none where it is dropped and counted: a message of kind 11 to 15 (R282, R298, R302). -/
def State.packetIn (s : State) (node cls : Nat) (ls : List Line) : Option State :=
  let a := ls.headD 0
  let f (hi lo : Nat) : Nat := lineBits a hi lo
  match cls with
  | 0 =>
    let data := (ls.getD 1 (0 : Line))
    if node < 1024 then some (s.peerAccess node (f 103 96) (f 108 104) (f 191 128) (f 63 0) (f 95 64) (f 319 192) data)
    else some (s.post s.cycle 3 940 .hostMemoryRequest [node, f 63 0, if f 103 96 == 0 then 0 else 1, f 191 128, data.toNat, f 95 64])
  | 1 => some (s.peerResponse (f 31 0) (f 39 32) (ls.getD 1 (0 : Line)))
  | 2 =>
    let m := msgOfLines (ls.drop 1)
    if 10 < m.kind then none else some (s.peerMessage node (f 23 0) (f 63 32) m)
  | 3 => some (s.peerLink a (ls.drop 1))
  | _ => some (s.management node a (ls.drop 1))

/-- A flit reaches a port (R295 to R297): one that fails its check, or carries a reserved class, is dropped, and a replay is asked
for from it; until it comes, no other is taken. One for another node is dropped and counted. The last flit of a packet
completes it. DEDUCED, unsafe: log 79. -/
def State.receiveFlit (s : State) (port : Nat) (f : FFlit) : State :=
  let x : Port := tget {} s.ports_ port
  let key := f.src * 8 + f.cls
  let part : Nat × List Line := if f.head then (f.len + 1, []) else tget (0, []) x.parts key
  let set := fun (s : State) (x : Port) => { s with ports_ := tput {} s.ports_ port x }
  if !f.checks || 4 < f.cls || (f.cls == 3 && !f.head && badRecord (part.2.headD 0) f.data) then
    set s { x with errors := x.errors + 1, asked := some x.recvSeq }
  else if f.seq != x.recvSeq then s
  else
    let x := { x with recvSeq := (x.recvSeq + 1) % 65536, asked := none }
    if f.dst != s.part.pkgix then set s { x with errors := x.errors + 1 }
    else if part.1 == 0 then set s x
    else
      let ls := part.2 ++ [f.data]
      if 1 < part.1 then set s { x with parts := tput (0, []) x.parts key (part.1 - 1, ls) }
      else
        let s := set s { x with parts := tput (0, []) x.parts key (0, []) }
        match s.packetIn f.src f.cls ls with
        | some s => s
        | none => set s { tget {} s.ports_ port with errors := x.errors + 1 }

/-- FABRIC_REPLAY: [port, sideband, data] a flit reaches a port, where one that fails its check is dropped and asked for again;
[port, sequence] the far end asks for a replay, and the flits from it on go out again in order, as far as the replay buffer
holds them (R297). DEDUCED, unsafe: log 79. -/
def execFabricReplay (s : State) : Result :=
  match s.arg with
  | [p, side, data] => .next (s.receiveFlit p { side := BitVec.ofNat 64 side, data := BitVec.ofNat 512 data })
  | [p, seq] =>
    let x : Port := tget {} s.ports_ p
    .next { s with ports_ := tput {} s.ports_ p { x with again := x.again ++ x.replay.dropWhile (fun f => f.seq != seq) } }
  | _ => .next s

/-- The driver opens a range to a host node for a context (R302). -/
def State.openRange (s : State) (ctx node start len : Nat) : State :=
  let c := s.context ctx
  { s with contexts := tput {} s.contexts ctx { c with opened := c.opened ++ [(node, start, len)] } }

/-- The response to a host goes from a home stack's die to its node, also as a class-1 packet (R289, R302). -/
def State.hostResponse (s : State) (die node tag status : Nat) (data : Line) : State :=
  (s.sendFlits die node 1 (respLines tag status [data])).answerTo node (.response status data)

/-- HOST_MEMORY_REQUEST: [node, address, store, mask, data, number] a class-0 request to a line, performed at the LLC of the home
stack where the driver has opened the range to the node for a live context; else the response is PERM. [context, node,
start, length] the driver opens a range (R302). DEDUCED, unsafe: log 77. DESIGN CHOICE, safe: log 78. -/
def execHostMemoryRequest (s : State) : Result :=
  match s.arg with
  | [ctx, node, start, len] => .next (if s.ctxExists ctx then s.openRange ctx node start len else s)
  | _ =>
    let node := s.arg.headD 0
    let tag := s.arg.getD 5 0
    let pa := s.arg.getD 1 0 / 64 * 64
    let ok := (List.range 256).any (fun ctx => s.ctxExists ctx
      && (s.context ctx).opened.any (fun r => r.1 == node && r.2.1 ≤ pa && pa + 64 ≤ r.2.1 + r.2.2))
    let attr := match s.llcGet (pa / 64) with | some l => l.attr | none => 0
    let die := homeStack pa attr
    if !ok || pa.testBit 51 then .next (s.hostResponse die node tag fcPerm 0)
    else
      let s := s.llcFill (pa / 64) attr
      if s.arg.getD 2 0 == 0 then .next (s.hostResponse die node tag 0 (s.llcLine (pa / 64) attr))
      else .next ((s.llcWrite (pa / 64) attr (BitVec.ofNat 512 (s.arg.getD 4 0)) (BitVec.ofNat 64 (s.arg.getD 3 0))).hostResponse die node tag 0 0)

/-- SKYCLOCK_DISCIPLINE: [synchronised, 100 plus the rate in parts per million, error bound in ns] a class-4 flit adjusts
the clock; TIME does not step, and firmware rewrites a changed bound (R300). -/
def execSkyclockDiscipline (s : State) : Result :=
  let ppm : Int := (min (s.arg.getD 1 100) 200 : Nat) - 100
  let err := s.arg.getD 2 0
  let t := { s with skyUnsync := s.arg.headD 0 == 0, skyTime := s.skyParts, skyAt := s.cycle, skyPpm := ppm, skyErr := err }
  .next (if s.skyErr == err then t else t.post s.cycle 3 930 .enumTableUpdate [])

/-! Sessions (R352, R353, R379). -/

/-- The bytes of an answer of a session, and how many they are: a signature has 29,792, the part's half of a key exchange 1,568.
DESIGN CHOICE, unsafe: log 125. -/
def Answer.text : Answer → Nat × Nat
  | .done => (1, 0)
  | .failed why => (1, match why with
    | .noSession => 1 | .notAuthentic => 2 | .features => 3 | .full => 4 | .taken => 5 | .noContext => 6)
  | .session half sig => (1568 + 29792, half % 2 ^ (8 * 1568) + sig % 2 ^ (8 * 29792) * 2 ^ (8 * 1568))
  | .quote body sig a i =>
    let signed := fun (n m x sig : Nat) => x % 2 ^ (8 * n) + sig % 2 ^ (8 * m) * 2 ^ (8 * n)
    (102 + 35664 + (64 + 29792) + (80 + 29792), signed 102 35664 body sig + signed 64 29792 a.1 a.2 * 2 ^ (8 * (102 + 35664))
      + signed 80 29792 i.1 i.2 * 2 ^ (8 * (102 + 35664 + 64 + 29792)))
  | _ => (0, 0)

/-- A message of the part over the management path: class-4 packets, each of a head and up to seven flits of its bytes (R296, R352).
The head holds the kind (0 the part's half, 8 a protected answer, 9 one that no key protects), the length, the initial value and the tag.
DESIGN CHOICE, unsafe: log 125. -/
def State.manage (s : State) (node kind n iv tag body : Nat) : State :=
  let head : Line := BitVec.ofNat 512 (kind + n * 2 ^ 8 + iv * 2 ^ 32 + tag * 2 ^ 128)
  let lines : List Line := (List.range ((n + 63) / 64)).map (fun i => BitVec.ofNat 512 (body / 2 ^ (512 * i)))
  (List.range ((lines.length + 6) / 7)).foldl (fun s j => s.sendFlits 0 node 4 (head :: (lines.drop (7 * j)).take 7)) s

/-- AUTHENTICATED_SESSION: [node, share] a host and the part establish a key; the part signs its half (R352). DESIGN CHOICE, safe: log 11.
DESIGN CHOICE, unsafe: log 125. -/
def execAuthenticatedSession (s : State) : Result :=
  let node := s.arg.headD 0
  let share := BitVec.ofNat 12544 (s.arg.getD 1 0)
  let half := Config.sessionHalf share
  let s := { s with sessions := tins s.sessions node (Config.sessionKey share) }
  let a := Answer.session half (Config.identitySign half)
  .next ((s.manage node 0 a.text.1 0 0 a.text.2).answerTo node a)

/-- An answer within the session of a node: it goes out protected by AES-256-GCM under the key, with an initial value of the part's
choice (R352). DESIGN CHOICE, safe: log 11. DESIGN CHOICE, unsafe: log 125. -/
def State.sessionAnswer (s : State) (node : Nat) (a : Answer) : State :=
  let x := a.text
  match s.sessions.lookup node with
  | some key =>
    let (k, s) := s.draw
    let iv := (Config.sessionIv k).toNat
    let ct := gcmText key iv x.1 x.2
    let tag := gcmTag key iv x.1 ct
    (s.manage node 8 x.1 iv tag ct).answerTo node (.sealed iv x.1 ct tag)
  | none => (s.manage node 9 x.1 0 0 x.2).answerTo node a

/-- A session command, [node, initial value, tag, bytes, ciphertext]: it needs a session with its node, under whose key it is
authentic, and is carried out on its plaintext (R352). DESIGN CHOICE, unsafe: log 125. -/
def State.command (s : State) (f : Nat → Nat → State) : State :=
  let node := s.arg.headD 0
  match s.sessions.lookup node with
  | none => s.sessionAnswer node (.failed .noSession)
  | some key =>
    match gcmOpen key (s.arg.getD 1 0) (s.arg.getD 3 0) (s.arg.getD 4 0) (s.arg.getD 2 0) with
    | none => s.sessionAnswer node (.failed .notAuthentic)
    | some x => f node x

/-- The line of a context's record: in the top MiB of device memory, which firmware keeps, from its middle on (R290, R354).
DESIGN CHOICE, unsafe: log 126. -/
def recordLine (ctx : Nat) : Nat := (enumBase + 2 ^ 19) / 64 + ctx

/-- Firmware writes a context's record to its place (R354). DESIGN CHOICE, unsafe: log 126. -/
def State.keepRecord (s : State) (ctx : Nat) (r : Line) : State := s.llcWrite (recordLine ctx) 32 r (BitVec.allOnes 64)

/-- CREATE: a session command whose plaintext is a record, which it installs (R353, R354). DESIGN CHOICE, safe: log 5.
DESIGN CHOICE, unsafe: log 125. CREATE of an id in use fails: DESIGN CHOICE, unsafe: log 150. -/
def execCreate (s : State) : Result :=
  .next (s.command (fun node x =>
    let r : Line := BitVec.ofNat 512 x
    let ctx := fieldOf r 255 248
    if fieldOf r 511 256 / 2 ^ 6 != 0 || !r.getLsbD 256 then s.sessionAnswer node (.failed .features)
    else if 256 ≤ ((List.range 256).filter s.ctxExists).length then s.sessionAnswer node (.failed .full)
    else if s.ctxExists ctx then s.sessionAnswer node (.failed .taken)
    else (({ s with contexts := tput {} s.contexts ctx { record := r } }).keepRecord ctx r).sessionAnswer node .done))

/-- LOADKEY: a session command whose plaintext is a context id in its first byte, a key id in the next two, and a key (R121, R353).
DESIGN CHOICE, unsafe: log 125. -/
def execLoadkey (s : State) : Result :=
  .next (s.command (fun node x =>
    let ctx := x % 256
    if !s.ctxExists ctx then s.sessionAnswer node (.failed .noContext)
    else
      let c := s.context ctx
      let keys := tput 0 c.keys (bits x 23 8) (BitVec.ofNat 512 (x / 2 ^ 24))
      ({ s with contexts := tput {} s.contexts ctx { c with keys := keys } }).sessionAnswer node .done))

/-- The body of a certificate (R379). -/
def certBody (type role serial key : Nat) : Nat := 1 + type * 2 ^ 16 + role * 2 ^ 24 + serial % 2 ^ 64 * 2 ^ 32 + key * 2 ^ 128

/-- The certificates: the attestation key signed by the identity key, and the identity key signed by the manufacturing
root. -/
def State.attestationCert (s : State) : Nat × Nat :=
  let b := certBody 2 1 s.part.serial (Config.attestationKey s.part.serial).toNat
  (b, Config.identitySign b)
def State.identityCert (s : State) : Nat × Nat :=
  let b := certBody 1 0 s.part.serial (Config.identityKey s.part.serial).toNat
  (b, Config.rootSign b)

/-- What a quote covers: the image's digest, FWREL, the feature bits, the grade, the context id and the nonce (R379). -/
def State.quoteBody (s : State) (ctx nonce : Nat) : Nat :=
  (Config.firmwareDigest s.fwRel).toNat + s.fwRel % 2 ^ 32 * 2 ^ 256 + featAdv0 * 2 ^ 288 + s.part.grade * 2 ^ 544
    + ctx * 2 ^ 552 + nonce % 2 ^ 256 * 2 ^ 560

/-- QUOTE: a session command whose plaintext is a context id in its first byte and a nonce: what the quote covers, its signature,
and the certificates (R379). DESIGN CHOICE, safe: log 11. DESIGN CHOICE, unsafe: log 125. -/
def execQuote (s : State) : Result :=
  .next (s.command (fun node x =>
    let ctx := x % 256
    if !s.ctxExists ctx then s.sessionAnswer node (.failed .noContext)
    else
      let body := s.quoteBody ctx (bits x 263 8)
      s.sessionAnswer node (.quote body (Config.attestationSign body) s.attestationCert s.identityCert)))

end Sys2Proof.Machine
end

