-- ==== Sys2Proof/Machine/Dispatcher.lean ====
section
/-! DEFINITION. The dispatchers and dispensers: launch records and the pending pool (R318, R355, R356), choosing and placing
(R357, R358), tasks (R359), launch notices (R360), dispensers, spawn and recv.work (R314, R317, R361), and the launches
that end. -/

namespace Sys2Proof.Machine

open Sys2Proof

/-! Fields of a launch record (R355). -/

def Launch.f (l : Launch) (hi lo : Nat) : Nat := fieldOf l.record hi lo
def Launch.tasks (l : Launch) : Nat := l.f 127 96
def Launch.crewSize (l : Launch) : Nat := l.f 196 192
def Launch.maxCrew (l : Launch) : Nat := l.f 212 205
def Launch.prio (l : Launch) : Nat := l.f 202 201
def Launch.slice (l : Launch) : Nat := l.f 287 256
def Launch.wait (l : Launch) : Nat := l.f 319 288
/-- DEDUCED, unsafe: log 86. -/
def Launch.pondLen (l : Launch) : Nat := l.f 255 234

/-! recv.work and the dispensers (R314, R361). -/

/-- recv.work: Marker, then the slot parks until the dispenser hands it an item (R305, R314). -/
def recvWorkBody (x : Args) (s : State) : State :=
  let g := s.cur
  let s := if s.me.rb.any (fun e => e.form == .work && !e.landed) then s
    else
      let (u, s) := s.fresh
      s.takeEntry { uid := u, form := .work, writes := regS x }
  let s := (s.park g .recvWork).post s.cycle 3 900 .dispenserHandout [clusterOf g]
  s

def execRecvWork (x : Args) (s : State) : Result := .next (s.issue 0x91 4 x true true (recvWorkBody x))

/-- A thread starts in a slot (R25); it issues at the slot's first issue cycle at or after the hand-out + 4. Accesses of
an earlier thread of the slot stay to be performed. -/
def State.startThread (s : State) (g : Nat) (it : Item) : State :=
  let l := s.launchOf it.launch
  let old := s.slot g
  let (n, s) := s.fresh
  let regs := (it.args.zipIdx).foldl (fun t a => tput 0 t (a.2 + 1) a.1) []
  let s := s.setSlot g { st := .running, pc := BitVec.ofNat 32 it.entry, s := regs, fpctl := BitVec.ofNat 64 (l.f 232 224 &&& 0x11F), thread := n
                         launch := it.launch, task := it.task, open_ := old.open_, held := old.held, sending := old.sending }
  s.turnAt g (s.cycle + 4)

/-- Whether a slot waits in `recv.work`: parked there, or stopped there by `slotstop`, which leaves its wait entered (R361, R383). -/
def Slot.wantsWork (x : Slot) : Bool := x.st == .parked .recvWork || (x.st == .halted && x.rb.any (fun e => e.form == .work && !e.landed))

/-- A slot that waits in `recv.work` takes an item (R25, R314); a stopped one stays so. -/
def State.takeWork (s : State) (g : Nat) (it : Item) : State :=
  let x := s.slot g
  let v : Word := BitVec.ofNat 64 (it.src % 2 ^ 24 + it.task * 2 ^ 32)
  let runs := x.st == .parked .recvWork
  let x := { x with
    st := if runs then .running else x.st, pc := BitVec.ofNat 32 it.entry
    rb := x.rb.map (fun e => if e.form == .work && !e.landed then
      { e with landed := true, writes := e.writes.map (fun w => { w with val := v.setWidth 2048 }) } else e) }
  let x := (it.args.zipIdx).foldl (fun x a => x.setS (a.2 + 1) a.1) x
  -- after a restore its slot issues from the round boundary on (R375)
  if runs then (s.setSlot g x).turnAt g (max (s.cycle + 4) (x.due.getD 0)) else s.setSlot g x

/-- The lowest core of a cluster whose slots 0 to n - 1 are empty, none of them the supervisor slot (R60, R361). -/
def State.taskCore (s : State) (c n : Nat) : Option Nat :=
  (List.range 8).find? (fun k => (List.range n).all (fun j =>
    let g := c * 128 + k * 16 + j
    (s.slot g).st == .empty && !isSupervisor g))

/-- Places an item, if it can be placed now (R361, rules 2 and 3). -/
def State.placeItem (s : State) (c : Nat) (it : Item) : Option State :=
  if it.slots != 0 then
    (s.taskCore c it.slots).map (fun k => (List.range it.slots).foldl (fun s j => s.startThread (c * 128 + k * 16 + j) it) s)
  else
    let gs := (List.range 127).map (fun i => c * 128 + i)
    match gs.find? (fun g => (s.slot g).wantsWork && (s.slot g).launch == it.launch) with
    | some g => some (s.takeWork g it)
    | none => (gs.find? (fun g => (s.slot g).st == .empty)).map (fun g => s.startThread g it)

/-- The oldest item that can be placed, and the items without it. -/
def State.placeOldest (s : State) (c : Nat) : List Item → Option (State × List Item)
  | [] => none
  | it :: t =>
    match s.placeItem c it with
    | some s => some (s, t)
    | none => (s.placeOldest c t).map (fun r => (r.1, it :: r.2))

/-- DISPENSER_HANDOUT: [cluster] in each cycle the oldest item that can be placed is handed to a slot (R361). DESIGN CHOICE, safe: log 5.
DEDUCED, unsafe: log 82.
A retired cluster hands out nothing more. DESIGN CHOICE, unsafe: log 159. -/
def execDispenserHandout (s : State) : Result :=
  let c := s.arg.headD 0
  let k := s.cluster c
  if (s.mill (c / 4)).stopping || k.retired then .next s
  else if k.handed.any (fun t => decide (s.cycle ≤ t)) then .next (s.post (k.handed.getD 0 + 1) 3 900 .dispenserHandout [c])
  else match s.placeOldest c k.disp with
    | none => .next s
    | some (t, rest) =>
      let t := t.updCluster c (fun k => { k with disp := rest, handed := some s.cycle })
      .next (if rest.isEmpty then t else t.post (s.cycle + 1) 3 900 .dispenserHandout [c])

/-! spawn (R317). -/

def spawnBody (x : Args) (s : State) : State :=
  let t := (s.opVal x.c).toNat
  let k := bits t 37 34
  let g := s.cur
  if t / 2 ^ 38 != 0 then s.raise fcIllop (illopDetail (encWord 0x94 0 x))
  else if s.crewN ≤ k then s.raise fcCrewout k
  else
    let c := s.memberMill (millOf g) k * 4 + bits t 33 32
    let pay := (List.range 8).foldl (fun p i => p + (s.grp x.b i).toNat * 2 ^ (64 * (i + 1))) (bits t 31 0)
    let (u, s) := s.fresh
    let s := s.takeEntry { uid := u, form := .status, writes := regS x }
    let (m, s) := s.fresh
    let s := s.setSent m { msg := { hdr := mkHdr 1 true 0 g 0 72, pay := BitVec.ofNat 960 pay, uid := m }, dest := .dispenser c
                           reply := some (g, u), launch := s.me.launch, task := s.me.task }
    (s.routeMsg m g).advance

def execSpawn (x : Args) (s : State) : Result := buffered 0x94 0 x s (spawnBody x)

/-! launch (R318). -/

/-- DEDUCED, unsafe: log 85. -/
def launchBody (x : Args) (s : State) : State :=
  let va := (s.opVal x.b).toNat
  let die := s.opVal x.c
  let g := s.cur
  if 2 ^ 57 ≤ va || 8 ≤ die.toNat then s.raise fcSpace va
  else if va % 64 != 0 then s.raise fcAlign va
  else
    let (u, s) := s.fresh
    let (m, s) := s.fresh
    let a : Access := { kind := .launchRec, slot := g, uid := u, addr := va, span := 64, aux := m }
    let s := s.takeEntry { uid := u, form := .status, writes := regS x, acc := some a }
    let s := s.setSent m { msg := { hdr := mkHdr 5 true 0 g 0 64, uid := m }, dest := .dispatcher die.toNat (s.ctxOfSlot g)
                           reply := some (g, u), thread := s.me.thread, by_ := s.me.thread }
    (s.issueAccess a).advance

def execLaunch (x : Args) (s : State) : Result := buffered 0x94 1 x s (launchBody x)

/-! Placing (R357 to R359). -/

/-- A die's power budget in half watts (R357). -/
def Part.budget (p : Part) : Nat := match p.grade with | 0 => 810 | 1 => 735 | _ => 585

/-- Half watts per mill of an energy class (R357). -/
def Launch.watts (l : Launch) : Nat := match l.f 204 203 with | 0 => 12 | 1 => 18 | 2 => 24 | _ => 32

/-- The commitments of a die (R357). -/
def State.committed (s : State) (die : Nat) : Nat :=
  s.launches.foldl (fun n kl => if kl.2.die == die then n + kl.2.mills.length * kl.2.watts else n) 0

/-- The free live mills of a die, ascending (R358). -/
def State.freeMills (s : State) (die : Nat) : List Nat :=
  ((List.range s.part.liveMills).map (fun m => die * 64 + m)).filter (fun m => (s.mill m).launch.isNone && (s.liveCluster m).isSome)

/-- Whether a launch that is not in the pool waits there for crews again. -/
def Launch.left (l : Launch) : Nat := if l.pending then l.tasks else l.saved.length + l.spare.length

/-- C of R358, steps 3 and 4: the crews that a launch may have with so many free mills and so much budget; 0 where it
waits. -/
def Launch.fit (l : Launch) (free budget : Nat) : Nat :=
  let want := if l.maxCrew == 0 then l.left else min l.left l.maxCrew
  let c := min (min want (free / l.crewSize)) (budget / (l.watts * l.crewSize))
  if l.maxCrew != 0 && c != want then 0 else c

/-- The next crew at or after `q` that the wave has not taken. -/
def untaken (c : Nat) (taken : List Nat) : Nat → Nat → Nat
  | 0, q => q
  | n + 1, q => if taken.contains q then untaken c taken n ((q + 1) % c) else q

/-- Place (R359): the crew of each task; a crew runs its tasks in wave order, which is that of their indexes. -/
def place (seed : Word) (tasks c : Nat) : List Nat :=
  ((List.range tasks).foldl (fun (r : List Nat × List Nat) i =>
    let q := untaken c r.2 c ((mix seed (BitVec.ofNat 64 i)).toNat % c)
    (q :: r.1, if r.2.length + 1 == c then [] else q :: r.2)) ([], [])).1.reverse

/-- The tasks of each of C crews, drawn by `place` in order of index (R359, R375). -/
def draws (seed : Word) (tasks : List Nat) (c : Nat) : List (List Nat) :=
  let qs := place seed tasks.length c
  (List.range c).map (fun q => (tasks.zip qs).filterMap (fun p => if p.2 == q then some p.1 else none))

def Launch.seed (l : Launch) : Word := BitVec.ofNat 64 (l.f 191 128)

/-- Whether a task of a crew is about to start or to be restored. -/
def State.starting (s : State) (l q : Nat) : Bool :=
  s.agenda.any (fun d => match d.what with
    | .event .taskStart (a :: b :: _) => a == l && b == q
    | .event .restore (a :: b :: _) => a == l && b == q
    | _ => false)

/-- Whether a crew is being vacated. -/
def vacKey (l q : Nat) : Nat := l * 64 + q
def State.vacating (s : State) (l q : Nat) : Bool := (s.vacates.lookup (vacKey l q)).isSome
/-- Whether a crew takes no task any more: it is being vacated, or its vacate begins at this round boundary (R373, R375). -/
def State.leaving (s : State) (l q : Nat) : Bool :=
  s.vacating l q || s.agenda.any (fun d => d.at_ ≤ s.cycle && d.what == .event .vacate [l, q])

/-- A crew takes its next task: a saved one before any unstarted one (R359, R375). DEDUCED, unsafe: log 83. -/
def State.nextTask (s : State) (l q : Nat) : State :=
  let x := s.launchOf l
  match x.saved with
  | img :: rest =>
    let im : SaveImage := tget {} s.saves img
    (s.setLaunch l { x with saved := rest, current := x.current.set q (some im.task) }).post s.cycle 3 870 .restore [l, q, img]
  | [] =>
    match (x.work[q]?).getD [] with
    | t :: ts =>
      let (n, s) := s.draw
      (s.setLaunch l { x with work := x.work.set q ts, current := x.current.set q (some t) }).post
        (s.cycle + 1 + Config.dispatchDelay n) 3 870 .taskStart [l, q, t]
    | [] => s.setLaunch l { x with current := x.current.set q none }

/-- A mill that its crew leaves. DEDUCED, unsafe: log 83. -/
def State.freeMill (s : State) (m : Nat) : State :=
  s.updMill m (fun x => { x with launch := none, crew := 0, crewIx := 0, members := [], holes := [], stopping := false, stuck := [] })

/-- A launch ends (R359, R360): its mills are free, its barriers go, and its notice follows. -/
def State.endLaunch (s : State) (l reason fault : Nat) : State :=
  let x := s.launchOf l
  let s := x.mills.foldl (fun s m => s.freeMill m) s
  let s := s.setLaunch l { x with
    ended := true, pending := false, reason := reason, fault := fault, crews := x.crews.map (fun _ => none)
    current := x.current.map (fun _ => none), work := x.work.map (fun _ => []), spare := [], saved := [], sliceEnd := none }
  let s := s.updDie x.die (fun d => { d with pool := d.pool.filter (· != l) })
  let s := { s with barriers := s.barriers.filter (fun kb => kb.2.launch != l) }
  (s.post s.cycle 3 880 .launchNotice [l, reason, 0]).post s.cycle 3 860 .dispatch [x.die]

/-- Whether nothing of a launch is left to run. -/
def State.launchOver (s : State) (l : Nat) : Bool :=
  let x := s.launchOf l
  !x.ended && !x.pending && x.current.all (·.isNone) && x.work.all (·.isEmpty) && x.saved.isEmpty && x.spare.isEmpty
    && (List.range x.crews.length).all (fun q => !s.vacating l q)

/-- The launch ends if nothing of it is left: with REASON 3 where it has been killed. DEDUCED, unsafe: log 83. -/
def State.tidyLaunch (s : State) (l : Nat) : State :=
  if s.launchOver l then s.endLaunch l (s.launchOf l).reason 0 else s

/-- Whether another crew of a launch has its vacate at this boundary: the unstarted tasks are drawn once, over the crews that remain then
(R375). -/
def State.vacatesDue (s : State) (l : Nat) : Bool :=
  s.agenda.any (fun d => d.at_ ≤ s.cycle && match d.what with | .event .vacate [a, _] => a == l | _ => false)

/-- Crews of a launch that run no task take what there is for them. DEDUCED, unsafe: log 92. -/
def State.feedCrews (s : State) (l : Nat) : State :=
  let x := s.launchOf l
  if s.vacatesDue l then s
  else (List.range x.crews.length).foldl (fun s q =>
    let y := s.launchOf l
    if ((y.crews[q]?).getD none).isSome && ((y.current[q]?).getD none).isNone && !s.leaving l q then s.nextTask l q else s) s

/-- A launch is dispatched on C crews of free mills (R358): the crew table and the bank-hole masks of each member (R275), its
tasks drawn, its slice begun (R376). -/
def State.allot (s : State) (l c : Nat) : State :=
  let x := s.launchOf l
  let free := s.freeMills x.die
  let n := x.crewSize
  let crews := (List.range c).map (fun q => (free.drop (q * n)).take n)
  let s := crews.zipIdx.foldl (fun s cq =>
    cq.1.zipIdx.foldl (fun s mk => s.updMill mk.1 (fun m => { m with
      launch := some l, crew := cq.2, crewIx := mk.2, members := cq.1.map s.part.stopOf
      holes := cq.1.map (fun o => (s.mill o).bankRet), lastCtx := x.ctx })) s) s
  let work := draws x.seed (if x.pending then List.range x.tasks else x.spare) c
  let s := s.setLaunch l { x with
    pending := false, crews := crews.map some, work := work, current := List.replicate c none, spare := []
    sliceEnd := if x.slice == 0 then none else some (s.cycle + 1024 * x.slice) }
  let s := s.updDie x.die (fun d => { d with pool := d.pool.filter (· != l) })
  let s := if x.slice == 0 then s else s.post (s.cycle + 1024 * x.slice) 3 890 .sliceExpiry [l]
  (s.feedCrews l).checkBudget l

/-- The launches of a die that wait for crews, in order of arrival, of the contexts that run there: those of the highest
priority present (R358, R380). DEDUCED, unsafe: log 92. -/
def State.waiting (s : State) (die : Nat) : List Nat :=
  let ls := (s.die die).pool.filter (fun l => !(s.context (s.launchOf l).ctx).out.contains die)
  let top := ls.foldl (fun p l => max p (s.launchOf l).prio) 0
  ls.filter (fun l => (s.launchOf l).prio == top)

/-- One dispatch, if there is one (R358). -/
def State.dispatchOne (s : State) (die : Nat) : Option State :=
  let ls := s.waiting die
  let free := (s.freeMills die).length
  let budget := s.part.budget - s.committed die
  match ls.find? (fun l => (s.launchOf l).fit free budget != 0) with
  | some l => some (s.allot l ((s.launchOf l).fit free budget))
  | none =>
    match ls with
    | l :: _ =>
      let idle := s.launches.all (fun kl => kl.2.die != die || kl.2.mills.isEmpty)
      if idle && (s.launchOf l).crewSize ≤ free then some (s.allot l 1) else none
    | [] => none

/-- Dispatches while there are any. -/
def State.dispatchAll (s : State) (die : Nat) : Nat → State
  | 0 => s
  | n + 1 =>
    match s.dispatchOne die with
    | some s => s.dispatchAll die n
    | none => s

/-! Pre-emption by slices (R376). -/

/-- Crews of a launch begin to be vacated at the die's next round boundary (R373). -/
def State.vacateAt (s : State) (l : Nat) (qs : List Nat) (t : Nat) : State :=
  qs.foldl (fun s q => s.post t 0 2 .vacate [l, q]) s

/-- The crews of a launch that stand and are not being vacated, highest first. -/
def State.standing (s : State) (l : Nat) : List Nat :=
  ((List.range (s.launchOf l).crews.length).filter (fun q =>
    (((s.launchOf l).crews[q]?).getD none).isSome && !s.vacating l q && !s.agenda.any (fun d => d.what == .event .vacate [l, q]))).reverse

/-- Mills of a die that are being vacated, and what they commit. -/
def State.coming (s : State) (die : Nat) : Nat × Nat :=
  s.launches.foldl (fun r kl =>
    if kl.2.die == die then
      let n := ((List.range kl.2.crews.length).filter (fun q => (((kl.2.crews[q]?).getD none).isSome) && !(s.standing kl.1).contains q)).length
      (r.1 + n * kl.2.crewSize, r.2 + n * kl.2.crewSize * kl.2.watts)
    else r) (0, 0)

/-- A launch whose slice has run out gives its highest-numbered crews to a waiting record of equal or higher priority that
wants mills, enough for that record's C (R376). DEDUCED, unsafe: log 73. -/
def State.sliceCheck (s : State) (l : Nat) : State :=
  let x := s.launchOf l
  let spent := match x.sliceEnd with | some e => decide (e ≤ s.cycle) | none => false
  let qs := s.standing l
  if !spent || x.ended || qs.isEmpty then s
  else
    let c := s.coming x.die
    let free := (s.freeMills x.die).length + c.1
    let budget := s.part.budget + c.2 - s.committed x.die
    -- what a record gets with the mills, and the budget, of k more crews; and with the mills alone
    let gets := fun (r : Launch) (k : Nat) => r.fit (free + k * x.crewSize) (budget + k * x.crewSize * x.watts)
    let mills := fun (r : Launch) (k : Nat) => r.fit (free + k * x.crewSize) (2 ^ 20)
    match (s.waiting x.die).find? (fun r => x.prio ≤ (s.launchOf r).prio && mills (s.launchOf r) 0 == 0 && 0 < gets (s.launchOf r) qs.length) with
    | none => s
    | some r =>
      let goal := gets (s.launchOf r) qs.length
      match (List.range (qs.length + 1)).find? (fun k => goal ≤ gets (s.launchOf r) k) with
      | some k => s.vacateAt l (qs.take k) (nextAt (s.cycle + 1) 32 0)
      | none => s

/-- SLICE_EXPIRY: [launch] (R376). DEDUCED, unsafe: log 73. -/
def execSliceExpiry (s : State) : Result := .next (s.sliceCheck (s.arg.headD 0))

/-- DISPATCH: [die] records go to free mills; then launches whose slices have run out give way (R358, R376). DEDUCED, unsafe: log 73. -/
def execDispatch (s : State) : Result :=
  let die := s.arg.headD 0
  let s := s.dispatchAll die ((s.die die).pool.length + 1)
  .next (s.launches.foldl (fun s kl => if kl.2.die == die then s.sliceCheck kl.1 else s) s)

/-! Tasks (R359). -/

/-- Writes a launch's pond image into a mill, with its full/empty bits (R58, R63). -/
def State.writeImage (s : State) (l : Launch) (mill : Nat) : State :=
  let n := min l.pondLen (2 ^ 21)
  let s := { s with pond := (List.range n).foldl (fun m o => memSet m (pondAt mill o) (memByte l.image o)) s.pond }
  s.updMill mill (fun m => { m with full := (List.range (n / 8)).foldl (fun t w => tput false t w (l.imageFull.contains w)) m.full })

/-- TASK_START: [launch, crew, task] the image is in every mill of the crew, and the task's items reach the dispensers of
their lowest live clusters (R359). -/
def execTaskStart (s : State) : Result :=
  let l := s.arg.headD 0
  let q := s.arg.getD 1 0
  let t := s.arg.getD 2 0
  let x := s.launchOf l
  match (x.crews[q]?).getD none with
  | none => .next s
  | some ms =>
    .next (ms.foldl (fun s m =>
      let s := s.writeImage x m
      match s.liveCluster m with
      | some c =>
        let it : Item := { launch := l, task := t, slots := x.f 200 197 + 1, entry := x.f 95 64, args := List.replicate 8 0, src := 0 }
        (s.updCluster c (fun k => { k with disp := k.disp ++ [it] })).post s.cycle 3 900 .dispenserHandout [c]
      | none => s) s)

/-- Whether nothing of a launch is left in the mills of a crew: no thread, no item there or on its way, no job, copy or graph
that its threads started (R359). DEDUCED, unsafe: log 84. -/
def State.taskOver (s : State) (l : Nat) (ms : List Nat) : Bool :=
  let here := fun (g : Nat) => ms.contains (millOf g)
  s.slots.all (fun kx => !(here kx.1 && kx.2.st.hasThread && kx.2.launch == l && !isSupervisor kx.1))
    && s.clusters.all (fun kc => !ms.contains (kc.1 / 4)
      || (kc.2.disp.all (fun it => it.launch != l) && kc.2.eng.batches.all (fun b => b.launch != l)))
    && s.sents.all (fun kx => match kx.2.dest with | .dispenser c => kx.2.launch != l || !ms.contains (c / 4) | _ => true)
    && s.copies.all (fun kc => kc.2.launch != l || !here kc.2.slot || kc.2.img != 0)
    && s.runs.all (fun kr => kr.2.launch != l || !here kr.2.slot)

/-- TASK_END: [launch, crew] something of the crew's task has ended; if it was the last, the crew takes its next task, and
the launch ends after its last one (R359). -/
def execTaskEnd (s : State) : Result :=
  let l := s.arg.headD 0
  let q := s.arg.getD 1 0
  let x := s.launchOf l
  match (x.crews[q]?).getD none, (x.current[q]?).getD none with
  | some ms, some _ =>
    if s.starting l q || s.vacating l q || !s.taskOver l ms then .next s
    else .next ((s.nextTask l q).tidyLaunch l)
  | _, _ => .next s

/-! Notices and answers (R360, R380). -/

/-- A message of a die's dispatcher to a host's mailbox. -/
def State.tellHost (s : State) (ctx box : Nat) (m : Msg) : State :=
  s.toHost m.unitDie (s.hnode ctx) box m

/-- LAUNCH_NOTICE: [launch, reason, snapshot] the kind-5 notice goes to the slot that issued `launch`, by the millrace from the
dispatcher's stop, or to HMBOX at HNODE (R360). DEDUCED, unsafe: log 91. -/
def execLaunchNotice (s : State) : Result :=
  let l := s.arg.headD 0
  let reason := s.arg.getD 1 0
  let x := s.launchOf l
  let pay := l % 2 ^ 32 + x.fault * 2 ^ 32 + reason * 2 ^ 40 + s.arg.getD 2 0 * 2 ^ 64
  let m : Msg := { hdr := unitHdr 5 4 x.die (l % 65536) 16, pay := BitVec.ofNat 960 pay }
  match x.from_ with
  | none => .next (s.tellHost x.ctx (s.hmbox x.ctx) m)
  | some (g, thread) =>
    let (u, s) := s.fresh
    let s := s.setSent u { msg := { m with uid := u }, dest := .slot g, thread := thread }
    .next (s.offerTo x.die 53 (dieOf g) (s.part.stopOf (millOf g)) (coreIx g) 1 s.cycle 0 (.msg u))

/-- The reply to a command: its TAG, LEN 8, its code and whether it was carried out (R380). DEDUCED, unsafe: log 91. -/
def State.reply (s : State) (die ctx tag code : Nat) (ok : Bool) : State :=
  s.tellHost ctx (s.hmbox ctx) { hdr := unitHdr 10 4 die tag 8, pay := BitVec.ofNat 960 (code % 256 + (if ok then 0 else 256)) }

/-! Launch records (R355, R356). -/

/-- Whether a record is malformed in itself (R356). -/
def Launch.bad (l : Launch) (live : Nat) : Bool :=
  l.f 511 505 != 0 || l.f 447 441 != 0 || l.f 383 377 != 0 || l.f 233 233 != 0 || l.f 223 213 != 0 || l.f 63 57 != 0
    || l.tasks == 0 || l.crewSize == 0 || 16 < l.crewSize || live < l.crewSize

/-- The fault of the translation of a byte: X, or W, as `need` says (R356). -/
def State.transFault (s : State) (ctx va : Nat) (need : Nat → Bool) : Option Nat :=
  if 2 ^ 57 ≤ va then some fcPage
  else match s.walkNow ctx va with
    | .leaf t => if need t.leaf.toNat then none else some fcPerm
    | .fault c => some c
    | .next _ => some fcPage

/-- The first fault among the pages of a range. DEDUCED, unsafe: log 87. -/
def State.rangeFault (s : State) (ctx va n : Nat) (need : Nat → Bool) : Option Nat :=
  if n == 0 then none
  else (List.range ((va + n - 1) / 65536 - va / 65536 + 1)).findSome? (fun i => s.transFault ctx (max va ((va / 65536 + i) * 65536)) need)

/-- The fault of a record, if any (R356). DEDUCED, unsafe: log 87. -/
def State.recordFault (s : State) (l : Launch) : Option Nat :=
  if l.bad s.part.liveMills then some fcIllop
  else
    let code := s.transFault l.ctx (l.f 56 0 + 12 * l.f 95 64) atX
    let bind := s.rangeFault l.ctx (l.f 376 320) 8192 atW
    let pond := s.rangeFault l.ctx (l.f 504 448) l.pondLen (fun _ => true)
    let bar := if l.f 440 384 == 0 then none else s.rangeFault l.ctx (l.f 440 384) 288 (fun _ => true)
    (code.orElse (fun _ => bind)).orElse (fun _ => pond.orElse (fun _ => bar))

/-- `n` bytes at the LLC from a virtual address. -/
def State.readVa (s : State) (ctx va : Nat) (n : Nat) : List Byte :=
  (List.range n).map (fun i => match s.transNow ctx (va + i) with
    | some (pa, at_) => BitVec.ofNat 8 (s.llcBytes pa at_ 1)
    | none => 0)

/-- The full/empty bit that the LLC holds for a word (R306). -/
def State.llcFull (s : State) (pa : Nat) : Bool :=
  match s.llcGet (pa / 64) with
  | some l => l.fe.getLsbD (pa % 64 / 8)
  | none => (s.hbmFe (pa / 64)).getLsbD (pa % 64 / 8)

/-- The pond image of a launch: its bytes, and its full words, those whose full/empty bit the LLC holds as full (R58, R63). DEDUCED,
unsafe: log 71. DESIGN CHOICE, unsafe: log 130. -/
def State.readImage (s : State) (l : Launch) : Memory × List Nat :=
  let n := min l.pondLen (2 ^ 21)
  let va := l.f 504 448
  (((s.readVa l.ctx va n).zipIdx).foldl (fun m b => memSet m b.2 b.1) [],
    (List.range (n / 8)).filter (fun w => match s.transNow l.ctx (va + 8 * w) with
      | some (pa, _) => s.llcFull pa
      | none => false))

/-- The barrier counts of a launch (R355). DEDUCED, unsafe: log 71. -/
def State.readCounts (s : State) (l : Launch) : List Nat :=
  let va := l.f 440 384
  if va == 0 then []
  else
    let b := s.readVa l.ctx va 288
    (List.range 72).map (fun i => ((b[4 * i]?).getD 0).toNat + 256 * ((b[4 * i + 1]?).getD 0).toNat + 65536 * ((b[4 * i + 2]?).getD 0).toNat)

/-- The record that a kind-5 message brings: in it from a host, else at the LLC, where its payload says (R318). DEDUCED, unsafe: log 85. -/
def State.recordOf (s : State) (x : Sent) : Line × State :=
  let p := x.msg.pay.toNat
  if x.reply.isNone then (BitVec.ofNat 512 p, s)
  else
    let pa := p % 2 ^ 64
    let attr := p / 2 ^ 64
    if attr.testBit 51 then
      let (n, s) := s.draw
      (Config.fabricData n, s)
    else (s.llcLine (pa / 64) attr, s)

/-- The sender of a record learns its status and, where it was accepted, the LAUNCHID (R318, R356). -/
def State.recordStatus (s : State) (x : Sent) (die status id : Nat) : State :=
  match x.reply with
  | some _ => s.replyStatus x die 53 0 (status + id % 2 ^ 32 * 2 ^ 32)
  | none => { s with answers := s.answers ++ [(bits x.msg.hdr.toNat 43 32, .launch status id)] }

/-- A record reaches the pool of a die (R356). DEDUCED, unsafe: log 71. -/
def State.takeRecord (s : State) (die ctx : Nat) (x : Sent) : State :=
  let d := s.die die
  if 256 ≤ (d.pool.filter (fun l => (s.launchOf l).pending)).length then s.recordStatus x die 2 0
  else
    let id := die * 2 ^ 29 + d.launches % 2 ^ 29
    let (rec_, s) := s.recordOf x
    let s := s.updDie die (fun d => { d with launches := d.launches + 1 })
    let l : Launch := { record := rec_, id := id, ctx := ctx, die := die, from_ := x.reply.map (fun r => (r.1, x.thread)) }
    let s := s.recordStatus x die 0 id
    match s.recordFault l with
    | some f => (s.setLaunch id l).endLaunch id 1 f
    | none =>
      let im := s.readImage l
      let s := s.setLaunch id { l with counts := s.readCounts l, image := im.1, imageFull := im.2 }
      (s.updDie die (fun d => { d with pool := d.pool ++ [id] })).post s.cycle 3 860 .dispatch [die]

/-- A host command (R380): its code in word 0, its operands in the words that follow. DEDUCED, unsafe: log 88. -/
def State.takeCommand (s : State) (die ctx : Nat) (x : Sent) : State :=
  let w := fun i => bits x.msg.pay.toNat (64 * i + 63) (64 * i)
  let args := [die, ctx, x.msg.tag]
  let go := fun (i : Instr) (n : Nat) => s.post s.cycle 3 851 i (args ++ (List.range n).map (fun k => w (k + 1)))
  match w 0 with
  | 1 => go .preempt 3
  | 2 => go .switchout 0
  | 3 => go .switchin 0
  | 4 => go .resume 2
  | 5 => go .handler 2
  | 6 => go .kill 1
  | 7 => go .budget 3
  | c => s.reply die ctx x.msg.tag c false

/-- LAUNCH_RECORD: [die, context, message] the dispatcher takes a message from a context mailbox: a launch record, or a host
command (R301, R356, R380). -/
def execLaunchRecord (s : State) : Result :=
  let die := s.arg.headD 0
  let ctx := s.arg.getD 1 0
  let u := s.arg.getD 2 0
  let x := s.sent u
  let s := s.updDie die (fun y => { y with boxes := tput [] y.boxes ctx ((tget [] y.boxes ctx).filter (fun z => z.msg.uid != x.msg.uid)) })
  let s := if x.msg.kind == 5 then s.takeRecord die ctx x
    else
      let d := s.destStop x.dest
      (s.takeCommand die ctx x).replyStatus x d.1 d.2.1 d.2.2 0
  .next (s.delSent u)

end Sys2Proof.Machine
end

