-- ==== Sys2Proof/Machine/Vacate.lean ====
section
/-! DEFINITION. Crews that are vacated, their save images and their restoring (R373 to R375), the host's commands (R380), the
end of a context (R353), and the waiting budget with its snapshot (R367, R368). -/

namespace Sys2Proof.Machine

open Sys2Proof

/-! The start of a vacate (R373, step 1). -/

/-- A list of tasks in ascending order. -/
def insertNat (x : Nat) : List Nat → List Nat
  | [] => [x]
  | y :: t => if x ≤ y then x :: y :: t else y :: insertNat x t
def ascending (l : List Nat) : List Nat := l.foldl (fun t x => insertNat x t) []

/-- The unstarted tasks of a launch are drawn again over the crews that remain; without any they wait (R375). -/
def State.redraw (s : State) (l : Nat) (more : List Nat) : State :=
  let x := s.launchOf l
  let tasks := ascending (x.spare ++ x.work.flatten ++ more)
  let qs := (List.range x.crews.length).filter (fun q => ((x.crews[q]?).getD none).isSome && !s.leaving l q)
  let none_ := x.work.map (fun _ => [])
  if qs.isEmpty || s.vacatesDue l then s.setLaunch l { x with spare := tasks, work := none_ }
  else
    let ds := draws x.seed tasks qs.length
    let work := (qs.zip ds).foldl (fun w qd => w.set qd.1 qd.2) none_
    s.setLaunch l { x with spare := [], work := work }

/-- Tasks that a redraw has kept back, since another crew of the launch had its vacate at the same boundary, are drawn (R375). -/
def State.regroup (s : State) (l : Nat) : State :=
  if (s.launchOf l).spare.isEmpty then s else (s.redraw l []).feedCrews l

/-- The slots of some mills that a save concerns. DEDUCED, unsafe: log 66. -/
def State.crewSlots (s : State) (ms : List Nat) : List Nat :=
  (s.slots.filter (fun kx => ms.contains (millOf kx.1) && !s.isFirmware kx.1)).map (·.1)

/-- A slot reserved for a transfer is empty again, and the transfer arrives nowhere; what an earlier thread left open there goes on.
The cluster's migration queue sees it first (R72). -/
def State.unreserve (s : State) (d : Nat) : State :=
  let s := { s with agenda := s.agenda.filter (fun e => match e.what with | .event .migrationArrive [_, b] => b != d | _ => true) }
  (s.updSlot d (fun y => { open_ := y.open_, held := y.held, sending := y.sending })).post s.cycle 3 (d % 128) .migrationQueueServe [clusterOf d]

/-- A thread that waits for a G-core slot or is in transfer stands parked at its G instruction on its source slot again; late
faults held with it stop it there (R74, R75). DEDUCED, unsafe: log 94. -/
def State.unmigrate (s : State) (g : Nat) : State :=
  let x := s.slot g
  if x.st != .migrating then s
  else
    let s := match x.link with
      | some d => s.unreserve d
      | none => s
    let s := s.setSlot g { x with st := .parked .migration, link := none, flush := none, heldLate := [], parkedAt := s.cycle, due := none }
    (x.heldLate.foldl (fun s f => s.lateFault g f.1 f.2.1 f.2.2 x.thread (s.ctxOfSlot g)) s).sendOn g x.sending

/-- The waiters of a crew leave the lists of ponds, slices and base dies; their entries stay, and are issued again on a
restore (R373, R375). DEDUCED, unsafe: log 95. -/
def State.withdrawCrew (s : State) (ms : List Nat) : State :=
  let mine := fun (s : State) (r : Nat) =>
    let g := s.follow (s.req r).acc.slot
    ms.contains (millOf g) && !s.isFirmware g
  let s := ms.foldl (fun s m => s.updMill m (fun x => { x with
    feWait := (x.feWait.map (fun kw => (kw.1, kw.2.filter (fun v => s.isFirmware (s.follow v.slot))))).filter (fun kw => !kw.2.isEmpty)
    chkWait := x.chkWait.filter (fun kw => s.isFirmware (s.follow kw.2.slot)) })) s
  let gone := (s.slices.flatMap (fun kv => kv.2.feWait) ++ s.feWait).flatMap (fun kw => kw.2.filter (mine s))
  let clean := fun (t : Tab (List Nat)) => (t.map (fun kw => (kw.1, kw.2.filter (fun r => !gone.contains r)))).filter (fun kw => !kw.2.isEmpty)
  let s := { s with
    slices := s.slices.foldl (fun t kv => tput {} t kv.1 { kv.2 with feWait := clean kv.2.feWait }) s.slices
    feWait := clean s.feWait }
  gone.foldl (fun s r => s.delReq r) s

/-- The crew's mills are free, and what waits for mills, or for a crew, looks again. DESIGN CHOICE, unsafe: log 96. -/
def State.releaseCrew (s : State) (l q : Nat) : State :=
  let x := s.launchOf l
  let ms := (x.crews[q]?).getD none |>.getD []
  -- a notice for each vacated mill (R373, step 6)
  let s := ms.foldl (fun s m => s.post s.cycle 3 855 .machineCheck [5, m / 64, m % 64, l, s.millOwner m]) s
  let s := ms.foldl (fun s m => s.freeMill m) s
  let s := s.setLaunch l { x with crews := x.crews.set q none, current := x.current.set q none }
  let s := { s with vacates := tdel s.vacates (vacKey l q) }
  let s := s.feedCrews l
  let x := s.launchOf l
  let s := if x.mills.isEmpty && !x.ended && !(x.saved.isEmpty && x.spare.isEmpty) then
      s.updDie x.die (fun d => { d with pool := if d.pool.contains l then d.pool else d.pool ++ [l] })
    else s
  (s.tidyLaunch l).post s.cycle 3 860 .dispatch [x.die]

/-- Saved crews in task order (R375). -/
def State.insertSaved (s : State) (l img : Nat) : State :=
  let t := fun i => (tget ({} : SaveImage) s.saves i).task
  let rec put : List Nat → List Nat
    | [] => [img]
    | y :: r => if t img < t y then img :: y :: r else y :: put r
  s.updLaunch l (fun x => { x with saved := put x.saved })

/-- The first round boundary of a vacate: the crew's slots stop issuing, waits are withdrawn, copies fill the quarantine from
now on; a task that has not begun is unstarted again. -/
def State.beginVacate (s : State) (l q : Nat) (ms : List Nat) : State :=
  let x := s.launchOf l
  let pend := s.agenda.findSome? (fun d => match d.what with
    | .event .taskStart (a :: b :: t :: _) => if a == l && b == q then some (false, t) else none
    | .event .restore (a :: b :: i :: _) => if a == l && b == q then some (true, i) else none
    | _ => none)
  let s := { s with
    vacates := tins s.vacates (vacKey l q) { launch := l, crew := q }
    agenda := s.agenda.filter (fun d => match d.what with
      | .event .taskStart (a :: b :: _) => !(a == l && b == q)
      | .event .restore (a :: b :: _) => !(a == l && b == q)
      | _ => true) }
  match pend, (x.current[q]?).getD none with
  | some (false, t), _ => ((s.redraw l [t]).releaseCrew l q)
  | some (true, i), _ => ((s.insertSaved l i).redraw l []).releaseCrew l q
  | none, none => (s.redraw l []).releaseCrew l q
  | none, some _ =>
    let s := s.redraw l []
    let s := ms.foldl (fun s m => s.updMill m (fun x => { x with stopping := true })) s
    let s := { s with copies := s.copies.map (fun (kc : Nat × Copy) =>
      (kc.1, if kc.2.launch == l && kc.2.img == 0 && ms.contains (millOf kc.2.slot) then { kc.2 with hold := true } else kc.2)) }
    let s := s.clusters.foldl (fun (s : State) (kc : Nat × Cluster) => if ms.contains (kc.1 / 4) then s.setCluster kc.1 { kc.2 with migq := kc.2.migq.filter isSupervisor } else s) s
    let s := (s.crewSlots ms).foldl (fun (s : State) g => s.unmigrate g) s
    ((s.withdrawCrew ms).feedCrews l).post (s.cycle + 8) 3 871 .vacate [l, q, 1]

/-! Draining (R373, steps 2 to 4). -/

/-- Whether anything is still on its way to an entry. -/
def State.inFlight (s : State) (g uid : Nat) : Bool :=
  s.ports.any (fun kp => kp.2.any (fun q => q.acc.uid == uid))
    || s.reqs.any (fun kr => kr.2.acc.uid == uid)
    || s.walks.any (fun kw => kw.2.waiters.any (fun w => match w with | .access a => a.uid == uid | _ => false))
    || s.joins.any (fun kj => kj.2.land == some (g, uid))
    || s.agenda.any (fun d => d.what == .event .resultLands [g, uid])

/-- Whether an entry stands still: landed, or a wait that nothing is on its way to. -/
def State.rests (s : State) (g : Nat) (e : Entry) : Bool :=
  e.landed || (e.isRecv && !e.claimed && !s.inFlight g e.uid)

/-- Whether a copy command of a crew stands still: no chunk read or carried, none of its lines on their way. -/
def State.copyRests (s : State) (c : Copy) : Bool :=
  let busy := s.reqs.any (fun kr => match kr.2.sink with | .copy id _ => id == c.id | _ => false)
  !busy && (c.stage == 0 || (c.stage == 4 && c.next == c.fired + c.quar.length
    && (if c.kind == 1 then c.count - c.left == c.fired && c.linesLeft == 0
      else (s.copyDests c).all (fun m => c.lost.contains m
        || tget 0 c.committed m + ((s.mill m).stuck.filter (fun a => a.headD 0 == c.id)).length == c.fired))))

/-- Whether a crew has drained. DEDUCED, unsafe: log 93. -/
def State.drained (s : State) (l : Nat) (ms : List Nat) : Bool :=
  (s.crewSlots ms).all (fun g =>
      let x := s.slot g
      x.lateDue < s.cycle && x.held.isEmpty && x.open_.isEmpty && x.sending.isEmpty && x.rb.all (s.rests g))
    && s.clusters.all (fun kc => !ms.contains (kc.1 / 4) || (kc.2.eng.run.isNone && kc.2.moves.isEmpty))
    && s.copies.all (fun kc => !(kc.2.launch == l && kc.2.img == 0 && ms.contains (millOf kc.2.slot)) || s.copyRests kc.2)
    && s.ports.all (fun kp => !ms.contains (kp.1 / 64) || kp.2.all (fun q => s.isFirmware (s.follow q.acc.slot)))
    && ms.all (fun m => (s.mill m).staged.isEmpty)
    && s.arrivals.all (fun ka => (s.barrier ka.2.key).launch != l || !ka.2.waits.isEmpty)
    && s.sents.all (fun kx => match kx.2.dest with
      | .dispenser c => kx.2.launch != l || !ms.contains (c / 4)
      -- a completion that is on its way is awaited, one that a full mailbox holds is not
      | .slot g => !ms.contains (millOf g) || (kx.2.msg.kind != 2 && kx.2.msg.kind != 4) || s.heldMsgs.any (fun kh => kh.2.contains kx.1)
      | _ => true)

/-! The save image (R374). -/

/-- The unit of a saved barrier instance: the mill's place in the crew, the crew, and what is left of the number. -/
def SaveImage.hasUnit (im : SaveImage) (crew level unit_ : Nat) : Bool :=
  match level with
  | 2 => im.oldMills.contains (unit_ / 4)
  | 3 => im.oldMills.contains unit_
  | 4 => unit_ == crew
  | _ => false

/-- The chunks that the copy unit has gathered go to its quarantine, 32 at most; other lines are read again (R373).
DEDUCED, unsafe: log 100. -/
def Copy.gather (c : Copy) : Nat → Copy
  | 0 => c
  | n + 1 =>
    let i := c.next
    if c.stage == 4 && (c.kind == 0 || c.kind == 3) && i < c.count && (c.chunkLines i).all (fun l => (c.lines.lookup l).isSome) then
      ({ c with next := i + 1, quar := c.quar ++ [(i, c.chunkData i)] }).gather n
    else c

/-- What the save image holds of a mill; all of it leaves the mill but what its next launch finds there. DESIGN CHOICE, unsafe: log 72.
DEDUCED, unsafe: log 94. -/
def State.saveMill (s : State) (l img m : Nat) : State :=
  let im : SaveImage := tget {} s.saves img
  let slots := s.slots.filter (fun kx => millOf kx.1 == m && !s.isFirmware kx.1 && kx.2.st != .empty)
  let cores := s.cores.filter (fun kc => kc.1 / 32 == m)
  let clusters := s.clusters.filter (fun kc => kc.1 / 4 == m)
  let x := s.mill m
  let im := { im with
    slots := im.slots ++ [slots.map (fun kx => (kx.1 % 512, kx.2))]
    cores := im.cores ++ [cores.map (fun kc => (kc.1 % 32, { kc.2 with l1 := [] }))]
    clusters := im.clusters ++ [clusters.map (fun kc => (kc.1 % 4,
      { disp := kc.2.disp.filter (fun it => it.launch == l), eng := { batches := kc.2.eng.batches }, cu := { queue := kc.2.cu.queue } }))]
    pond := im.pond ++ [(s.pond.filter (fun kb => kb.1 / 2 ^ 21 == m)).map (fun kb => (kb.1 % 2 ^ 21, kb.2))]
    full := im.full ++ [x.full], sb := im.sb ++ [x.sb], stuck := im.stuck ++ [x.stuck] }
  let s := { s with saves := tput {} s.saves img im }
  let s := slots.foldl (fun s kx =>
    let key := savedKey kx.2.thread
    { (s.setSlot kx.1 {}) with
      savedSlots := if kx.2.st.hasThread then tins s.savedSlots kx.2.thread (img, kx.1) else s.savedSlots
      heldMsgs := tput [] (tdel s.heldMsgs kx.1) key (tget [] s.heldMsgs key ++ tget [] s.heldMsgs kx.1) }) s
  let s := cores.foldl (fun s kc => s.setCore kc.1 { l1 := kc.2.l1 }) s
  let s := clusters.foldl (fun s kc => s.setCluster kc.1 { kc.2 with
    disp := kc.2.disp.filter (fun it => it.launch != l), migq := kc.2.migq.filter isSupervisor, moves := []
    eng := { counter := kc.2.eng.counter, last := kc.2.eng.last }, cu := { last := kc.2.cu.last } }) s
  -- a supervisor's thread that waits for a G-core slot finds one now (R72)
  let s := (clusters.filter (fun kc => !(s.cluster kc.1).migq.isEmpty)).foldl (fun s kc => s.post s.cycle 3 0 .migrationQueueServe [kc.1]) s
  s.updMill m (fun x => { x with sb := [], stuck := [] })

/-- The image is written into the context's SAVE at the LLC, whose lines there it replaces; its length and its bytes are open (R373,
R374). DESIGN CHOICE, unsafe: log 72. -/
def State.writeSave (s : State) (ctx : Nat) : State :=
  let base := fieldOf (s.context ctx).record 155 104 / 64
  let (n, s) := s.draw
  { s with
    saveAreas := { base := base, draw := n } :: s.saveAreas
    llc := s.llc.filter (fun (kl : Nat × CLine) => !(base ≤ kl.1 && kl.1 < base + Config.saveLines n)) }

/-- The crew has drained and its cores have written back: its image is written, and its mills are free (R373, steps 5 and
6). A crew whose task has ended, or whose launch is killed, leaves no image. DESIGN CHOICE, unsafe: log 72. -/
def State.saveCrew (s : State) (l q : Nat) (ms : List Nat) : State :=
  let x := s.launchOf l
  let mine := fun (c : Copy) => c.launch == l && c.img == 0 && ms.contains (millOf c.slot)
  if x.reason == 3 then
    let s := s.clusters.foldl (fun (s : State) (kc : Nat × Cluster) => if ms.contains (kc.1 / 4) then s.setCluster kc.1 { kc.2 with
      disp := [], moves := [], eng := { counter := kc.2.eng.counter, last := kc.2.eng.last }, cu := { last := kc.2.cu.last } } else s) s
    let s := { s with copies := s.copies.filter (fun kc => !mine kc.2) }
    (ms.foldl (fun (s : State) m => s.updMill m (fun x => { x with sb := [] })) s).releaseCrew l q
  else if s.taskOver l ms then s.releaseCrew l q
  else
    let (img, s) := s.fresh
    let task := ((x.current[q]?).getD none).getD 0
    let s := { s with copies := s.copies.map (fun (kc : Nat × Copy) => (kc.1, if mine kc.2 then
      { kc.2.gather (32 - kc.2.quar.length) with lines := [], excess := [], lands := [], img := img } else kc.2)) }
    let im0 : SaveImage := { launch := l, task := task, oldMills := ms }
    let bars := s.barriers.filter (fun (kb : Nat × Barrier) => kb.2.launch == l && im0.hasUnit q kb.2.level kb.2.unit_)
    let s := { s with
      saves := tput {} s.saves img { im0 with barriers := bars.map (·.2) }
      barriers := s.barriers.filter (fun (kb : Nat × Barrier) => !bars.any (fun (kc : Nat × Barrier) => kc.1 == kb.1)) }
    let s := ms.foldl (fun (s : State) m => s.saveMill l img m) s
    ((s.writeSave x.ctx).insertSaved l img).releaseCrew l q

/-- One look at a crew that drains. DEDUCED, unsafe: log 93. -/
def State.pollVacate (s : State) (l q : Nat) (ms : List Nat) : State :=
  let s := s.withdrawCrew ms
  let again := fun (s : State) => s.post (s.cycle + 8) 3 871 .vacate [l, q, 1]
  let v : Vacating := tget {} s.vacates (vacKey l q)
  match v.joins with
  | some js => if js.any (fun j => (s.joins.lookup j).isSome) then again s else s.saveCrew l q ms
  | none =>
    if !s.drained l ms then again s
    else
      -- the dirty bytes of its cores go home before the image is written (R339)
      let r := ms.foldl (fun (r : State × List Nat) m => (List.range 32).foldl (fun (r : State × List Nat) c =>
        match r.1.cleanL1 (m * 32 + c) with
        | (some j, s) => (s, r.2 ++ [j])
        | (none, s) => (s, r.2)) r) (s, [])
      let s := { r.1 with vacates := tins r.1.vacates (vacKey l q) { launch := l, crew := q, joins := some r.2 } }
      if r.2.isEmpty then s.saveCrew l q ms else again s

/-- VACATE: [launch, crew] at a round boundary a crew stops; [launch, crew, 1] it drains and is saved (R373). DEDUCED, unsafe: log 93. -/
def execVacate (s : State) : Result :=
  let l := s.arg.headD 0
  let q := s.arg.getD 1 0
  match ((s.launchOf l).crews[q]?).getD none with
  | none => .next (s.regroup l)
  | some ms =>
    if s.arg.length == 2 then .next (if s.vacating l q then s.regroup l else s.beginVacate l q ms)
    else .next (if s.vacating l q then s.pollVacate l q ms else s)

/-! Restoring (R375). -/

/-- Whether mill `k` of an image holds something for a cluster position: a thread, state of a core, or work of the cluster. -/
def SaveImage.uses (im : SaveImage) (k c : Nat) : Bool :=
  ((im.slots[k]?).getD []).any (fun kx => kx.1 / 128 == c)
    || ((im.cores[k]?).getD []).any (fun kc => kc.1 / 8 == c && kc.2 != {})
    || ((im.clusters[k]?).getD []).any (fun kc => kc.1 == c && kc.2 != {})

/-- Where the positions of retired clusters go in a new mill: each to the lowest live cluster whose position the image does not use
and that none of them has taken (R375). -/
def State.movedClusters (s : State) (im : SaveImage) (k nm : Nat) : List (Nat × Nat) :=
  let live := fun c => !(s.cluster (nm * 4 + c)).retired
  ((List.range 4).filter (fun p => !live p && im.uses k p)).foldl (fun (m : List (Nat × Nat)) p =>
    match (List.range 4).find? (fun c => live c && !im.uses k c && !(m.any (fun x => x.2 == c))) with
    | some c => m ++ [(p, c)]
    | none => m) []

/-- Where a saved cluster position goes in its new mill: it stays, or moves; one that finds no empty position goes to the lowest live
cluster. DESIGN CHOICE, unsafe: log 99. -/
def State.newCluster (s : State) (im : SaveImage) (k nm p : Nat) : Nat :=
  if !(s.cluster (nm * 4 + p)).retired then p
  else match (s.movedClusters im k nm).lookup p with
    | some c => c
    | none => ((List.range 4).find? (fun c => !(s.cluster (nm * 4 + c)).retired)).getD p

/-- Whether a saved cluster position goes where another's state stands. -/
def State.crowded (s : State) (im : SaveImage) (k nm p : Nat) : Bool :=
  (s.cluster (nm * 4 + p)).retired && ((s.movedClusters im k nm).lookup p).isNone

/-- The slot ids that saved slots take: their own position where it is free, else the lowest empty slot of the mill that is
no supervisor slot, in ascending order of old ids. DEDUCED, unsafe: log 98. -/
def State.placeSaved (s : State) (im : SaveImage) (ms : List Nat) : List (Nat × Nat) :=
  ms.zipIdx.foldl (fun r mk =>
    let nm := mk.1
    let ps := ((im.slots[mk.2]?).getD []).map (·.1)
    let om := (im.oldMills[mk.2]?).getD 0
    let free := fun (taken : List Nat) (g : Nat) => (s.slot g).st == .empty && !isSupervisor g && !(s.cluster (clusterOf g)).retired && !taken.contains g
    let stay := ps.filter (fun p => free [] (nm * 512 + p))
    let r := r ++ stay.map (fun p => (om * 512 + p, nm * 512 + p))
    (ps.filter (fun p => !stay.contains p)).foldl (fun r p =>
      match (List.range 512).find? (fun i => free (r.map (·.2)) (nm * 512 + i)) with
      | some i => r ++ [(om * 512 + p, nm * 512 + i)]
      | none => r) r) []

/-- The new number of a saved barrier instance. -/
def State.rekey (s : State) (im : SaveImage) (ms : List Nat) (q k : Nat) : Nat :=
  let unit_ := k % 2 ^ 16
  let level := k / 2 ^ 20 % 8
  let at_ := fun m => im.oldMills.takeWhile (· != m) |>.length
  if !im.oldMills.contains (if level == 2 then unit_ / 4 else unit_) && level != 4 then k
  else
    let u := match level with
      | 2 =>
        let i := at_ (unit_ / 4)
        let nm := (ms[i]?).getD 0
        nm * 4 + s.newCluster im i nm (unit_ % 4)
      | 3 => (ms[at_ unit_]?).getD 0
      | 4 => q
      | _ => unit_
    k - unit_ + u

/-- A chunk of the quarantine is handed on as a chunk that is ready (R252, R375). -/
def State.fireChunk (s : State) (id i : Nat) (data : VPair) : State :=
  let c := s.copy id
  let s := s.setCopy id { c with fired := c.fired + 1 }
  let s := if i + 1 == c.count then s.updCu c.cluster (fun u => { u with queue := u.queue.filter (· != id) }) else s
  match c.kind with
  | 0 => s.deliverChunk c i data s.cycle
  | 3 => s.deliverChunk c i data s.cycle
  | 1 => s.laneChunk (s.chunkLane c.cluster (c.off + 512 * i)) id i .chunkLoad c.off 0 s.cycle
  | _ => s.laneChunk (s.chunkLane c.cluster (c.reg 0 + 512 * i)) id i .chunkLoad (c.reg 0) 0 s.cycle

/-- The lines of a copy command's chunks that are still to be prepared are requested. DEDUCED, unsafe: log 100. -/
def State.copyAgain (s : State) (id : Nat) : State :=
  let c := s.copy id
  s.sendLines id (if c.stage == 4 && (c.kind == 0 || c.kind == 3) then
    onceEach (((List.range c.count).filter (fun i => c.next ≤ i)).flatMap c.chunkLines) else [])

/-- A wait for a message or a word, issued again in a slot, acquires by the binding table as it stands there (R310, R375). -/
def State.rebindWait (s : State) (g : Nat) (e : Entry) : State :=
  match e.form, e.acc with
  | .mb _, _ =>
    let bs := ({ s with cur := g }).tagBinds
    s.updEntry g e.uid (fun y => { y with binds := bs })
  | .feG, some a =>
    let r := rangesOf (s.bindsOfWord (s.launchOfSlot g) a.addr)
    s.updEntry g e.uid (fun y => { y with acq := r.1, acqWide := r.2 })
  | _, _ => s

/-- A saved slot in its new place: it goes on at the round boundary `b`, its waits entered again as newly issued, a fault
reported again (R375). DEDUCED, unsafe: log 97. DEDUCED, unsafe: log 98.
A `recv.fe` of a
retired bank is entered all the same. DESIGN CHOICE, unsafe: log 160. -/
def State.putSlot (s : State) (x : Slot) (g b : Nat) (new rekey : Nat → Nat) : State :=
  let refit := fun (e : Entry) => { e with
    acc := e.acc.map (fun (a : Access) => { a with slot := g })
    form := (match e.form with | .bar k n => EForm.bar (rekey k) n | f => f)
    -- the job whose completion it received stands in the new mill (R242)
    job := e.job.map (fun j => millOf g * 2 ^ 21 + j % 2 ^ 21) }
  let y := { x with
    link := x.link.map new, due := none, lastLine := none, heldLate := []
    gens := x.gens.foldl (fun t (kv : Nat × Nat) => tput 0 t (rekey kv.1) kv.2) []
    rb := x.rb.map refit }
  let open_ := (s.slot g).open_
  let s := s.setSlot g { y with open_ := open_ }
  let s := (y.rb.filter (fun e => !e.landed && !e.claimed)).foldl (fun s e => s.rebindWait g e) s
  let s := (y.rb.filter (fun e => !e.landed && !e.claimed)).foldl (fun s e =>
    match e.form, e.acc with
    | .fe, some a => s.issueAccess a
    | .feG, some a => s.issueAccess a
    | .chk _, some a => s.issueAccess a
    | .bar k _, _ => s.landBar g k (s.barrier k).completed
    | _, _ => s) s
  let s := match y.st with
    | .running => s.turnAt g b
    | .parked _ => s.turnAt g b
    | .stopped _ =>
      (match y.trapped with
      | some m =>
        let m := { m with pay := BitVec.ofNat 960 (m.pay.toNat / 2 ^ 24 * 2 ^ 24 + g % 2 ^ 24) }
        (s.updSlot g (fun z => { z with trapped := some m })).reportFault g (b + 8) m
      | none => s)
    | _ => s
  x.heldLate.foldl (fun s f => s.lateFault g f.1 f.2.1 f.2.2 x.thread (s.ctxOfSlot g)) (s.claims g)

/-- What a mill of the image holds goes into the mill that replaces it: the pond, the scoreboard, cores and clusters; the dispensers
hand out from the round boundary on (R375). A core's state that finds no empty position keeps its accumulators only where the core has
none. DESIGN CHOICE, unsafe: log 99. -/
def State.putMill (s : State) (im : SaveImage) (k nm : Nat) (new : Nat → Nat) : State :=
  let m := s.mill nm
  let pos := s.newCluster im k nm
  let image := ((im.pond[k]?).getD []).filter (fun kb => !m.isDry kb.1)
  let s := { s with pond := image.foldl (fun p (kb : Nat × Byte) => memSet p (pondAt nm kb.1) kb.2) (s.pond.filter (fun (kb : Nat × Byte) => kb.1 / 2 ^ 21 != nm)) }
  let s := s.updMill nm (fun x => { x with full := (im.full[k]?).getD [], sb := (im.sb[k]?).getD [] })
  let step := fun (e : EStep) => { e with slot := new e.slot }
  let crowded := s.crowded im k nm
  let cores := ((im.cores[k]?).getD []).filter (fun kc => kc.2 != {})
  let loans := fun (x : Core) => x.loans.map (fun o => { o with slot := new o.slot, job := nm * 2 ^ 21 + o.job % 2 ^ 21 })
  let s := ((cores.filter (fun kc => !crowded (kc.1 / 8))) ++ (cores.filter (fun kc => crowded (kc.1 / 8)))).foldl (fun s kc =>
    let c := nm * 32 + pos (kc.1 / 8) * 8 + kc.1 % 8
    s.updCore c (fun y =>
      if crowded (kc.1 / 8) then { y with
        accs := if y.accs.isEmpty then kc.2.accs else y.accs, staging := y.staging ++ kc.2.staging.map step, loans := y.loans ++ loans kc.2 }
      else { y with accs := kc.2.accs, staging := kc.2.staging.map step, loans := loans kc.2 })) s
  let b := nextAt (s.cycle + 1) 32 0
  ((im.clusters[k]?).getD []).foldl (fun s kc =>
    let c := nm * 4 + pos kc.1
    let s := s.updCluster c (fun y => { y with
      disp := y.disp ++ kc.2.disp, handed := some (b - 1)
      eng := { y.eng with batches := y.eng.batches ++ kc.2.eng.batches.map (fun b => { b with slot := new b.slot, steps := b.steps.map step }) }
      cu := { y.cu with queue := y.cu.queue ++ kc.2.cu.queue } })
    (s.wakeEngine c).post b 3 900 .dispenserHandout [c]) s

/-- A saved id in its new place: a slot, and a mill. -/
def newSlot (map : List (Nat × Nat)) (g : Nat) : Nat := (map.lookup g).getD g
def SaveImage.newMill (im : SaveImage) (ms : List Nat) (m : Nat) : Nat := (ms[im.oldMills.takeWhile (· != m) |>.length]?).getD m

/-- The ponds, scoreboards, cores, engines and queues of an image, and its barriers (R375, steps 1 and 3). -/
def State.restoreMills (s : State) (im : SaveImage) (ms : List Nat) (map : List (Nat × Nat)) (key : Nat → Nat) : State :=
  let s := ms.zipIdx.foldl (fun s mk => s.putMill im mk.2 mk.1 (newSlot map)) s
  im.barriers.foldl (fun s bar =>
    let k := key (barKey bar.launch bar.level bar.id bar.unit_)
    s.setBarrier k { bar with unit_ := k % 2 ^ 16 }) s

/-- What names an image's threads names their new places: arrivals, copies and runs; and the image leaves. -/
def State.restoreWork (s : State) (l q img : Nat) (im : SaveImage) (ms : List Nat) (map : List (Nat × Nat)) (key : Nat → Nat) : State :=
  { s with
    arrivals := s.arrivals.map (fun (ka : Nat × Arrival) => (ka.1, { ka.2 with key := if (ka.2.key / 2 ^ 23) == l then key ka.2.key else ka.2.key }))
    copies := s.copies.map (fun (kc : Nat × Copy) =>
      let c := kc.2
      (kc.1, if c.img == img then { c with
        slot := newSlot map c.slot, crew := q, hold := false, img := 0
        committed := c.committed.foldl (fun t (kv : Nat × Nat) => tput 0 t (im.newMill ms kv.1) kv.2) [], lost := c.lost.map (im.newMill ms) } else c))
    runs := s.runs.map (fun (kr : Nat × Run) => (kr.1, if s.savedSlots.lookup kr.2.thread == some (img, kr.2.slot) then { kr.2 with slot := newSlot map kr.2.slot }
      else kr.2))
    savedSlots := s.savedSlots.filter (fun k => k.2.1 != img)
    saves := tdel s.saves img }

/-- The quarantine drains as chunk writes, and each unit goes on (R375, steps 2 and 4). -/
def State.restoreCopies (s : State) (l q : Nat) (im : SaveImage) (ms : List Nat) : State :=
  let ids := (s.copies.filter (fun kc => kc.2.launch == l && kc.2.crew == q && ms.contains (millOf kc.2.slot))).map (·.1)
  let s := ids.foldl (fun s id =>
    let c := s.copy id
    let s := c.quar.foldl (fun s iv => s.fireChunk id iv.1 iv.2) (s.setCopy id { c with quar := [] })
    s.copyAgain id) s
  let s := ms.zipIdx.foldl (fun s mk => (((im.stuck[mk.2]?).getD [])).foldl (fun s a => s.post s.cycle 3 600 .chunkWrite (mk.1 :: a)) s) s
  ms.foldl (fun s m => (List.range 4).foldl (fun s c => ((s.letIn (m * 4 + c)).copyNext (m * 4 + c)).copyAdvance (m * 4 + c) (64 * 17)) s) s

/-- The threads take their new slots, where they issue from round boundary `b` on, and the messages that were held for them follow
(R375, steps 5 and 6). -/
def State.restoreThreads (s : State) (im : SaveImage) (map : List (Nat × Nat)) (b : Nat) (key : Nat → Nat) : State :=
  let s := (onceEach (map.map (fun og => coreOf og.2))).foldl (fun s c => s.emptyL1 c .none) s
  let s := map.foldl (fun s og =>
    let k := im.oldMills.takeWhile (· != millOf og.1) |>.length
    s.putSlot (tget {} ((im.slots[k]?).getD []) (og.1 % 512)) og.2 b (newSlot map) key) s
  map.foldl (fun s og =>
    let dst := s.follow og.2
    let key := savedKey (s.slot dst).thread
    let waiting := tget [] s.heldMsgs key
    if waiting.isEmpty then s
    else
      let s := { s with heldMsgs := tdel s.heldMsgs key }
      ({ s with heldMsgs := tput [] s.heldMsgs dst (tget [] s.heldMsgs dst ++ waiting) }).retryHeld dst) s

/-- Completions and notices for the restored threads that are on their way go to the new slots, and so do the notices of the launches
that they issued (R360). -/
def State.restoreNotices (s : State) (map : List (Nat × Nat)) : State :=
  let s := { s with sents := s.sents.map (fun (kx : Nat × Sent) => (kx.1, match kx.2.dest with
    | .slot g => if map.any (fun og => og.1 == g && kx.2.thread != 0 && (s.slot og.2).thread == kx.2.thread) then { kx.2 with dest := .slot (newSlot map g) }
      else kx.2
    | _ => kx.2)) }
  { s with launches := s.launches.map (fun (kl : Nat × Launch) => (kl.1, { kl.2 with
    from_ := kl.2.from_.map (fun (f : Nat × Nat) => if map.any (fun og => og.1 == f.1 && (s.slot og.2).thread == f.2) then (newSlot map f.1, f.2) else f) })) }

/-- The slice of a launch begins again (R376). -/
def State.restartSlice (s : State) (l : Nat) : State :=
  let x := s.launchOf l
  if x.slice == 0 then s
  else (s.setLaunch l { x with sliceEnd := some (s.cycle + 1024 * x.slice) }).post (s.cycle + 1024 * x.slice) 3 890 .sliceExpiry [l]

/-- RESTORE: [launch, crew, image] a saved crew goes on in the mills of another; it issues from the next round boundary
(R375). DESIGN CHOICE, unsafe: log 72. DEDUCED, unsafe: log 98. -/
def execRestore (s : State) : Result :=
  let l := s.arg.headD 0
  let q := s.arg.getD 1 0
  let img := s.arg.getD 2 0
  let im : SaveImage := tget {} s.saves img
  match ((s.launchOf l).crews[q]?).getD none with
  | none => .next s
  | some ms =>
    let map := s.placeSaved im ms
    let key := s.rekey im ms q
    let s := (s.restoreMills im ms map key).restoreWork l q img im ms map key
    let s := (s.restoreCopies l q im ms).restoreThreads im map (nextAt (s.cycle + 1) 32 0) key
    .next (((s.restoreNotices map).restartSlice l).post (s.cycle + 1) 8 q .taskEnd [l, q])

/-! Host commands (R380): [die, context, tag, operands]. -/

/-- A launch of a context on a die that has not ended. -/
def State.names (s : State) (die ctx l : Nat) : Bool :=
  match s.launches.lookup l with
  | some x => x.die == die && x.ctx == ctx && !x.ended
  | none => false

/-- PREEMPT: a crew mask, or a count of the highest-numbered crews; exactly one is not 0 (R373, R380). -/
def execPreempt (s : State) : Result :=
  match s.arg with
  | [die, ctx, tag, l, mask, count] =>
    let qs := s.standing l
    let pick := if mask != 0 then qs.filter (fun q => mask.testBit q) else qs.take count
    if s.names die ctx l && ((mask == 0) != (count == 0)) && !pick.isEmpty then
      .next ((s.vacateAt l pick (nextAt (s.cycle + 1) 32 0)).reply die ctx tag 1 true)
    else .next (s.reply die ctx tag 1 false)
  | _ => .next s

/-- Every crew of a context's launches on a die is vacated, and none is dispatched there until it is switched in. -/
def State.switchOut (s : State) (die ctx t : Nat) : State :=
  let c := s.context ctx
  let s := { s with contexts := tput {} s.contexts ctx { c with out := if c.out.contains die then c.out else c.out ++ [die] } }
  s.launches.foldl (fun s kl => if kl.2.ctx == ctx && kl.2.die == die then s.vacateAt kl.1 (s.standing kl.1) t else s) s

/-- A full context switch: every crew of every launch of a context, on every die (R373). -/
def State.switchOutAll (s : State) (ctx : Nat) : State :=
  (List.range 8).foldl (fun s d => s.switchOut d ctx (nextAt (s.cycle + 1) 32 0)) s

/-- SWITCHOUT: a full context switch (R373, R380). -/
def execSwitchout (s : State) : Result :=
  match s.arg with
  | [die, ctx, tag] => .next ((s.switchOutAll ctx).reply die ctx tag 2 true)
  | _ => .next s

/-- SWITCHIN: saved launches resume as mills allow (R380), on every die. -/
def execSwitchin (s : State) : Result :=
  match s.arg with
  | [die, ctx, tag] =>
    let c := s.context ctx
    let s := { s with contexts := tput {} s.contexts ctx { c with out := [] } }
    .next (((List.range 8).foldl (fun s d => s.post s.cycle 3 860 .dispatch [d]) s).reply die ctx tag 3 true)
  | _ => .next s

/-- RESUME: as `slotgo` of its mode (R380, R383). DEDUCED, unsafe: log 89. -/
def execResume (s : State) : Result :=
  match s.arg with
  | [die, ctx, tag, g, mode] =>
    let x := s.slot g
    if 2 < mode || 2 ^ 18 ≤ g || !x.st.hasThread || isSupervisor g || s.ctxOfSlot g != ctx then .next (s.reply die ctx tag 4 false)
    else
      let code := x.st.code
      let s := if code == 3 || code == 4 then s.resumeSlot g mode else s
      .next (s.reply die ctx tag 4 true)
  | _ => .next s

/-- A field of a line replaced. -/
def setField (r : Line) (hi lo v : Nat) : Line := BitVec.ofNat 512 (putBits r.toNat lo (hi + 1 - lo) v)

/-- HANDLER: FPOL and HSLOT of the context record (R354, R380). DEDUCED, unsafe: log 90. -/
def execHandler (s : State) : Result :=
  match s.arg with
  | [die, ctx, tag, fpol, hslot] =>
    if 1 < fpol || 2 ^ 24 ≤ hslot then .next (s.reply die ctx tag 5 false)
    else
      let c := s.context ctx
      let c := { c with record := setField (setField c.record 247 246 fpol) 245 222 hslot }
      .next ((({ s with contexts := tput {} s.contexts ctx c }).keepRecord ctx c.record).reply die ctx tag 5 true)
  | _ => .next s

/-- The threads of a launch empty; its items, its unstarted and its saved tasks go; it ends once its jobs have completed.
DESIGN CHOICE, unsafe: log 96. -/
def State.killLaunch (s : State) (l : Nat) : State :=
  let x := s.launchOf l
  let gs := (s.slots.filter (fun kx => x.mills.contains (millOf kx.1) && kx.2.launch == l && kx.2.st.hasThread && !isSupervisor kx.1)).map (·.1)
  let gone := x.saved
  let s := s.setLaunch l { x with reason := 3, work := x.work.map (fun _ => []), spare := [], saved := [] }
  let s := { s with
    clusters := s.clusters.foldl (fun t kc => tput {} t kc.1 { kc.2 with
      disp := kc.2.disp.filter (fun it => it.launch != l), migq := kc.2.migq.filter (fun g => !gs.contains g) }) s.clusters
    agenda := s.agenda.filter (fun d => match d.what with
      | .event .taskStart (a :: _) => a != l
      | .event .restore (a :: _) => a != l
      | .event .migrationStart (g :: _) => !gs.contains g
      | _ => true)
    saves := s.saves.filter (fun ki => ki.2.launch != l)
    copies := s.copies.filter (fun kc => !(kc.2.launch == l && kc.2.img != 0))
    savedSlots := s.savedSlots.filter (fun k => !gone.contains k.2.1) }
  let s := gs.foldl (fun s g =>
    let s := match (s.slot g).st, (s.slot g).link with
      | .migrating, some d => s.unreserve d
      | _, _ => s
    s.emptySlot g) s
  let s := (List.range x.crews.length).foldl (fun s q => s.post (s.cycle + 1) 8 q .taskEnd [l, q]) s
  if x.mills.isEmpty then s.endLaunch l 3 0 else s

/-- KILL (R380). -/
def execKill (s : State) : Result :=
  match s.arg with
  | [die, ctx, tag, l] =>
    if s.names die ctx l then .next ((s.killLaunch l).reply die ctx tag 6 true) else .next (s.reply die ctx tag 6 false)
  | _ => .next s

/-- BUDGET: a launch's WAIT and SLICE (R380); its slice counts from where it began. DEDUCED, unsafe: log 90. -/
def execBudget (s : State) : Result :=
  match s.arg with
  | [die, ctx, tag, l, wait, slice] =>
    if !s.names die ctx l || 2 ^ 32 ≤ wait || 2 ^ 32 ≤ slice then .next (s.reply die ctx tag 7 false)
    else
      let x := s.launchOf l
      let runs := !x.mills.isEmpty
      let start := match x.sliceEnd with | some e => e - 1024 * x.slice | none => s.cycle
      let end_ := max s.cycle (start + 1024 * slice)
      let x := { x with
        record := setField (setField x.record 319 288 wait) 287 256 slice
        sliceEnd := if slice == 0 || !runs then none else some end_, spent := false }
      let s := s.setLaunch l x
      let s := if slice == 0 || !runs then s else s.post end_ 3 890 .sliceExpiry [l]
      .next ((s.checkBudget l).reply die ctx tag 7 true)
  | _ => .next s

/-! The end of a context (R353). -/

/-- What is left of a context goes with it (R353, R395): its pending launches, its save images, its mailboxes, its combine
queues, its record. -/
def State.dropContext (s : State) (ctx : Nat) (ls : List Nat) : State :=
  let imgs := (s.saves.filter (fun ki => ls.contains ki.2.launch)).map (·.1)
  let s := ls.foldl (fun s l => s.updLaunch l (fun x => { x with ended := true, pending := false, spare := [], saved := [] })) s
  let s := (List.range 8).foldl (fun s d => s.updDie d (fun y => { y with
    pool := y.pool.filter (fun l => !ls.contains l), boxes := tdel y.boxes ctx, boxAt := tdel y.boxAt ctx
    queues := y.queues.map (fun kq => (kq.1, if kq.2.ctx == some ctx then { kq.2 with ctx := none } else kq.2)) })) s
  let s := { s with
    contexts := tdel s.contexts ctx
    saves := s.saves.filter (fun ki => !imgs.contains ki.1)
    savedSlots := s.savedSlots.filter (fun k => !imgs.contains k.2.1)
    copies := s.copies.filter (fun kc => !(ls.contains kc.2.launch))
    barriers := s.barriers.filter (fun kb => !ls.contains kb.2.launch) }
  s.keepRecord ctx 0

/-- DESTROY: a session command whose plaintext is a context id in its first byte: every crew of the context is vacated, its
pending launches and save images are discarded, and its id is free once the crews have gone; [node, context] looks again
(R353). DESIGN CHOICE, unsafe: log 125. -/
def execDestroy (s : State) : Result :=
  let finish := fun (s : State) (node ctx : Nat) =>
    let mine := (s.launches.filter (fun kl => kl.2.ctx == ctx && !kl.2.ended)).map (·.1)
    if mine.any (fun l => !(s.launchOf l).mills.isEmpty) then s.post (s.cycle + 8) 3 872 .destroy [node, ctx]
    else (s.dropContext ctx mine).sessionAnswer node .done
  match s.arg with
  | [node, ctx] => .next (finish s node ctx)
  | _ => .next (s.command (fun node x =>
    let ctx := x % 256
    if !s.ctxExists ctx then s.sessionAnswer node (.failed .noContext)
    else finish (s.switchOutAll ctx) node ctx))

/-! The waiting budget and the snapshot (R367, R368). -/

/-- A record of a snapshot, with its type. -/
def snapRec (type : Nat) (v : Nat) : Nat := v + type * 2 ^ 248

/-- The form and object of the wait of a parked slot; what the spec does not lay down is an open value. -/
def State.waitForm (s : State) (g : Nat) : Nat × Nat × State :=
  let x := s.slot g
  let (n, s) := s.draw
  let any := (Config.openStatus n).toNat
  let obj := fun (e : Entry) => (e.acc.map (·.addr)).getD any
  match x.st, x.rb.find? (fun e => !e.landed) with
  | .parked .recvWork, _ => (4, 0, s)
  | .parked .marker, some e =>
    (match e.form with
    | .mb (some f) => (0, f, s)
    | .mb none => (0, any, s)
    | .fe => (1, obj e, s)
    | .job id => (2, id, s)
    | .chk m => (3, m.toNat, s)
    | .work => (4, 0, s)
    | .bar k _ => (5, (Config.snapObject (k / 2 ^ 20 % 8) (k / 2 ^ 16 % 16)).toNat, s)
    | .feG => (6, obj e, s)
    | _ => (7, obj e, s))
  | _, _ => (any % 256, any, s)

/-- The full/empty bit of a word at its home (R306). -/
def State.homeFull (s : State) (die pa attr : Nat) : Bool :=
  if atMemSide attr then s.llcFull pa
  else match (s.l2Lines (s.homeSlice die pa attr) (l2Set pa)).find? (fun c => c.tag == pa / 64 && c.miss.isNone) with
    | some c => c.fe.getLsbD (pa % 64 / 8)
    | none => s.llcFull pa

/-- The records of a snapshot after its HEAD (R368). DESIGN CHOICE, safe: log 10. DEDUCED, unsafe: log 101. -/
def State.snapshotBody (s : State) (ctx : Nat) : List Nat × State :=
  let gs := (s.slots.filter (fun kx => kx.2.st.hasThread && !isSupervisor kx.1 && s.ctxOfSlot kx.1 == ctx)).map (·.1)
  let waits := gs.foldl (fun (r : List Nat × State) g =>
    let x := r.2.slot g
    match x.st with
    | .parked _ =>
      let (form, obj, s) := r.2.waitForm g
      (r.1 ++ [snapRec 1 (g * 2 ^ 216 + form % 256 * 2 ^ 208 + (s.cycle - x.parkedAt) % 2 ^ 64 * 2 ^ 144 + obj % 2 ^ 128)], s)
    | _ => r) ([], s)
  let s := waits.2
  let boxes := gs.map (fun g =>
    let es := (s.slot g).mbox.flatMap (fun m => List.replicate m.entries (m.kind * 2 ^ 16 + m.tag))
    snapRec 2 (g * 2 ^ 216 + es.length * 2 ^ 208 + packBits 20 es))
  let ls := s.launches.filter (fun kl => kl.2.ctx == ctx && !kl.2.ended)
  let pondWords := s.mills.flatMap (fun km =>
    if km.2.launch.any (fun l => ls.any (fun kl => kl.1 == l)) then km.2.feWait.map (fun kw =>
      let head := (kw.2.head?.map (·.slot)).getD 0
      snapRec 3 ((Config.snapObject km.1 (8 * kw.1)).toNat * 2 ^ 168 + (if tget false km.2.full kw.1 then 2 ^ 167 else 0)
        + min kw.2.length 127 * 2 ^ 160 + head * 2 ^ 136))
    else [])
  let waiting := (s.slices.flatMap (fun kv => kv.2.feWait) ++ s.feWait).filterMap (fun kw =>
    (kw.2.find? (fun r => (s.req r).ctx == ctx)).map (fun r => ((s.req r).acc.addr, kw.2.length, (s.req r).acc.slot)))
  let bound := ls.flatMap (fun kl => ((s.binds kl.2).map (fun p => bObj p.2)).filter (fun o => !o.testBit 63))
  let words := ascending (onceEach (waiting.map (·.1) ++ bound))
  let globs := words.map (fun va =>
    let w := (waiting.lookup va).getD (0, 0)
    let die := (ls.head?.map (·.2.die)).getD 0
    let full := match s.transNow ctx va with
      | some (pa, at_) => s.homeFull die pa at_
      | none => false
    snapRec 3 (2 ^ 232 + va % 2 ^ 64 * 2 ^ 168 + (if full then 2 ^ 167 else 0) + min w.1 127 * 2 ^ 160 + w.2 * 2 ^ 136))
  let bars := (List.range 8).flatMap (fun lv => (s.barriers.filter (fun kb => kb.2.level == lv && ls.any (fun kl => kl.1 == kb.2.launch))).map (fun kb =>
    let b := kb.2
    let want := ((s.launchOf b.launch).counts[barBase b.level + b.id]?).getD 0
    snapRec 4 (b.level * 2 ^ 237 + b.id * 2 ^ 233 + b.unit_ % 2 ^ 24 * 2 ^ 209 + b.count % 2 ^ 24 * 2 ^ 185 + want % 2 ^ 24 * 2 ^ 161 + b.gen % 2 ^ 32 * 2 ^ 129)))
  (waits.1 ++ boxes ++ pondWords ++ globs ++ bars, s)

/-- The snapshot is written into SNAP (R354, R368). DEDUCED, unsafe: log 101. -/
def State.writeSnapshot (s : State) (ctx : Nat) : State :=
  let at_ := fieldOf (s.context ctx).record 103 52
  let (body, s) := s.snapshotBody ctx
  let head := snapRec 0 (ctx * 2 ^ 240 + (body.length + 1) % 2 ^ 32 * 2 ^ 208 + s.cycle % 2 ^ 64)
  let recs := head :: body
  (List.range ((recs.length + 1) / 2)).foldl (fun s i =>
    let lo := (recs[2 * i]?).getD 0
    let hi := (recs[2 * i + 1]?).getD 0
    let mask : Nat := if 2 * i + 1 < recs.length then 2 ^ 64 - 1 else 2 ^ 32 - 1
    s.llcWrite (at_ / 64 + i) 32 (BitVec.ofNat 512 (lo + hi * 2 ^ 256)) (BitVec.ofNat 64 mask)) s

/-- WAIT_BUDGET_EXPIRY: [die, context] at a round boundary the whole context stops as for a switch, on every die; the snapshot
is written, and each running launch has a notice with REASON 2 (R367). DEDUCED, unsafe: log 101. -/
def execWaitBudgetExpiry (s : State) : Result :=
  let ctx := s.arg.getD 1 0
  let snap := fieldOf (s.context ctx).record 103 52
  -- one that is to be switched out at this boundary stops here for its budget as well
  let due := s.agenda.any (fun d => d.at_ ≤ s.cycle && match d.what with | .event .vacate [l, _] => (s.launchOf l).ctx == ctx | _ => false)
  if (List.range 8).all (fun d => (s.context ctx).out.contains d) && !due then .next s else
  let ls := (s.launches.filter (fun kl => kl.2.ctx == ctx && !kl.2.ended && !kl.2.mills.isEmpty)).map (·.1)
  let s := s.writeSnapshot ctx
  let s := (List.range 8).foldl (fun s d => s.switchOut d ctx s.cycle) s
  .next (ls.foldl (fun s l => (s.updLaunch l (fun x => { x with snap := snap })).post s.cycle 3 880 .launchNotice [l, 2, snap]) s)

end Sys2Proof.Machine
end

