-- ==== Sys2Proof/Machine/Dispatch.lean ====
section
/-! DEFINITION. One arm per step of the part. -/

namespace Sys2Proof.Machine

/-- The meaning of a step. -/
def exec (i : Instr) (s : State) : Host.Outcome State Fault Refusal :=
  match i with
  | .nop x => Sys2Proof.Machine.execNop x s
  | .trap x => Sys2Proof.Machine.execTrap x s
  | .csrr x => Sys2Proof.Machine.execCsrr x s
  | .csrw x => Sys2Proof.Machine.execCsrw x s
  | .csrx x => Sys2Proof.Machine.execCsrx x s
  | .slotr x => Sys2Proof.Machine.execSlotr x s
  | .slotw x => Sys2Proof.Machine.execSlotw x s
  | .slotgo x => Sys2Proof.Machine.execSlotgo x s
  | .slotstop x => Sys2Proof.Machine.execSlotstop x s
  | .tlbi x => Sys2Proof.Machine.execTlbi x s
  | .camw x => Sys2Proof.Machine.execCamw x s
  | .camsw x => Sys2Proof.Machine.execCamsw x s
  | .unassignedOpcode x => Sys2Proof.Machine.execUnassignedOpcode x s
  | .add x => Sys2Proof.Machine.execAdd x s
  | .sub x => Sys2Proof.Machine.execSub x s
  | .mul x => Sys2Proof.Machine.execMul x s
  | .mulh x => Sys2Proof.Machine.execMulh x s
  | .mulhn x => Sys2Proof.Machine.execMulhn x s
  | .div x => Sys2Proof.Machine.execDiv x s
  | .divn x => Sys2Proof.Machine.execDivn x s
  | .rem x => Sys2Proof.Machine.execRem x s
  | .remn x => Sys2Proof.Machine.execRemn x s
  | .and x => Sys2Proof.Machine.execAnd x s
  | .or x => Sys2Proof.Machine.execOr x s
  | .xor x => Sys2Proof.Machine.execXor x s
  | .andn x => Sys2Proof.Machine.execAndn x s
  | .orn x => Sys2Proof.Machine.execOrn x s
  | .shl x => Sys2Proof.Machine.execShl x s
  | .shr x => Sys2Proof.Machine.execShr x s
  | .sra x => Sys2Proof.Machine.execSra x s
  | .rol x => Sys2Proof.Machine.execRol x s
  | .min x => Sys2Proof.Machine.execMin x s
  | .minn x => Sys2Proof.Machine.execMinn x s
  | .max x => Sys2Proof.Machine.execMax x s
  | .maxn x => Sys2Proof.Machine.execMaxn x s
  | .clz x => Sys2Proof.Machine.execClz x s
  | .ctz x => Sys2Proof.Machine.execCtz x s
  | .popc x => Sys2Proof.Machine.execPopc x s
  | .bfx x => Sys2Proof.Machine.execBfx x s
  | .bfxn x => Sys2Proof.Machine.execBfxn x s
  | .bfi x => Sys2Proof.Machine.execBfi x s
  | .cmpEq x => Sys2Proof.Machine.execCmpEq x s
  | .cmpNe x => Sys2Proof.Machine.execCmpNe x s
  | .cmpLt x => Sys2Proof.Machine.execCmpLt x s
  | .cmpLe x => Sys2Proof.Machine.execCmpLe x s
  | .cmpLtn x => Sys2Proof.Machine.execCmpLtn x s
  | .cmpLen x => Sys2Proof.Machine.execCmpLen x s
  | .sel x => Sys2Proof.Machine.execSel x s
  | .mov x => Sys2Proof.Machine.execMov x s
  | .li x => Sys2Proof.Machine.execLi x s
  | .lih x => Sys2Proof.Machine.execLih x s
  | .fadd x => Sys2Proof.Machine.execFadd x s
  | .fsub x => Sys2Proof.Machine.execFsub x s
  | .fmul x => Sys2Proof.Machine.execFmul x s
  | .ffma x => Sys2Proof.Machine.execFfma x s
  | .fdiv x => Sys2Proof.Machine.execFdiv x s
  | .fsqrt x => Sys2Proof.Machine.execFsqrt x s
  | .fmin x => Sys2Proof.Machine.execFmin x s
  | .fmax x => Sys2Proof.Machine.execFmax x s
  | .fcvt x => Sys2Proof.Machine.execFcvt x s
  | .fclass x => Sys2Proof.Machine.execFclass x s
  | .fcmpEq x => Sys2Proof.Machine.execFcmpEq x s
  | .fcmpNe x => Sys2Proof.Machine.execFcmpNe x s
  | .fcmpLt x => Sys2Proof.Machine.execFcmpLt x s
  | .fcmpLe x => Sys2Proof.Machine.execFcmpLe x s
  | .fcmpUn x => Sys2Proof.Machine.execFcmpUn x s
  | .pand x => Sys2Proof.Machine.execPand x s
  | .por x => Sys2Proof.Machine.execPor x s
  | .pxor x => Sys2Proof.Machine.execPxor x s
  | .pnot x => Sys2Proof.Machine.execPnot x s
  | .pmov x => Sys2Proof.Machine.execPmov x s
  | .br x => Sys2Proof.Machine.execBr x s
  | .bri x => Sys2Proof.Machine.execBri x s
  | .call x => Sys2Proof.Machine.execCall x s
  | .calli x => Sys2Proof.Machine.execCalli x s
  | .ret x => Sys2Proof.Machine.execRet x s
  | .dbr x => Sys2Proof.Machine.execDbr x s
  | .exit x => Sys2Proof.Machine.execExit x s
  | .vadd x => Sys2Proof.Machine.execVadd x s
  | .vsub x => Sys2Proof.Machine.execVsub x s
  | .vmul x => Sys2Proof.Machine.execVmul x s
  | .vfma x => Sys2Proof.Machine.execVfma x s
  | .vfms x => Sys2Proof.Machine.execVfms x s
  | .vmin x => Sys2Proof.Machine.execVmin x s
  | .vmax x => Sys2Proof.Machine.execVmax x s
  | .vabs x => Sys2Proof.Machine.execVabs x s
  | .vneg x => Sys2Proof.Machine.execVneg x s
  | .vand x => Sys2Proof.Machine.execVand x s
  | .vor x => Sys2Proof.Machine.execVor x s
  | .vxor x => Sys2Proof.Machine.execVxor x s
  | .vshl x => Sys2Proof.Machine.execVshl x s
  | .vshr x => Sys2Proof.Machine.execVshr x s
  | .vsra x => Sys2Proof.Machine.execVsra x s
  | .vcmpEq x => Sys2Proof.Machine.execVcmpEq x s
  | .vcmpNe x => Sys2Proof.Machine.execVcmpNe x s
  | .vcmpLt x => Sys2Proof.Machine.execVcmpLt x s
  | .vcmpLe x => Sys2Proof.Machine.execVcmpLe x s
  | .vcmpLtn x => Sys2Proof.Machine.execVcmpLtn x s
  | .vcmpLen x => Sys2Proof.Machine.execVcmpLen x s
  | .vcmpUn x => Sys2Proof.Machine.execVcmpUn x s
  | .vsel x => Sys2Proof.Machine.execVsel x s
  | .vperm x => Sys2Proof.Machine.execVperm x s
  | .vbcast x => Sys2Proof.Machine.execVbcast x s
  | .vslide x => Sys2Proof.Machine.execVslide x s
  | .vmovs x => Sys2Proof.Machine.execVmovs x s
  | .vins x => Sys2Proof.Machine.execVins x s
  | .vexp2 x => Sys2Proof.Machine.execVexp2 x s
  | .vlog2 x => Sys2Proof.Machine.execVlog2 x s
  | .vrcp x => Sys2Proof.Machine.execVrcp x s
  | .vrsq x => Sys2Proof.Machine.execVrsq x s
  | .vredXsum x => Sys2Proof.Machine.execVredXsum x s
  | .vredMin x => Sys2Proof.Machine.execVredMin x s
  | .vredMax x => Sys2Proof.Machine.execVredMax x s
  | .vredAdd x => Sys2Proof.Machine.execVredAdd x s
  | .vdot x => Sys2Proof.Machine.execVdot x s
  | .kand x => Sys2Proof.Machine.execKand x s
  | .kor x => Sys2Proof.Machine.execKor x s
  | .knot x => Sys2Proof.Machine.execKnot x s
  | .kpop x => Sys2Proof.Machine.execKpop x s
  | .vcvt x => Sys2Proof.Machine.execVcvt x s
  | .vpack x => Sys2Proof.Machine.execVpack x s
  | .vunpack x => Sys2Proof.Machine.execVunpack x s
  | .xacc x => Sys2Proof.Machine.execXacc x s
  | .xrnd x => Sys2Proof.Machine.execXrnd x s
  | .xclr x => Sys2Proof.Machine.execXclr x s
  | .rmix x => Sys2Proof.Machine.execRmix x s
  | .vrmix x => Sys2Proof.Machine.execVrmix x s
  | .ldg x => Sys2Proof.Machine.execLdg x s
  | .stg x => Sys2Proof.Machine.execStg x s
  | .vldg x => Sys2Proof.Machine.execVldg x s
  | .vstg x => Sys2Proof.Machine.execVstg x s
  | .vgthg x => Sys2Proof.Machine.execVgthg x s
  | .vsctg x => Sys2Proof.Machine.execVsctg x s
  | .pfg x => Sys2Proof.Machine.execPfg x s
  | .clg x => Sys2Proof.Machine.execClg x s
  | .tldg x => Sys2Proof.Machine.execTldg x s
  | .tstg x => Sys2Proof.Machine.execTstg x s
  | .tldgAon x => Sys2Proof.Machine.execTldgAon x s
  | .tstgAon x => Sys2Proof.Machine.execTstgAon x s
  | .ldp x => Sys2Proof.Machine.execLdp x s
  | .stp x => Sys2Proof.Machine.execStp x s
  | .vldp x => Sys2Proof.Machine.execVldp x s
  | .vstp x => Sys2Proof.Machine.execVstp x s
  | .blkld x => Sys2Proof.Machine.execBlkld x s
  | .blkst x => Sys2Proof.Machine.execBlkst x s
  | .fill x => Sys2Proof.Machine.execFill x s
  | .empty x => Sys2Proof.Machine.execEmpty x s
  | .peek x => Sys2Proof.Machine.execPeek x s
  | .fillG x => Sys2Proof.Machine.execFillG x s
  | .emptyG x => Sys2Proof.Machine.execEmptyG x s
  | .peekG x => Sys2Proof.Machine.execPeekG x s
  | .ldc x => Sys2Proof.Machine.execLdc x s
  | .stc x => Sys2Proof.Machine.execStc x s
  | .vldc x => Sys2Proof.Machine.execVldc x s
  | .vstc x => Sys2Proof.Machine.execVstc x s
  | .amogAdd x => Sys2Proof.Machine.execAmogAdd x s
  | .amogAnd x => Sys2Proof.Machine.execAmogAnd x s
  | .amogOr x => Sys2Proof.Machine.execAmogOr x s
  | .amogXor x => Sys2Proof.Machine.execAmogXor x s
  | .amogMin x => Sys2Proof.Machine.execAmogMin x s
  | .amogMax x => Sys2Proof.Machine.execAmogMax x s
  | .amogMinn x => Sys2Proof.Machine.execAmogMinn x s
  | .amogMaxn x => Sys2Proof.Machine.execAmogMaxn x s
  | .amogSwap x => Sys2Proof.Machine.execAmogSwap x s
  | .amogCas x => Sys2Proof.Machine.execAmogCas x s
  | .amogXadd32 x => Sys2Proof.Machine.execAmogXadd32 x s
  | .amogXadd64 x => Sys2Proof.Machine.execAmogXadd64 x s
  | .amopAdd x => Sys2Proof.Machine.execAmopAdd x s
  | .amopAnd x => Sys2Proof.Machine.execAmopAnd x s
  | .amopOr x => Sys2Proof.Machine.execAmopOr x s
  | .amopXor x => Sys2Proof.Machine.execAmopXor x s
  | .amopMin x => Sys2Proof.Machine.execAmopMin x s
  | .amopMax x => Sys2Proof.Machine.execAmopMax x s
  | .amopMinn x => Sys2Proof.Machine.execAmopMinn x s
  | .amopMaxn x => Sys2Proof.Machine.execAmopMaxn x s
  | .amopSwap x => Sys2Proof.Machine.execAmopSwap x s
  | .amopCas x => Sys2Proof.Machine.execAmopCas x s
  | .amopXadd32 x => Sys2Proof.Machine.execAmopXadd32 x s
  | .amopXadd64 x => Sys2Proof.Machine.execAmopXadd64 x s
  | .amocAdd x => Sys2Proof.Machine.execAmocAdd x s
  | .amocAnd x => Sys2Proof.Machine.execAmocAnd x s
  | .amocOr x => Sys2Proof.Machine.execAmocOr x s
  | .amocXor x => Sys2Proof.Machine.execAmocXor x s
  | .amocMin x => Sys2Proof.Machine.execAmocMin x s
  | .amocMax x => Sys2Proof.Machine.execAmocMax x s
  | .amocMinn x => Sys2Proof.Machine.execAmocMinn x s
  | .amocMaxn x => Sys2Proof.Machine.execAmocMaxn x s
  | .amocSwap x => Sys2Proof.Machine.execAmocSwap x s
  | .amocCas x => Sys2Proof.Machine.execAmocCas x s
  | .amocXadd32 x => Sys2Proof.Machine.execAmocXadd32 x s
  | .amocXadd64 x => Sys2Proof.Machine.execAmocXadd64 x s
  | .send x => Sys2Proof.Machine.execSend x s
  | .sendl x => Sys2Proof.Machine.execSendl x s
  | .recvMb x => Sys2Proof.Machine.execRecvMb x s
  | .recvFe x => Sys2Proof.Machine.execRecvFe x s
  | .recvFeG x => Sys2Proof.Machine.execRecvFeG x s
  | .recvJob x => Sys2Proof.Machine.execRecvJob x s
  | .recvChk x => Sys2Proof.Machine.execRecvChk x s
  | .recvWork x => Sys2Proof.Machine.execRecvWork x s
  | .recvBar x => Sys2Proof.Machine.execRecvBar x s
  | .probe x => Sys2Proof.Machine.execProbe x s
  | .bind x => Sys2Proof.Machine.execBind x s
  | .unbind x => Sys2Proof.Machine.execUnbind x s
  | .bar x => Sys2Proof.Machine.execBar x s
  | .fence x => Sys2Proof.Machine.execFence x s
  | .spawn x => Sys2Proof.Machine.execSpawn x s
  | .launch x => Sys2Proof.Machine.execLaunch x s
  | .cfetch x => Sys2Proof.Machine.execCfetch x s
  | .cstore x => Sys2Proof.Machine.execCstore x s
  | .cpush x => Sys2Proof.Machine.execCpush x s
  | .cmcast x => Sys2Proof.Machine.execCmcast x s
  | .mshape x => Sys2Proof.Machine.execMshape x s
  | .mma x => Sys2Proof.Machine.execMma x s
  | .mcommit x => Sys2Proof.Machine.execMcommit x s
  | .mzero x => Sys2Proof.Machine.execMzero x s
  | .mld x => Sys2Proof.Machine.execMld x s
  | .mst x => Sys2Proof.Machine.execMst x s
  | .cgload x => Sys2Proof.Machine.execCgload x s
  | .cgloadUnload x => Sys2Proof.Machine.execCgloadUnload x s
  | .cgrun x => Sys2Proof.Machine.execCgrun x s
  | .cgrunAt x => Sys2Proof.Machine.execCgrunAt x s
  | .cgstat x => Sys2Proof.Machine.execCgstat x s
  | .cbq x => Sys2Proof.Machine.execCbq x s
  | .cbres x => Sys2Proof.Machine.execCbres x s
  | .cbput x => Sys2Proof.Machine.execCbput x s
  | .cbstat x => Sys2Proof.Machine.execCbstat x s
  | .gadd x => Sys2Proof.Machine.execGadd x s
  | .gelim x => Sys2Proof.Machine.execGelim x s
  | .gdamp x => Sys2Proof.Machine.execGdamp x s
  | .gsolve x => Sys2Proof.Machine.execGsolve x s
  | .gres x => Sys2Proof.Machine.execGres x s
  | .icacheMiss => Sys2Proof.Machine.execIcacheMiss s
  | .icacheFill => Sys2Proof.Machine.execIcacheFill s
  | .tlbMissWalk => Sys2Proof.Machine.execTlbMissWalk s
  | .walkAnswer => Sys2Proof.Machine.execWalkAnswer s
  | .walkRetry => Sys2Proof.Machine.execWalkRetry s
  | .sliceServe => Sys2Proof.Machine.execSliceServe s
  | .missListRetry => Sys2Proof.Machine.execMissListRetry s
  | .l2Fill => Sys2Proof.Machine.execL2Fill s
  | .llcAccess => Sys2Proof.Machine.execLlcAccess s
  | .hbmFill => Sys2Proof.Machine.execHbmFill s
  | .writeBack => Sys2Proof.Machine.execWriteBack s
  | .readBudgetExpiry => Sys2Proof.Machine.execReadBudgetExpiry s
  | .resultLands => Sys2Proof.Machine.execResultLands s
  | .pondWordService => Sys2Proof.Machine.execPondWordService s
  | .blockTurn => Sys2Proof.Machine.execBlockTurn s
  | .blockCommit => Sys2Proof.Machine.execBlockCommit s
  | .bankRetireDecided => Sys2Proof.Machine.execBankRetireDecided s
  | .sevenBankEntry => Sys2Proof.Machine.execSevenBankEntry s
  | .clusterRetire => Sys2Proof.Machine.execClusterRetire s
  | .camSwitch => Sys2Proof.Machine.execCamSwitch s
  | .tldgAonRetry => Sys2Proof.Machine.execTldgAonRetry s
  | .copyChunkReady => Sys2Proof.Machine.execCopyChunkReady s
  | .chunkWrite => Sys2Proof.Machine.execChunkWrite s
  | .copyLateFault => Sys2Proof.Machine.execCopyLateFault s
  | .copyComplete => Sys2Proof.Machine.execCopyComplete s
  | .batchRegister => Sys2Proof.Machine.execBatchRegister s
  | .engineStep => Sys2Proof.Machine.execEngineStep s
  | .engineStepEnd => Sys2Proof.Machine.execEngineStepEnd s
  | .batchComplete => Sys2Proof.Machine.execBatchComplete s
  | .flitHop => Sys2Proof.Machine.execFlitHop s
  | .crewAccessArrive => Sys2Proof.Machine.execCrewAccessArrive s
  | .crewResponse => Sys2Proof.Machine.execCrewResponse s
  | .messageDelivery => Sys2Proof.Machine.execMessageDelivery s
  | .heldMessageRetry => Sys2Proof.Machine.execHeldMessageRetry s
  | .sendStatus => Sys2Proof.Machine.execSendStatus s
  | .dispenserHandout => Sys2Proof.Machine.execDispenserHandout s
  | .barrierArrival => Sys2Proof.Machine.execBarrierArrival s
  | .barrierComplete => Sys2Proof.Machine.execBarrierComplete s
  | .feHomeServe => Sys2Proof.Machine.execFeHomeServe s
  | .feTableRetry => Sys2Proof.Machine.execFeTableRetry s
  | .migrationStart => Sys2Proof.Machine.execMigrationStart s
  | .migrationQueueServe => Sys2Proof.Machine.execMigrationQueueServe s
  | .migrationArrive => Sys2Proof.Machine.execMigrationArrive s
  | .lateFault => Sys2Proof.Machine.execLateFault s
  | .trapForward => Sys2Proof.Machine.execTrapForward s
  | .launchRecord => Sys2Proof.Machine.execLaunchRecord s
  | .dispatch => Sys2Proof.Machine.execDispatch s
  | .taskStart => Sys2Proof.Machine.execTaskStart s
  | .taskEnd => Sys2Proof.Machine.execTaskEnd s
  | .launchNotice => Sys2Proof.Machine.execLaunchNotice s
  | .create => Sys2Proof.Machine.execCreate s
  | .destroy => Sys2Proof.Machine.execDestroy s
  | .loadkey => Sys2Proof.Machine.execLoadkey s
  | .quote => Sys2Proof.Machine.execQuote s
  | .preempt => Sys2Proof.Machine.execPreempt s
  | .switchout => Sys2Proof.Machine.execSwitchout s
  | .switchin => Sys2Proof.Machine.execSwitchin s
  | .resume => Sys2Proof.Machine.execResume s
  | .handler => Sys2Proof.Machine.execHandler s
  | .kill => Sys2Proof.Machine.execKill s
  | .budget => Sys2Proof.Machine.execBudget s
  | .vacate => Sys2Proof.Machine.execVacate s
  | .restore => Sys2Proof.Machine.execRestore s
  | .sliceExpiry => Sys2Proof.Machine.execSliceExpiry s
  | .waitBudgetExpiry => Sys2Proof.Machine.execWaitBudgetExpiry s
  | .featherWindowEnd => Sys2Proof.Machine.execFeatherWindowEnd s
  | .machineCheck => Sys2Proof.Machine.execMachineCheck s
  | .enumTableUpdate => Sys2Proof.Machine.execEnumTableUpdate s
  | .freeze => Sys2Proof.Machine.execFreeze s
  | .reset => Sys2Proof.Machine.execReset s
  | .boot => Sys2Proof.Machine.execBoot s
  | .fabricReplay => Sys2Proof.Machine.execFabricReplay s
  | .hostMemoryRequest => Sys2Proof.Machine.execHostMemoryRequest s
  | .windowAccess => Sys2Proof.Machine.execWindowAccess s
  | .skyclockDiscipline => Sys2Proof.Machine.execSkyclockDiscipline s
  | .formatWindowWrite => Sys2Proof.Machine.execFormatWindowWrite s
  | .combineControlServe => Sys2Proof.Machine.execCombineControlServe s
  | .cbputDeposit => Sys2Proof.Machine.execCbputDeposit s
  | .combineDeadline => Sys2Proof.Machine.execCombineDeadline s
  | .combineRelease => Sys2Proof.Machine.execCombineRelease s
  | .graphImageLoaded => Sys2Proof.Machine.execGraphImageLoaded s
  | .runStartTime => Sys2Proof.Machine.execRunStartTime s
  | .nodeComplete => Sys2Proof.Machine.execNodeComplete s
  | .runEnd => Sys2Proof.Machine.execRunEnd s
  | .inSwitchMerge => Sys2Proof.Machine.execInSwitchMerge s
  | .tlbiComplete => Sys2Proof.Machine.execTlbiComplete s
  | .managementPathRead => Sys2Proof.Machine.execManagementPathRead s
  | .authenticatedSession => Sys2Proof.Machine.execAuthenticatedSession s
  | .supervisorRestart => Sys2Proof.Machine.execSupervisorRestart s

end Sys2Proof.Machine
end

