-- ==== Sys2Proof/Machine/Run.lean ====
section
/-! DEFINITION. What happens when an item of the agenda is due: a slot's turn fetches, decodes and issues one instruction;
an event has its effect. -/

namespace Sys2Proof.Machine

open Sys2Proof

/-- What is still served while every clock is stopped: a reset, and reads over the management path (R378). -/
def Todo.servedFrozen : Todo → Bool
  | .event .reset _ => true
  | .event .managementPathRead _ => true
  | _ => false

/-- The word that a slot's turn has fetched issues: the instruction it decodes to, or ILLOP (R47). -/
def issueWord (w : BitVec 96) (s : State) : Host.Outcome State Fault Refusal :=
  match decode w with
  | some i => exec i s
  | none => .next (s.illFormed w)

/-- A slot's turn, if it is still due at the present cycle. -/
def runTurn (g : Nat) (s : State) : Host.Outcome State Fault Refusal :=
  if (s.slot g).due == some s.cycle then
    match ({ s with cur := g }).turn with
    | .word w s => issueWord w s
    | .idle s => .next s
  else .next s

/-- An item of the agenda happens at its cycle. -/
def runDue (d : Due) (s : State) : Host.Outcome State Fault Refusal :=
  match d.what with
  | .turn g => runTurn g s
  | .event i a => exec i { s with arg := a }

end Sys2Proof.Machine
end

