-- ==== Sys2Proof/Machine/Step.lean ====
section
/-! DEFINITION. One step of the part: the next thing that is due happens. A slot's turn fetches, decodes and issues one
instruction; an event has its effect. -/

namespace Sys2Proof.Machine

open Sys2Proof

/-- The step. -/
def step (s : State) : Host.Outcome State Fault Refusal :=
  if s.frozen then
    match s.agenda.find? (fun d => d.what.servedFrozen) with
    | some d => runDue d { s with agenda := s.agenda.erase d }
    | none => .fault .frozen
  else
    match s.agenda with
    | [] => .fault .idle
    | d :: rest => runDue d { s with agenda := rest, cycle := d.at_ }

/-- The state with an instruction's word where the next step fetches: the slot whose issue cycle is the present one runs at
index 0 of its launch, its code page is in its cluster's TLB, its first line in the instruction cache, and its context
accepts every feature. It stands for the load of a program, its launch and its dispatch (R355 to R361). DESIGN CHOICE, safe: log 5. -/
def State.withFetchWord (s : State) (nbits w : Nat) : State :=
  let g := s.cycle % 16
  let ctx := s.ctxOfSlot g
  let va := fieldOf (s.launchOfSlot g).record 56 0
  let page : Trans := { ctx := ctx, base := va / 65536 * 65536, size := 65536, leaf := 15 }
  let word : Line := BitVec.ofNat 512 (w % 2 ^ min nbits 96 * 2 ^ (8 * (va % 64)))
  let c := s.context ctx
  let s := { s with contexts := tput {} s.contexts ctx { c with record := c.record ||| BitVec.ofNat 512 (63 * 2 ^ 256) } }
  let s := s.updCluster 0 (fun k => { k with
    tlb := page :: k.tlb, icache := (va % 65536 / 64, word) :: k.icache.filter (fun l => l.1 != va % 65536 / 64) })
  let s := s.updMill 0 (fun m => { m with stopping := false, feather := 0 })
  let s := s.updSlot g (fun x => { x with st := .running, pc := 0, due := some s.cycle, fetchFault := none })
  { s with frozen := false, agenda := ⟨s.cycle, 0, 0, .turn g⟩ :: s.agenda }

end Sys2Proof.Machine
end

