-- ==== Sys2Proof/WellFormed.lean ====
section
/-! DEFINITION. Well-formed instructions: those a word of the part stands for. -/

namespace Sys2Proof

/-- An instruction that passes checks 1 and 2 of R47 (but for the feature bits, which are the context's): its pair
is the one its operands spell (R304), its format is sound, and a word with no instruction has an unassigned pair.
`cgloadUnload` is the run-time form of `cgload` that Reg(B)[63] chooses (R409): it has no word of its own. -/
def Instr.wellFormed (i : Instr) : Bool :=
  match i with
  | .unassignedOpcode w => !assigned (opOf w) (fnOf w)
  | .cgloadUnload _ => false
  | i => match i.opFn with
    | some (op, fn, x) => formatOk op fn x && instrOf op fn x == some i
    | none => false

end Sys2Proof
end

