-- ==== Sys2Proof/Safety.lean ====
section
/-! DEFINITION. What a run is, when it is safe, and when an instruction begins its own effect, in the terms that claims
use. -/

namespace Sys2Proof.Machine

open Sys2Proof

/-- The outcome is a next state. -/
def goesOn : Host.Outcome State Fault Refusal → Bool
  | .next _ => true
  | _ => false

/-- A run of `k` steps from a state that meets no stop. -/
def SafeRun (k : Nat) (s : State) : Prop := ∃ t, Sys2Proof.core.run k s = .next t

/-- The checks that precede an instruction's own effect pass: the feature gate, the format (R47), and, for a privileged
form, the supervisor slot (R29). -/
def State.accepted (s : State) (op fn : Nat) (x : Args) : Bool :=
  s.featureOk op fn x && formatOk op fn x && (!isPrivileged op fn x || isSupervisor s.cur)

/-- Whether the marker runs before the instruction: its J bit, an instruction that always runs it, or a ninth
return-buffer entry (R14, R15). -/
def State.runsMarker (s : State) (x : Args) (takes always : Bool) : Bool :=
  x.j || always || (takes && 8 ≤ s.me.outstanding)

/-- The state in which an instruction's own effect begins: its checks pass, its guard holds (R39), and its marker, where
it runs one, finds every entry landed and none faulted (R14, R19). None where the instruction raises, parks or is
skipped. -/
def State.begins (s : State) (op fn : Nat) (x : Args) (takes always : Bool) : Option State :=
  if s.accepted op fn x && s.guard x then
    if s.runsMarker x takes always then
      match s.marker with
      | .done t => some t
      | _ => none
    else some s
  else none

/-- Device memory and the ponds are in canonical form (the model's own invariant). -/
abbrev State.bytesOk (s : State) : Prop := s.mem.wf = true ∧ s.pond.wf = true

/-- An access of `n` bytes from an address lies in a space of `lim` bytes and is aligned to `al` (R98, R125). -/
abbrev fits (lim : Nat) (va : Int) (n al : Nat) : Prop := 0 ≤ va ∧ va + n ≤ lim ∧ va % al = 0

/-- What R163 asks of a pond access of `n` bytes at an offset before it goes on: the offset in the pond and aligned, no
retired bank among its first `banks` bytes, room in the core's pond queue, and nothing on the scoreboard. -/
abbrev State.pondReady (s : State) (off : Int) (n al banks : Nat) (a : Access) : Prop :=
  fits (2 ^ 21) off n al
  ∧ (∀ i ∈ List.range ((off.toNat + banks + 63) / 64 - off.toNat / 64),
      (s.mill (millOf s.cur)).isRetired ((off.toNat / 64 + i) * 64) = false)
  ∧ (s.port (portX s.cur)).length + s.heldPond s.cur + a.words.length ≤ 16
  ∧ s.parksAccess (millOf s.cur) a = false

/-- What R319 asks of a crew access of `n` bytes at an address: in the crew's space and within one pond, a member of the
crew, aligned, and no retired bank of the member. -/
abbrev State.crewReady (s : State) (addr : Int) (n al : Nat) : Prop :=
  0 ≤ addr ∧ addr < 2 ^ 25 ∧ addr.toNat % 2 ^ 21 + n ≤ 2 ^ 21 ∧ addr.toNat / 2 ^ 21 < s.crewN ∧ addr.toNat % al = 0
  ∧ (∀ i ∈ List.range ((addr.toNat % 2 ^ 21 + n + 63) / 64 - addr.toNat % 2 ^ 21 / 64),
      (((s.mill (millOf s.cur)).holes[addr.toNat / 2 ^ 21]?).getD 0).getLsbD
        (8 * offGroup ((addr.toNat % 2 ^ 21 / 64 + i) * 64) + offBank ((addr.toNat % 2 ^ 21 / 64 + i) * 64)) = false)

end Sys2Proof.Machine

/-- The operands of an instruction with the guard "always" and no hint. -/
def Sys2Proof.Args.always (a b c : Sys2Proof.Operand) : Sys2Proof.Args := { neg := false, g := 0, j := false, d := false, bud := 0, a := a, b := b, c := c }
end

