-- ==== Sys2Proof/Certificates/Slice0/Obligations.lean ====
section
/-! DEFINITION. What the model claims of the part, statement by statement. A statement about an instruction speaks of the
state `r` in which its own effect begins (`State.begins`): its checks pass, its guard holds, and its marker, where it runs
one, has written every entry. -/

open Sys2Proof Sys2Proof.Machine

/-! The step, and the words of instructions. -/

/-- Where the head of the agenda is the turn of a slot that is due then, and the turn fetches a word that decodes to an
instruction, the step is that instruction's meaning: the step takes the item off the agenda, the cycle becomes the
item's, and the meaning itself moves the program counter and gives the slot its next turn.
The agenda, `cur` and the order of what is due in one cycle are the model's own (log 4). -/
def Obligations.StepRunsDecodedInstruction : Prop :=
  ∀ (s s' : State) (d : Due) (rest : List Due) (g : Nat) (w : BitVec 96) (i : Instr),
    s.frozen = false → s.agenda = d :: rest → d.what = .turn g → (s.slot g).due = some d.at_ →
    ({ s with agenda := rest, cycle := d.at_, cur := g } : State).turn = .word w s' → decode w = some i →
    step s = exec i s'

/-- An event that is due has its meaning at its cycle, with the numbers of what it acts on in `State.arg`.
That an event is a constructor with its operands in `State.arg` is the model's choice (log 4, 109). -/
def Obligations.StepRunsDueEvent : Prop :=
  ∀ (s : State) (d : Due) (rest : List Due) (i : Instr) (a : List Nat),
    s.frozen = false → s.agenda = d :: rest → d.what = .event i a →
    step s = exec i { s with agenda := rest, cycle := d.at_, arg := a }

/-- Words that R48, R134, R173, R258, R321, R385, R389, R416 and R433 write out bit by bit decode to the instructions
they stand for. -/
def Obligations.SpecWordsDecode : Prop :=
  decode 0x1800_0000_000A_8400_0080_0000#96 = some (.li (.always (.reg .s 0 10) (.limm 0x40000) (.limm 0)))
  ∧ decode 0x1000_2000_000D_0100_0D00_000E#96 =
      some (.add { Args.always (.reg .s 0 13) (.reg .s (4 <<< 2) 13) (.reg .s 0 14) with j := true })
  ∧ decode 0x6000_0000_000E_0100_0A40_0000#96 = some (.ldg (.always (.reg .s 0 14) (.reg .s (4 <<< 2) 10) (.imm 0)))
  ∧ decode 0x6100_0208_5004_0280_0A40_0100#96 =
      some (.vldg { Args.always (.reg .v 5 4) (.reg .s (10 <<< 2) 10) (.imm 256) with bud := 2 })
  ∧ decode 0x7100_0008_0004_0000_0D00_0015#96 = some (.blkld (.always (.reg .v 0 4) (.reg .s 0 13) (.reg .s 0 21)))
  ∧ decode 0x8124_0000_0005_0100_0600_0008#96 = some (.amopCas (.always (.reg .s 0 5) (.reg .s (4 <<< 2) 6) (.reg .s 0 8)))
  ∧ decode 0xB004_0020_0000_0000_1E00_0020#96 = some (.mma (.always (.reg .a 0 0) (.reg .s 0 30) (.reg .s 0 32)))
  ∧ decode 0xA000_00C0_0000_0000_14C0_0000#96 = some (.cfetch (.always (.none 0) (.reg .s 0 20) (.none 0)))
  ∧ decode 0x9300_00C0_0000_4000_0440_0000#96 = some (.bar (.always (.none 0) (.imm 4) (.imm 0)))
  ∧ decode 0x0208_0000_0004_0000_0540_0001#96 = some (.slotgo (.always (.reg .s 0 4) (.reg .s 0 5) (.imm 1)))
  ∧ decode 0xC108_0000_001A_0000_1900_0016#96 = some (.cbput (.always (.reg .s 0 26) (.reg .s 0 25) (.reg .s 0 22)))
  ∧ decode 0xC008_0000_0006_0000_1400_001E#96 = some (.cgrunAt (.always (.reg .s 0 6) (.reg .s 0 20) (.reg .s 0 30)))
  ∧ decode 0xD00C_0008_0004_0800_02C0_0000#96 = some (.gsolve (.always (.reg .v 0 4) (.reg .v 0 2) (.none 0)))

/-- Decoding the encoding of any well-formed instruction gives the instruction back: no bit of an encoding is dropped. -/
def Obligations.EncodeDecode : Prop :=
  ∀ (i : Instr), i.wellFormed = true → ∃ w, encode i = some w ∧ decode w = some i

/-- An accepted word is the encoding of the instruction it decodes to, and that instruction is well formed. -/
def Obligations.DecodeEncode : Prop :=
  ∀ (w : BitVec 96) (i : Instr), decode w = some i → encode i = some w ∧ i.wellFormed = true

/-! Issue (R39, R47, R67, R29). -/

/-- A word that no pair of R66 assigns decodes to `unassignedOpcode`; OP 0xE0 to 0xFF are never assigned. All that the
spec lets such a word do, in every state and whatever its guard, is to raise ILLOP exactly (R67): the slot stops at the
word, with no turn due, and keeps its trap message, of class 0, with the program counter and bits [95:32] of the word
(R370, R371), which leaves for the cluster's supervisor slot 8 cycles later, or for firmware from that slot itself. Nothing
else of the machine changes. -/
def Claims.UnassignedRaisesIllop : Prop :=
  (∀ w : BitVec 96, assigned (opOf w) (fnOf w) = false → decode w = some (.unassignedOpcode w))
  ∧ (∀ op fn, 0xE0 ≤ op → assigned op fn = false)
  ∧ (∀ (w : BitVec 96) (s : State),
    let m := trapMsg s.cur (s.ctxOfSlot s.cur) 0x01 0 s.me.pc.toNat (w.toNat / 2 ^ 32) 0 0 false
    let t := s.setMe { s.me with st := .stopped 0x01, due := none, trapped := some m }
    (s.cur % 128 ≠ 127 → exec (.unassignedOpcode w) s =
      .next (t.sendAt (s.cycle + 8) { msg := m, dest := .slot (s.cur / 128 * 128 + 127) }))
    ∧ (s.cur % 128 = 127 → exec (.unassignedOpcode w) s =
      .next { t with answers := s.answers ++ [(4096, .trap s.cur m)] }))

/-- Check 1 and 2 of R47: an instruction whose feature bits the context has not accepted, or whose format is not sound,
raises ILLOP exactly, whatever its guard and marker, with bits [95:32] of its word as DETAIL (R371). (That no word decodes to an
instruction whose format is not sound is `DecodeEncode`'s; of the words themselves the next claim speaks.) -/
def Claims.IllFormedRaisesIllop : Prop :=
  ∀ (i : Instr) (op fn : Nat) (x : Args) (s : State), i.opFn = some (op, fn, x) →
    (s.featureOk op fn x && formatOk op fn x) = false →
    exec i s = .next (s.raise 0x01 ((encWord op fn x).toNat / 2 ^ 32))

/-- A word of an assigned pair whose format is not sound decodes to nothing (check 2 of R47): where a slot's turn fetches one, the slot
raises ILLOP exactly with bits [95:32] of the word, whatever its guard. -/
def Claims.UndecodedRaisesIllop : Prop :=
  (∀ (w : BitVec 96) (s : State), decode w = none → issueWord w s = .next (s.raise 0x01 (w.toNat / 2 ^ 32)))
  ∧ (∀ (g : Nat) (w : BitVec 96) (s r : State), (s.slot g).due = some s.cycle → { s with cur := g }.turn = .word w r → decode w = none →
      runTurn g s = .next (r.raise 0x01 (w.toNat / 2 ^ 32)))

/-- Words that are no instruction, words whose format is not sound, and instructions whose checks fail raise ILLOP exactly. -/
def Obligations.IllegalWords : Prop :=
  Claims.UnassignedRaisesIllop ∧ Claims.IllFormedRaisesIllop ∧ Claims.UndecodedRaisesIllop

/-- Check 3 of R47: a privileged instruction, or an access to a privileged CSR, outside a supervisor slot raises PRIV
exactly; the privileged instructions are those of R29, and the privileged CSRs WAITBUD, TSLICE, CAMIN and CAMOUT (R144, R365), which
`csrr` names in B, `csrw` in A and `csrx` in B; nothing else is privileged. -/
def Obligations.PrivilegedNeedsSupervisor : Prop :=
  (∀ (i : Instr) (op fn : Nat) (x : Args) (s : State), i.opFn = some (op, fn, x) →
    s.featureOk op fn x = true → formatOk op fn x = true → isPrivileged op fn x = true → s.cur % 128 ≠ 127 →
    ∃ detail, exec i s = .next (s.raise 0x0A detail))
  ∧ (∀ x op fn, (op, fn) ∈ [(2, 0), (2, 1), (2, 2), (2, 3), (3, 0), (4, 0), (4, 1)] → isPrivileged op fn x = true)
  ∧ (∀ x fn n, (fn, n) ∈ [(0, x.b.idx), (1, x.a.idx), (2, x.b.idx)] → (isPrivileged 1 fn x = true ↔ n ∈ [0x50, 0x51, 0x200, 0x201]))
  ∧ (∀ x op fn, op ∉ [1, 2, 3, 4] → isPrivileged op fn x = false)

/-- A false guard: the guard predicate is p(G[80:78]), inverted when G[81] is 1. When it is false, an instruction without
a J marker does nothing but go on; with one, nothing but its marker: it parks, reports the earliest fault, or goes on
with the entries written. -/
def Obligations.FalseGuardHasNoEffect : Prop :=
  ∀ (i : Instr) (op fn : Nat) (x : Args) (s : State), i.opFn = some (op, fn, x) → s.accepted op fn x = true →
    (s.me.preg x.g.toNat != x.neg) = false →
    (x.j = false → exec i s = .next s.advance)
    ∧ (∀ t, x.j = true → s.marker = .done t → exec i s = .next t.advance)
    ∧ (∀ t, x.j = true → s.marker = .parked t ∨ s.marker = .faulted t → exec i s = .next t)

/-- Marker (R14, R19): with every entry landed and none faulted it writes every entry in issue order, ORs their flags
and leaves none outstanding; an entry that has not landed parks the slot. An entry written also ends its instruction's place in the
coprocessor ring, and the loan of the job whose completion it received. With faulted entries it writes every other one and keeps
those; the slot stops with its program counter at the marked instruction, and one message names the earliest of them. (A vector
instruction whose flags a trap is enabled for is not among these: its late fault follows, R206.) -/
def Obligations.MarkerWritesEntries : Prop :=
  (∀ s : State, s.me.rb ≠ [] → (∀ e ∈ s.me.rb, e.landed = true ∧ e.fault = none ∧ e.seq = none ∧ e.job = none) →
    ∃ t, s.marker = .done t ∧ t = s.setMe (s.me.rb.foldl Slot.writeEntry { s.me with rb := [] }))
  ∧ (∀ s : State, (∃ e ∈ s.me.rb, e.landed = false) → ∃ t, s.marker = .parked t ∧ t.me = (s.park s.cur .marker).me)
  ∧ (∀ s : State, (∀ e ∈ s.me.rb, e.landed = true) →
    (∀ e ∈ s.me.rb, ∀ q, e.fault = none → e.seq = some q → s.me.traps e.flags = false) →
    let good := s.me.rb.filter (fun e => e.fault.isNone)
    let bad := s.me.rb.filter (fun e => e.fault.isSome)
    let y := good.foldl Slot.writeEntry { s.me with rb := bad }
    let z := good.foldl (fun (y : Slot) e => match e.seq with | some q => y.ringDone q e.flags | none => y) y
    let u := good.foldl (fun (t : State) e => match e.job with | some j => t.endLoan j | none => t) (s.setMe z)
    (bad = [] → s.marker = .done u)
    ∧ (∀ e rest code va, bad = e :: rest → e.fault = some (code, va) →
      let m := trapMsg s.cur (u.ctxOfSlot s.cur) code 1 e.ix va 0 0 false
      s.marker = .faulted ((u.updMe (fun t => { t with st := .stopped code, due := none, trapped := some m })).reportFault s.cur
        (u.cycle + 8) m)))

/-- Slot s of a core issues only on cycles that are s modulo 16: the cycle of a slot's next turn is the first one at or
after the given cycle. -/
def Obligations.IssueCycles : Prop :=
  ∀ g t : Nat, t ≤ issueAt g t ∧ issueAt g t < t + 16 ∧ issueAt g t % 16 = g % 16

/-- An exact fault (R370): the slot stops with its program counter at the instruction and no turn due; nothing else of
the slot changes but the trap message it keeps, which is on its way to the cluster's supervisor slot, to be delivered 8
cycles later, unless the slot is the supervisor's own.
What `detail` is for each fault is the model's reading (log 31). -/
def Obligations.ExactFaultStopsSlot : Prop :=
  ∀ (s : State) (code detail : Nat), code < 256 → ∃ m : Msg,
    (s.raise code detail).me = { s.me with st := .stopped code, due := none, trapped := some m }
    ∧ m.hdr.toNat / 2 ^ 60 = 3 ∧ bits m.hdr.toNat 31 16 = code
    ∧ bits m.pay.toNat 23 0 = s.cur % 2 ^ 24 ∧ bits m.pay.toNat 95 64 = s.me.pc.toNat
    ∧ bits m.pay.toNat 63 56 = code ∧ bits m.pay.toNat 191 128 = detail % 2 ^ 64
    ∧ (s.cur % 128 ≠ 127 →
        (s.raise code detail) = (s.setMe (s.raise code detail).me).sendAt (s.cycle + 8)
          { msg := m, dest := .slot (s.cur / 128 * 128 + 127) })
    ∧ (s.cur % 128 = 127 →
        (s.raise code detail).answers = s.answers ++ [(4096, .trap s.cur m)])

/-! Scalar integer instructions. -/

/-- The results of OP 0x10 (R78, R79). -/
def Obligations.IntegerResults : Prop :=
  ∀ (x : Args) (s r : State),
    let n := tyBits x.ty
    let B := r.opVal x.b
    let C := r.opVal x.c
    let b := valT x.ty B
    let c := valT x.ty C
    let k := C.toNat % 64 % n
    let u := B.toNat % 2 ^ n
    ∀ p ∈ ([(.add x, 0, b + c), (.sub x, 1, b - c), (.mul x, 2, b * c), (.mulh x, 3, b * c / 2 ^ n),
        (.mulhn x, 4, b * c / 2 ^ n), (.div x, 5, if c = 0 then -1 else b.tdiv c),
        (.divn x, 6, if c = 0 then 2 ^ n - 1 else b.tdiv c), (.rem x, 7, if c = 0 then b else b.tmod c),
        (.remn x, 8, if c = 0 then b else b.tmod c), (.and x, 9, (B &&& C).toNat), (.or x, 10, (B ||| C).toNat),
        (.xor x, 11, (B ^^^ C).toNat), (.andn x, 12, (B &&& ~~~ C).toNat), (.orn x, 13, (B ||| ~~~ C).toNat),
        (.shl x, 14, b * 2 ^ k), (.shr x, 15, ((u / 2 ^ k : Nat) : Int)), (.sra x, 16, toSigned n B.toNat / 2 ^ k),
        (.rol x, 17, (((u * 2 ^ k + u / 2 ^ (n - k)) % 2 ^ n : Nat) : Int)), (.min x, 18, min b c), (.minn x, 19, min b c),
        (.max x, 20, max b c), (.maxn x, 21, max b c)] : List (Instr × Nat × Int)),
      s.begins 0x10 p.2.1 x false false = some r → exec p.1 s = .next ((r.writeA x (extT x.ty p.2.2)).advance)

/-- clz, ctz and popc write a count of the low n bits of B (R80). -/
def Obligations.BitCounts : Prop :=
  ∀ (x : Args) (s r : State),
    let n := tyBits x.ty
    let u := (r.opVal x.b).toNat % 2 ^ n
    (s.begins 0x11 0 x false false = some r → ∃ m, exec (.clz x) s = .next ((r.writeA x (BitVec.ofNat 64 m)).advance)
      ∧ m ≤ n ∧ (∀ j, n - m ≤ j → j < n → u.testBit j = false) ∧ (m < n → u.testBit (n - 1 - m) = true))
    ∧ (s.begins 0x11 1 x false false = some r → ∃ m, exec (.ctz x) s = .next ((r.writeA x (BitVec.ofNat 64 m)).advance)
      ∧ m ≤ n ∧ (∀ j, j < m → u.testBit j = false) ∧ (m < n → u.testBit m = true))
    ∧ (s.begins 0x11 2 x false false = some r → exec (.popc x) s =
        .next ((r.writeA x (BitVec.ofNat 64 ((List.range n).filter u.testBit).length)).advance))

/-- bfx, bfxn and bfi (R81). -/
def Obligations.BitFields : Prop :=
  ∀ (x : Args) (s r : State),
    let n := tyBits x.ty
    let A := (r.opVal x.a).toNat
    let B := (r.opVal x.b).toNat
    let C := (r.opVal x.c).toNat
    let pos := C % 64
    let w := min (C / 64 % 128) 64
    let f := B % 2 ^ n / 2 ^ pos % 2 ^ w
    let m := (2 ^ w - 1) * 2 ^ pos % 2 ^ n
    (s.begins 0x11 3 x false false = some r →
      exec (.bfx x) s = .next ((r.writeA x (extT x.ty (if w = 0 then 0 else toSigned w f))).advance))
    ∧ (s.begins 0x11 4 x false false = some r → exec (.bfxn x) s = .next ((r.writeA x (extT x.ty (f : Int))).advance))
    ∧ (s.begins 0x11 5 x false false = some r → exec (.bfi x) s =
        .next ((r.writeA x (extT x.ty ((A % 2 ^ n &&& (2 ^ n - 1 - m) ||| (B * 2 ^ pos &&& m) : Nat) : Int))).advance))

/-- cmp writes true when its relation holds between b and c, and false otherwise (R82). -/
def Obligations.Compares : Prop :=
  ∀ (x : Args) (s r : State),
    let b := valT x.ty (r.opVal x.b)
    let c := valT x.ty (r.opVal x.c)
    ∀ p ∈ ([(.cmpEq x, 0, decide (b = c)), (.cmpNe x, 1, decide (b ≠ c)), (.cmpLt x, 2, decide (b < c)),
        (.cmpLe x, 3, decide (b ≤ c)), (.cmpLtn x, 4, decide (b < c)), (.cmpLen x, 5, decide (b ≤ c))] : List (Instr × Nat × Bool)),
      s.begins 0x12 p.2.1 x false false = some r →
      exec p.1 s = .next ((r.writeA x (if p.2.2 then 1 else 0)).advance)

/-- sel writes B when predicate p(M) is true and C otherwise; mov copies B, a predicate as 0 or 1, a lane mask as its
64 bits (R83). -/
def Claims.SelectAndMove : Prop :=
  ∀ (x : Args) (s r : State),
    (s.begins 0x13 0 x false false = some r →
      exec (.sel x) s = .next ((r.writeA x (if r.me.preg x.mask then r.opVal x.b else r.opVal x.c)).advance)
      ∧ (x.mask = 0 → exec (.sel x) s = .next ((r.writeA x (r.opVal x.b)).advance)))
    ∧ (s.begins 0x13 1 x false false = some r →
      (∀ m i, x.b = .reg .s m i → exec (.mov x) s = .next ((r.writeA x (r.me.sreg i.toNat)).advance))
      ∧ (∀ m i, x.b = .reg .k m i → exec (.mov x) s = .next ((r.writeA x (r.me.kreg i.toNat)).advance))
      ∧ (∀ m i, x.b = .reg .p m i → exec (.mov x) s = .next ((r.writeA x (if r.me.preg i.toNat then 1 else 0)).advance))
      ∧ exec (.mov x) s = .next ((r.writeA x (r.opVal x.b)).advance))

/-- li writes the sign-extended 44-bit long immediate, and raises ILLOP with any other kind in B or C; lih writes bits
[63:44] and leaves the others unchanged (R84). -/
def Claims.LoadImmediates : Prop :=
  ∀ (x : Args) (s r : State),
    (∀ b c, x.b = .limm b → x.c = .limm c → s.begins 0x18 0 x false false = some r →
      exec (.li x) s = .next ((r.writeA x ((b ++ c).signExtend 64)).advance))
    ∧ ((∀ b c, ¬(x.b = .limm b ∧ x.c = .limm c)) → exec (.li x) s = .next (s.raise 0x01 ((encWord 0x18 0 x).toNat / 2 ^ 32)))
    ∧ (s.begins 0x18 1 x false false = some r →
      exec (.lih x) s = .next ((r.writeA x ((r.opVal x.c).extractLsb' 0 20 ++ (r.opVal x.a).extractLsb' 0 44)).advance))

/-- Selects, moves and immediates. -/
def Obligations.MoveAndImmediates : Prop :=
  Claims.SelectAndMove ∧ Claims.LoadImmediates

/-! Scalar floating point and predicates. -/

/-- Scalar floating point (R86 to R90): the exact result of the operation, rounded once, with its flags. A flag whose trap
is enabled raises FPX exactly, with the destination and FPFLAGS unchanged and the flags as DETAIL; otherwise the flags
enter FPFLAGS and the destination is written (R87, R202). -/
def Obligations.ScalarFloat : Prop :=
  ∀ (x : Args) (s r : State),
    let t := x.ty
    let b := fpVal t (r.opVal x.b)
    let c := fpVal t (r.opVal x.c)
    let a := fpVal t (r.opVal x.a)
    let rnd := fun (y : Sys2Proof.Num × Nat) => ((roundTo t y.1 x.rm 0).1, (roundTo t y.1 x.rm 0).2 ||| y.2)
    let nat := fun (p : Nat × Nat) => (BitVec.ofNat 64 p.1, p.2)
    let bool := fun (p : Bool × Nat) => ((if p.1 then 1 else 0 : Word), p.2)
    let lo := fun (o : Operand) => (r.opVal o).toNat % 2 ^ tyBits t
    let cvt := roundTo t (decodeElem x.ty2 ((r.opVal x.b).toNat % 2 ^ tyBits x.ty2)) x.rm 0
    (s.begins 0x21 1 x false false = some r →
      exec (.fclass x) s = .next ((r.writeA x (BitVec.ofNat 64 (2 ^ floatClass t (lo x.b)))).advance))
    ∧ ∀ p ∈ ([(.fadd x, 0x20, 0, nat (rnd (numAdd x.rm b c))), (.fsub x, 0x20, 1, nat (rnd (numAdd x.rm b c.neg))),
        (.fmul x, 0x20, 2, nat (rnd (numMul b c))), (.ffma x, 0x20, 3, nat (rnd (numFma x.rm b c a))),
        (.fdiv x, 0x20, 4, nat (rnd (numDiv b c))), (.fsqrt x, 0x20, 5, nat (rnd (numSqrt b))),
        (.fmin x, 0x20, 6, nat (floatMinMax t false (lo x.b) (lo x.c))),
        (.fmax x, 0x20, 7, nat (floatMinMax t true (lo x.b) (lo x.c))),
        (.fcvt x, 0x21, 0, ((if isFloat t then BitVec.ofNat 64 cvt.1 else extT t (cvt.1 : Int)), cvt.2)),
        (.fcmpEq x, 0x22, 0, bool (floatCompare 0 b c)), (.fcmpNe x, 0x22, 1, bool (floatCompare 1 b c)),
        (.fcmpLt x, 0x22, 2, bool (floatCompare 2 b c)), (.fcmpLe x, 0x22, 3, bool (floatCompare 3 b c)),
        (.fcmpUn x, 0x22, 4, bool (floatCompare 4 b c))] : List (Instr × Nat × Nat × Word × Nat)),
      s.begins p.2.1 p.2.2.1 x false false = some r →
      let fl := p.2.2.2.2
      ((r.me.fpctl.toNat % 32 &&& fl ≠ 0) → exec p.1 s = .next (r.raise 0x09 fl))
      ∧ ((r.me.fpctl.toNat % 32 &&& fl = 0) → exec p.1 s =
          .next (((r.updMe (fun y => { y with fpflags := y.fpflags ||| BitVec.ofNat 64 fl })).writeA x p.2.2.2.1).advance))

/-- The predicate instructions write one predicate (R91). -/
def Obligations.PredicateLogic : Prop :=
  ∀ (x : Args) (s r : State) (m : BitVec 7) (i : BitVec 12), x.a = .reg .p m i →
    let b := decide (r.opVal x.b ≠ 0)
    let c := decide (r.opVal x.c ≠ 0)
    ∀ p ∈ ([(.pand x, 0, b && c), (.por x, 1, b || c), (.pxor x, 2, b ^^ c), (.pnot x, 3, !b), (.pmov x, 4, b)] : List (Instr × Nat × Bool)),
      s.begins 0x28 p.2.1 x false false = some r →
      exec p.1 s = .next ((r.updMe (fun y => y.setP i.toNat p.2.2)).advance)

/-! Control. -/

/-- Branches, calls and returns (R92, R93): the thread goes on at the target, a call with pc + 1 in its link register; a
target outside 0 to 2^32 - 1 raises SPACE exactly.
That DETAIL is the target as a 64-bit integer is the model's reading (log 31). -/
def Claims.ControlTransfers : Prop :=
  ∀ (x : Args) (s r : State),
    let rel : Int := r.me.pc.toNat + x.c.immInt
    let reg : Int := (r.opVal x.b).toNat
    let link := BitVec.ofNat 64 (r.me.pc.toNat + 1)
    ∀ p ∈ ([(.br x, 0, rel, r), (.bri x, 1, reg, r), (.call x, 2, rel, r.writeA x link), (.calli x, 3, reg, r.writeA x link),
        (.ret x, 4, reg, r)] : List (Instr × Nat × Int × State)),
      s.begins 0x30 p.2.1 x false false = some r →
      (0 ≤ p.2.2.1 → p.2.2.1 < 2 ^ 32 → exec p.1 s = .next (p.2.2.2.jump (BitVec.ofInt 32 p.2.2.1)))
      ∧ (p.2.2.1 < 0 ∨ 2 ^ 32 ≤ p.2.2.1 → exec p.1 s = .next (r.raise 0x0B (ofSigned 64 p.2.2.1)))

/-- dbr writes its counter less 1, wrapping in 64 bits, and branches while the new counter is not 0; a counter of 0
becomes 2^64 - 1 and branches (R92, R94). -/
def Claims.DecrementAndBranch : Prop :=
  ∀ (x : Args) (s r : State) (m : BitVec 7) (i : BitVec 12), x.a = .reg .s m i → i ≠ 0 →
    s.begins 0x30 5 x false false = some r →
    let n := r.me.sreg i.toNat - 1
    let to_ : Int := r.me.pc.toNat + x.c.immInt
    (n = 0 → exec (.dbr x) s = .next ((r.writeA x 0).advance))
    ∧ (n ≠ 0 → 0 ≤ to_ → to_ < 2 ^ 32 → exec (.dbr x) s = .next ((r.writeA x n).jump (BitVec.ofInt 32 to_)))
    ∧ (n ≠ 0 → (to_ < 0 ∨ 2 ^ 32 ≤ to_) → exec (.dbr x) s = .next (r.raise 0x0B (ofSigned 64 to_)))
    ∧ (r.me.sreg i.toNat = 0 → n = BitVec.allOnes 64)

/-- The control transfers. -/
def Obligations.Control : Prop :=
  Claims.ControlTransfers ∧ Claims.DecrementAndBranch

/-- exit empties the slot at its issue cycle (R18, R95); nop only goes on (R68); trap raises Fault(0x00, imm) (R382);
dbr on s0, which reads 0 and whose writes are dropped, goes on without a branch: the model's choice (log 118; R94 speaks of a
counter of 0 that branches). -/
def Obligations.ExitNopTrap : Prop :=
  ∀ (x : Args) (s r : State),
    (s.begins 0x30 6 x false false = some r → exec (.exit x) s = .next (r.emptySlot r.cur))
    ∧ (s.begins 0x00 0 x false false = some r → exec (.nop x) s = .next r.advance)
    ∧ (s.begins 0x00 1 x false false = some r → exec (.trap x) s = .next (r.raise 0x00 x.c.immInt.toNat))
    ∧ (∀ m, x.a = .reg .s m 0 → s.begins 0x30 5 x false false = some r →
      exec (.dbr x) s = .next ((r.writeA x (BitVec.allOnes 64)).advance) ∧ ∀ y : Slot, y.setS 0 (BitVec.allOnes 64) = y)

/-! System registers and the supervisor's instructions. -/

/-- csrr writes the CSR's value to Reg(A); csrw writes Op(B) to the CSR; csrx reads the old value, writes Op(C) and then
Reg(A) (R382); FPCTL and FPFLAGS keep only their defined bits (R200, R201), CAMIN only SEL, and CAMOUT nothing (R144).
A write of WAITBUD sets the charge that leaves as many units, with 0 stopping a context that has a budget, and one of TSLICE has the
slice of the mill's launch end after as many units: both are the model's reading (log 37). -/
def Claims.CsrAccess : Prop :=
  (∀ (x : Args) (s r : State),
    (s.begins 0x01 0 x false false = some r → exec (.csrr x) s = .next ((r.writeA x (r.csrRead x.b.idx)).advance))
    ∧ (s.begins 0x01 1 x false false = some r → exec (.csrw x) s = .next ((r.csrWrite x.a.idx (r.opVal x.b)).advance))
    ∧ (s.begins 0x01 2 x false false = some r →
      exec (.csrx x) s = .next (((r.csrWrite x.b.idx (r.opVal x.c)).writeA x (r.csrRead x.b.idx)).advance)))
  ∧ (∀ (r : State) (w : Word),
    r.csrWrite 0x30 w = r.updMe (fun y => { y with fpctl := w &&& 0x11F })
    ∧ r.csrWrite 0x31 w = r.updMe (fun y => { y with fpflags := w &&& 0x1F })
    ∧ r.csrWrite 0x200 w = r.updMe (fun y => { y with camSel := w.toNat / 2 ^ 56 % 8 })
    ∧ r.csrWrite 0x201 w = r
    ∧ ((r.mill (r.cur / 512)).launch = none → r.csrWrite 0x50 w = r ∧ r.csrWrite 0x51 w = r)
    ∧ (∀ l, (r.mill (r.cur / 512)).launch = some l →
      let x := r.launchOf l
      let wait := x.record.toNat / 2 ^ 288 % 2 ^ 32
      let t := r.setLaunch l { x with charged := (wait * 1024 : Nat) - (w.toNat * 1024 : Nat), spent := false }
      let e := r.cycle + 1024 * w.toNat
      r.csrWrite 0x50 w = t.checkBudget l
      ∧ r.csrWrite 0x51 w = (r.setLaunch l { x with sliceEnd := some e }).post e 0 2 .sliceExpiry [l]))

/-- What the CSRs of R26, R70, R144, R200, R201 and R365 read: those of the slot and its place, those of its launch's record, the
features that its context has accepted and those of the part, WAITBUD and TSLICE of the mill's launch, 0 without one, and the cam
tables. That whole ns of SKYTIME round down is the model's choice (log 138). -/
def Claims.CsrValues : Prop :=
  ∀ r : State,
    let l := r.launchOf r.me.launch
    let m := r.mill (r.cur / 512)
    r.csrRead 5 = BitVec.ofNat 64 r.part.pkgix ∧ r.csrRead 8 = BitVec.ofNat 64 r.me.task ∧ r.csrRead 9 = BitVec.ofNat 64 m.crewIx
    ∧ r.csrRead 0xA = BitVec.ofNat 64 (l.record.toNat / 2 ^ 192 % 2 ^ 5)
    ∧ r.csrRead 0x10 = BitVec.ofNat 64 (l.record.toNat / 2 ^ 128 % 2 ^ 64) ∧ r.csrRead 0x11 = BitVec.ofNat 64 l.id
    ∧ r.csrRead 0x21 = BitVec.ofNat 64 ((if r.skyUnsync then 2 ^ 63 else 0) + r.skyNow % 2 ^ 63)
    ∧ r.csrRead 0x60 = BitVec.ofNat 64 (l.record.toNat / 2 ^ 320 % 2 ^ 57)
    ∧ (∀ n, n < 4 → r.csrRead (0x100 + n) = BitVec.ofNat 64 ((r.context l.ctx).record.toNat / 2 ^ (256 + 64 * n) % 2 ^ 64))
    ∧ r.csrRead 0x109 = 0 ∧ r.csrRead 0x10A = 0 ∧ r.csrRead 0x10B = 0
    ∧ (m.launch = none → r.csrRead 0x50 = 0 ∧ r.csrRead 0x51 = 0)
    ∧ (∀ k, m.launch = some k →
      let x := r.launchOf k
      r.csrRead 0x50 = BitVec.ofNat 64 (((x.record.toNat / 2 ^ 288 % 2 ^ 32 * 1024 : Nat) - x.charged).toNat / 1024)
      ∧ r.csrRead 0x51 = (match x.sliceEnd with | some e => BitVec.ofNat 64 ((e - r.cycle) / 1024) | none => 0))
    ∧ r.csrRead 0x200 = BitVec.ofNat 64 ((if m.camPend then 2 ^ 63 else 0) + r.me.camSel * 2 ^ 56 + camRow m.camInStg r.me.camSel * 2 ^ 24
        + camRow m.camInAct r.me.camSel)
    ∧ r.csrRead 0x201 = BitVec.ofNat 64 (m.camOutStg.toNat * 2 ^ 32 + m.camOutAct.toNat) ∧
    r.csrRead 0 = BitVec.ofNat 64 (r.cur % 16) ∧ r.csrRead 1 = BitVec.ofNat 64 (r.cur / 16 % 8)
    ∧ r.csrRead 2 = BitVec.ofNat 64 (r.cur / 128 % 4) ∧ r.csrRead 3 = BitVec.ofNat 64 (r.cur / 512 % 64)
    ∧ r.csrRead 4 = BitVec.ofNat 64 (r.cur / 32768) ∧ r.csrRead 0x18 = (if r.cur / 16 % 8 < 4 then 1 else 0)
    ∧ r.csrRead 0x20 = BitVec.ofNat 64 r.cycle ∧ r.csrRead 0x30 = r.me.fpctl ∧ r.csrRead 0x31 = r.me.fpflags
    ∧ r.csrRead 0x40 = r.me.copseq.setWidth 64 ∧ (r.me.late = none → r.csrRead 0x41 = 0)
    ∧ (∀ c q, r.me.late = some (c, q) → r.csrRead 0x41 = BitVec.ofNat 64 (2 ^ 63 + c * 2 ^ 32 + q))
    ∧ r.csrRead 0x108 = 0x3F

/-- The control registers. -/
def Obligations.Csrs : Prop :=
  Claims.CsrAccess ∧ Claims.CsrValues

/-- slotr, slotw, slotgo and slotstop (R383, R384): on a target of the issuer's cluster, and, but for slotr, not the
issuer itself, they read an item, write an item of a stopped slot, let a stopped slot go on, and stop a slot; a target
of another cluster raises SPACE; a selector that names no item, a write of one that only reads or of a slot that has not stopped, and
a mode above 2 raise ILLOP. -/
def Obligations.SupervisorSlots : Prop :=
  ∀ (x : Args) (s r : State),
    let g := (r.opVal x.b).toNat
    let y := r.slot g
    let item := r.opVal x.c
    let i := item.toNat
    let readable := i < 0x57 ∨ (0x60 ≤ i ∧ i < 0x70) ∨ (0x80 ≤ i ∧ i < 0xC0) ∨ (0x1000 ≤ i ∧ i < 0x1800)
    let writable := i < 0x51 ∨ i = 0x52 ∨ i = 0x53 ∨ (0x1000 ≤ i ∧ i < 0x1800)
    let illop := fun (fn : Nat) => r.raise 0x01 ((encWord 0x02 fn x).toNat / 2 ^ 32)
    (∀ p ∈ ([(.slotr x, 0), (.slotw x, 1), (.slotgo x, 2), (.slotstop x, 3)] : List (Instr × Nat)),
      s.begins 0x02 p.2 x false false = some r → g / 128 ≠ r.cur / 128 → exec p.1 s = .next (r.raise 0x0B g))
    ∧ (g / 128 = r.cur / 128 →
      (∀ v, s.begins 0x02 0 x false false = some r → y.select item.toNat = some v →
        exec (.slotr x) s = .next ((r.writeA x
          (if y.st.code = 0 then 0 else if y.st.code = 5 then (if item = 0x51 then 5 else 0) else v)).advance))
      ∧ (g = r.cur → ∀ p ∈ ([(.slotw x, 1), (.slotgo x, 2), (.slotstop x, 3)] : List (Instr × Nat)),
        s.begins 0x02 p.2 x false false = some r → exec p.1 s = .next (illop p.2))
      ∧ (s.begins 0x02 0 x false false = some r → ¬readable → exec (.slotr x) s = .next (illop 0))
      ∧ (readable → (y.select i).isSome = true) ∧ (writable → (y.assign i (r.opVal x.a)).isSome = true)
      ∧ (g ≠ r.cur →
        (s.begins 0x02 1 x false false = some r → (y.st.code ≠ 3 ∧ y.st.code ≠ 4) ∨ ¬writable → exec (.slotw x) s = .next (illop 1))
        ∧ (s.begins 0x02 2 x false false = some r → 2 < i → exec (.slotgo x) s = .next (illop 2))
        ∧ (∀ z, s.begins 0x02 1 x false false = some r → y.st.code = 3 ∨ y.st.code = 4 →
          y.assign item.toNat (r.opVal x.a) = some z → exec (.slotw x) s = .next ((r.setSlot g z).advance))
        ∧ (s.begins 0x02 2 x false false = some r → item.toNat ≤ 2 →
          exec (.slotgo x) s = .next (((if y.st.code = 3 ∨ y.st.code = 4 then r.resumeSlot g item.toNat else r).writeA x
            (BitVec.ofNat 64 y.st.code)).advance))
        ∧ (s.begins 0x02 3 x false false = some r →
          exec (.slotstop x) s = .next (((if y.st.code = 1 ∨ y.st.code = 2 then r.setSlot g { y with st := .halted, due := none }
            else r).writeA x (BitVec.ofNat 64 y.st.code)).advance))))

/-- camw stages both tables where each is a Latin square and s(B+3)[63:32] is 0, and raises CAMBAD otherwise (R143,
R171); camsw sets PEND, and the switch is due at the first round boundary after its cycle; while one waits it changes
nothing further (R159, R172). That DETAIL of CAMBAD is 0 is the model's reading (log 31). -/
def Claims.CamTables : Prop :=
  (∀ (x : Args) (s r : State), s.begins 0x04 0 x false false = some r →
    let v := (r.grp x.b 0).toNat + (r.grp x.b 1).toNat * 2 ^ 64 + (r.grp x.b 2).toNat * 2 ^ 128
    let o := (r.grp x.b 3).toNat
    let ok := (∀ i ∈ List.range 8, ∀ e ∈ List.range 8,
          (∃ j ∈ List.range 8, v / 2 ^ (24 * i + 3 * j) % 8 = e) ∧ (∃ j ∈ List.range 8, v / 2 ^ (24 * j + 3 * i) % 8 = e))
        ∧ (∀ i ∈ List.range 4, ∀ e ∈ List.range 4,
          (∃ j ∈ List.range 4, o / 2 ^ (2 * (4 * i + j)) % 4 = e) ∧ (∃ j ∈ List.range 4, o / 2 ^ (2 * (4 * j + i)) % 4 = e))
        ∧ o < 2 ^ 32
    (ok → exec (.camw x) s = .next ((r.updMill (r.cur / 512) (fun m =>
      { m with camInStg := BitVec.ofNat 192 v, camOutStg := BitVec.ofNat 32 o })).advance))
    ∧ (¬ok → exec (.camw x) s = .next (r.raise 0x0D 0)))
  ∧ (∀ (x : Args) (s r : State), s.begins 0x04 1 x false false = some r →
    ((r.mill (r.cur / 512)).camPend = true → exec (.camsw x) s = .next r.advance)
    ∧ ((r.mill (r.cur / 512)).camPend = false → exec (.camsw x) s = .next
        (((r.updMill (r.cur / 512) (fun m => { m with camPend := true })).post (r.cycle / 32 * 32 + 32) 0 0 .camSwitch
          [r.cur / 512]).advance)))

/-- tlbi drops every matching entry from the TLBs and walk caches of its scope (2 cluster, 5 die, 6 package), and its
completion, a kind-2 message with tag 0xFFF0, waits from the next cycle on for the accesses translated through an entry that it dropped (R133).
Which accesses those are (`openGlobal`) is the model's reading (log 115). -/
def Claims.TlbInvalidate : Prop :=
  ∀ (x : Args) (s r : State), s.begins 0x03 0 x false false = some r →
    let who := r.grp x.b 0
    let ctx := if who.getLsbD 63 then none else some (who.toNat % 2 ^ 8)
    let scope := x.a.immInt.toNat
    let hit := tlbiHits ctx (r.grp x.b 1).toNat (r.grp x.b 2).toNat
    let inC := fun (c : Nat) => if scope = 2 then decide (c = r.cur / 128) else if scope = 5 then decide (c / 256 = r.cur / 32768) else true
    let inD := fun (d : Nat) => decide (scope = 6) || (decide (scope = 5) && decide (d = r.cur / 32768))
    let gone := r.clusters.flatMap (fun kc => if inC kc.1 then kc.2.tlb.filter hit else [])
      ++ r.dies.flatMap (fun kd => if inD kd.1 then kd.2.walkers.flatMap (fun kw => kw.2.cache.filter hit) else [])
    let t := { r with
      clusters := r.clusters.foldl (fun (t : Tab Cluster) (kc : Nat × Cluster) => if inC kc.1 then tput {} t kc.1 { kc.2 with tlb := kc.2.tlb.filter (fun e => !hit e) } else t) r.clusters
      dies := r.dies.foldl (fun (t : Tab Die) (kd : Nat × Die) => if inD kd.1 then
          tput {} t kd.1 { kd.2 with walkers := kd.2.walkers.map (fun (kw : Nat × Walker) =>
            (kw.1, { kw.2 with cache := kw.2.cache.filter (fun e => !hit e) })) }
        else t) r.dies }
    exec (.tlbi x) s = .next ((t.post (r.cycle + 1) 3 750 .tlbiComplete (r.cur :: r.openGlobal scope gone hit)).advance)

/-- The cam tables and the TLBs. -/
def Obligations.TablesOfHardware : Prop :=
  Claims.CamTables ∧ Claims.TlbInvalidate

/-! Vector instructions. -/

/-- Every vector instruction enters the coprocessor ring, computes from the state in which it issued what it writes and
the flags it raises, and goes on (R204, R206); what each computes is `elementwise`, `reduceTo` and the like on the element
functions of R207 to R227. -/
def Obligations.VectorResults : Prop :=
  ∀ (x : Args) (s r : State),
    let el := fun f => elementwise x f
    ∀ p ∈ ([(.vadd x, 0x40, 0, el (vArith 0 x)), (.vsub x, 0x40, 1, el (vArith 1 x)), (.vmul x, 0x40, 2, el (vArith 2 x)),
        (.vfma x, 0x40, 3, el (vArith 3 x)), (.vfms x, 0x40, 4, el (vArith 4 x)), (.vmin x, 0x40, 5, el (vMinMax false x)),
        (.vmax x, 0x40, 6, el (vMinMax true x)), (.vabs x, 0x40, 7, el (vSign false x)), (.vneg x, 0x40, 8, el (vSign true x)),
        (.vand x, 0x41, 0, el (vLogic 0 x)), (.vor x, 0x41, 1, el (vLogic 1 x)), (.vxor x, 0x41, 2, el (vLogic 2 x)),
        (.vshl x, 0x41, 3, el (vLogic 3 x)), (.vshr x, 0x41, 4, el (vLogic 4 x)), (.vsra x, 0x41, 5, el (vLogic 5 x)),
        (.vcmpEq x, 0x42, 0, vCompare 0 x), (.vcmpNe x, 0x42, 1, vCompare 1 x), (.vcmpLt x, 0x42, 2, vCompare 2 x),
        (.vcmpLe x, 0x42, 3, vCompare 3 x), (.vcmpLtn x, 0x42, 4, vCompare 4 x), (.vcmpLen x, 0x42, 5, vCompare 5 x),
        (.vcmpUn x, 0x42, 6, vCompare 6 x), (.vsel x, 0x43, 0, vSelect x), (.vperm x, 0x43, 1, vPermute x),
        (.vbcast x, 0x43, 2, vBroadcast x), (.vslide x, 0x43, 3, vSlide x), (.vmovs x, 0x43, 4, vMoveOut x),
        (.vins x, 0x43, 5, vInsert x), (.vexp2 x, 0x44, 0, el (vFunc numExp2 x)), (.vlog2 x, 0x44, 1, el (vFunc numLog2 x)),
        (.vrcp x, 0x44, 2, el (vFunc numRcp x)), (.vrsq x, 0x44, 3, el (vFunc numRsq x)),
        (.vredXsum x, 0x45, 0, reduceTo redXsum x), (.vredMin x, 0x45, 1, reduceTo (redMinMax false) x),
        (.vredMax x, 0x45, 2, reduceTo (redMinMax true) x), (.vredAdd x, 0x45, 3, reduceTo redAdd x), (.vdot x, 0x45, 8, vDot x),
        (.kand x, 0x48, 0, maskOp (fun b c => b &&& c) x), (.kor x, 0x48, 1, maskOp (fun b c => b ||| c) x),
        (.knot x, 0x48, 2, maskOp (fun b _ => ~~~ b) x), (.kpop x, 0x48, 3, maskCount x), (.vcvt x, 0x50, 0, vConvert x),
        (.vpack x, 0x50, 1, vPack x), (.vunpack x, 0x50, 2, vUnpack x), (.rmix x, 0x52, 0, mixScalar x),
        (.vrmix x, 0x52, 1, mixVector x)] : List (Instr × Nat × Nat × (State → (Slot → Slot) × Nat))),
      s.begins p.2.1 p.2.2.1 x false false = some r →
      exec p.1 s = .next (vectorBody p.2.1 p.2.2.1 p.2.2.2 r)

/-- What the issue of a vector instruction does (R202, R206, R372): COPSEQ goes up by one and the ring holds the
instruction at its head, marked done with its flags; the flags enter FPFLAGS; where they meet an enabled trap an FPX late
fault is due at t + 24; nothing but the slot, the agenda and what the write changes is touched. -/
def Obligations.VectorIssue : Prop :=
  ∀ (op fn : Nat) (f : State → (Slot → Slot) × Nat) (r : State),
    let q := r.me.copseq.toNat
    let y := { r.me with
      copseq := r.me.copseq + 1, ring := ({ seq := q, ix := r.me.pc.toNat, op := op, fn := fn } :: r.me.ring).take 32 }
    let w := f (r.setMe y)
    let t := vectorBody op fn f r
    (w.1 y).ring = y.ring →
    t.me = { w.1 y with
        fpflags := (w.1 y).fpflags ||| BitVec.ofNat 64 w.2
        ring := y.ring.map (fun e => if e.seq == q then { e with done := true, flags := e.flags ||| w.2 } else e)
        lateDue := r.cycle + 24, pc := (w.1 y).pc + 1, st := .running, due := some (issueAt r.cur (r.cycle + 1)) }
    ∧ t = { r with slots := t.slots, agenda := t.agenda }
    ∧ (∀ g, g ≠ r.cur → t.slot g = r.slot g)
    ∧ ((w.1 y).fpctl.toNat % 32 &&& w.2 ≠ 0 →
        ⟨r.cycle + 24, 8, r.cur, .event .lateFault [r.cur, 0x09, q, w.2, (w.1 y).thread, t.ctxOfSlot r.cur]⟩ ∈ t.agenda)

/-- Masked elements (R203, R204): an active element takes its result, reduced to the element's width; an inactive one
keeps its value when Z is 0 and is 0 when Z is 1; the flags are those of the active elements. Element e of width n is
active when bit (e n div 32) of the mask is 1. -/
def Obligations.MaskedElements : Prop :=
  ∀ (n : Nat) (k : Word) (z : Bool) (old : VReg) (f : Nat → Nat × Nat), n ∈ [8, 16, 32, 64] →
    (∀ e, e < 2048 / n → vget n e (mapElems n k z old f).1 =
      if k.getLsbD (e * n / 32) then (f e).1 % 2 ^ n else if z then 0 else vget n e old)
    ∧ (∀ b, (mapElems n k z old f).2.testBit b =
      (List.range (2048 / n)).any (fun e => k.getLsbD (e * n / 32) && (f e).2.testBit b))

/-- Integer elements (R207 to R209): sums, differences and products wrap at the element's width, logic and shifts act on its bits,
and a minimum or maximum is one of its operands, by the type's order. -/
def Obligations.IntegerElements : Prop :=
  ∀ (x : Args) (e a b c : Nat), isFloat x.ty = false → x.ty ∈ [1, 2, 3, 4, 5, 6, 7, 8] →
    let n := tyBits x.ty
    b < 2 ^ n → c < 2 ^ n →
    (vArith 0 x e b c a) = ((b + c) % 2 ^ n, 0)
    ∧ (vArith 1 x e b c a) = ((b + 2 ^ n - c) % 2 ^ n, 0)
    ∧ (vArith 2 x e b c a) = (b * c % 2 ^ n, 0)
    ∧ (vLogic 0 x e b c a) = (b &&& c, 0) ∧ (vLogic 1 x e b c a) = (b ||| c, 0) ∧ (vLogic 2 x e b c a) = (b ^^^ c, 0)
    ∧ (vLogic 3 x e b c a) = (b * 2 ^ (c % 64 % n) % 2 ^ n, 0)
    ∧ (vLogic 4 x e b c a) = (b / 2 ^ (c % 64 % n), 0)
    ∧ (vLogic 5 x e b c a) = (ofSigned n (toSigned n b / 2 ^ (c % 64 % n)), 0)
    ∧ (vMinMax false x e b c a).1 = (if elemInt x.ty b ≤ elemInt x.ty c then b else c)
    ∧ (vMinMax true x e b c a).1 = (if elemInt x.ty b ≤ elemInt x.ty c then c else b)

/-! Global accesses. -/

/-- Global loads, stores, prefetches, cleans and full/empty forms whose addresses lie in the global space and are aligned
leave as the access of R125 to R130, R304 and R306, a load with the entry that will write its register. -/
def Claims.GlobalAccesses : Prop :=
  ∀ (x : Args) (s r : State),
    let n := tyBits x.ty / 8
    let va : Int := (r.opVal x.b).toNat + (r.opVal x.c).toInt
    let o := va.toNat
    let reg : List RegW := [⟨.s, x.a.idx, 0, BitVec.allOnes 2048⟩]
    let vec := fun (m : VReg) => ([⟨.v, x.a.idx, 0, m⟩] : List RegW)
    let fe := fun (k : AccKind) => ({ kind := k, addr := o, elems := [⟨o, 8, 0⟩], data := (r.opVal x.a).setWidth 4096, ty := 8 } : Access)
    (s.begins 0x60 0 x true false = some r → fits (2 ^ 57) va n n → exec (.ldg x) s = .next (r.issueLoad
        { kind := .load, addr := o, elems := [⟨o, n, 0⟩], bud := x.bud.toNat, d := x.d, ty := x.ty } reg 1 x.ty))
    ∧ (s.begins 0x60 1 x false false = some r → fits (2 ^ 57) va n n → exec (.stg x) s = .next (r.issueStore
        { kind := .store, addr := o, elems := [⟨o, n, 0⟩], data := (r.opVal x.a).setWidth 4096, ty := x.ty }))
    ∧ (s.begins 0x61 0 x true false = some r → fits (2 ^ 57) va 256 n → exec (.vldg x) s = .next (r.issueLoad
        (hinted x (vecAccess .load .glob x r o)) (vec (vecMask (tyBits x.ty) (r.maskM x) x.z))
        (hinted x (vecAccess .load .glob x r o)).lines.length 0))
    ∧ (s.begins 0x61 1 x false false = some r → fits (2 ^ 57) va 256 n →
        exec (.vstg x) s = .next (r.issueStore (vecAccess .store .glob x r o)))
    ∧ (s.begins 0x62 0 x false false = some r →
        (0 ≤ va → va < 2 ^ 57 → exec (.pfg x) s = .next (r.issueStore
          { kind := .prefetch x.a.immInt.toNat, addr := o, span := 1, bud := x.bud.toNat, d := x.d, ty := x.ty }))
        ∧ (va < 0 ∨ 2 ^ 57 ≤ va → exec (.pfg x) s = .next r.advance))
    ∧ (s.begins 0x62 1 x false false = some r → fits (2 ^ 57) va 1 1 → exec (.clg x) s = .next (r.issueStore
        { kind := .clean x.a.immInt.toNat, addr := o, span := 1 }))
    ∧ (s.begins 0x72 1 x false false = some r → fits (2 ^ 57) va 8 8 → exec (.emptyG x) s = .next (r.issueStore (fe .empty)))
    ∧ (s.begins 0x72 2 x true false = some r → fits (2 ^ 57) va 8 8 → exec (.peekG x) s = .next (r.issueLoad (fe .peek) reg 1 8))
    ∧ (s.begins 0x72 0 x false false = some r → fits (2 ^ 57) va 8 8 → r.bindsOfWord (r.launchOfSlot r.cur) o = [] →
        exec (.fillG x) s = .next (r.issueStore (fe .fill)).useBinds)

/-- A global full/empty fill of a bound word is one access that carries the release of its entries (R309), and recv.fe.g takes an
entry that acquires the ranges bound to its word (R304, R306, R310). -/
def Claims.BoundFullEmpty : Prop :=
  ∀ (x : Args) (s r : State),
    let va : Int := (r.opVal x.b).toNat + (r.opVal x.c).toInt
    let es := r.bindsOfWord (r.launchOfSlot r.cur) va.toNat
    let a := ({ kind := .fill, addr := va.toNat, elems := [⟨va.toNat, 8, 0⟩], data := (r.opVal x.a).setWidth 4096, ty := 8,
                uid := r.uid, slot := r.cur, ix := r.me.pc.toNat } : Access)
    let b := ({ kind := .take, addr := va.toNat, elems := [⟨va.toNat, 8, 0⟩], data := (r.opVal x.a).setWidth 4096, ty := 8,
                uid := r.uid, slot := r.cur } : Access)
    let feEntry := fun (b : Access) => ({ uid := r.uid, form := .feG, writes := regS x, ext := 8, acc := some b,
                                          acq := (rangesOf es).1, acqWide := (rangesOf es).2 } : Entry)
    fits (2 ^ 57) va 8 8 →
    (s.begins 0x72 0 x false false = some r → es ≠ [] → exec (.fillG x) s = .next
      (({ r with uid := r.uid + 1 }.issueAccess a (some ({ r with uid := r.uid + 1 }.releaseJoin es {}))).advance.useBinds))
    ∧ (s.begins 0x91 1 x true false = some r → exec (.recvFeG x) s = .next
      ((({ r with uid := r.uid + 1 }.takeEntry (feEntry b)).issueAccess b).advance.useBinds))

/-- Gathers and scatters whose active lanes all lie in the global space, aligned to 4 (R127).
The lines of masked-off elements are the model's reading (log 22). -/
def Claims.GathersAndScatters : Prop :=
  ∀ (x : Args) (s r : State),
    let l := r.laneAddrs x
    let es := laneElems l
    let first := (es.head?.map (·.addr)).getD 0
    (∀ p ∈ l, 0 ≤ p.2 ∧ p.2 < 2 ^ 57 ∧ p.2 % 4 = 0) →
    (s.begins 0x61 2 x true false = some r →
      let a := ({ kind := .load, addr := first, elems := es, bud := x.bud.toNat, d := x.d, ty := x.ty } : Access)
      let t := r.issueLoad a [⟨.v, x.a.idx, 0, vecMask 32 (r.maskM x) x.z⟩] (max 1 a.lines.length) 0
      exec (.vgthg x) s = .next (if es = [] then t.landAt t.cur r.uid t.cycle else t))
    ∧ (s.begins 0x61 3 x false false = some r → exec (.vsctg x) s = .next (r.issueStore
        { kind := .store, addr := first, elems := es, data := (r.me.vreg x.a.idx).setWidth 4096, ty := x.ty }))

/-- The global accesses. -/
def Obligations.GlobalPath : Prop :=
  Claims.GlobalAccesses ∧ Claims.BoundFullEmpty ∧ Claims.GathersAndScatters

/-- The twelve global atomics (R392): one access at Reg(B), whose entry writes Reg(A). -/
def Claims.GlobalAtomics : Prop :=
  ∀ (x : Args) (s r : State) (p : Instr × Nat),
    p ∈ ([(.amogAdd x, 0), (.amogAnd x, 1), (.amogOr x, 2), (.amogXor x, 3), (.amogMin x, 4), (.amogMax x, 5),
      (.amogMinn x, 6), (.amogMaxn x, 7), (.amogSwap x, 8), (.amogCas x, 9), (.amogXadd32 x, 10), (.amogXadd64 x, 11)] : List (Instr × Nat)) →
    s.begins 0x80 p.2 x true false = some r →
    let o := (r.opVal x.b).toNat
    fits (2 ^ 57) o (atomicSize p.2 x.ty) (atomicAlign p.2 x.ty) →
    exec p.1 s = .next (r.issueLoad (atomicAccess .glob p.2 x r o) (regS x) 1 (atomicExt p.2 x.ty))

/-- What an atomic does to the n-bit value at its address (R169, R392): the new value by form, and the old one for the
register. -/
def Obligations.AtomicValues : Prop :=
  ∀ (a : Access) (old : Nat), a.ty ∈ [3, 4, 7, 8] → old < 2 ^ tyBits a.ty →
    let n := tyBits a.ty
    let c := bits a.data.toNat 63 0 % 2 ^ n
    let i := fun (v : Nat) => valT a.ty (BitVec.ofNat 64 v)
    ∀ p ∈ ([(0, (old + c) % 2 ^ n), (1, old &&& c), (2, old ||| c), (3, old ^^^ c), (4, if i c < i old then c else old),
        (5, if i c < i old then old else c), (6, if i c < i old then c else old), (7, if i c < i old then old else c),
        (8, c), (9, if old = c then bits a.data.toNat 127 64 % 2 ^ n else old)] : List (Nat × Nat)),
      atomicApply a p.1 old = (p.2, old)

/-- Tile loads and stores (R131, R132): a tile at a global address goes to or from a pond offset aligned to 512. -/
def Claims.TileAccesses : Prop :=
  ∀ (x : Args) (s r : State) (p : Instr × Nat × AccKind),
    p ∈ ([(.tldg x, 0, .tileLoad false), (.tstg x, 1, .tileStore), (.tldgAon x, 2, .tileLoad true), (.tstgAon x, 3, .tileStore)] :
      List (Instr × Nat × AccKind)) →
    s.begins 0x63 p.2.1 x true false = some r →
    let va := (r.grp x.b 0).toNat
    let off := (r.grp x.b 1).toNat
    va < 2 ^ 57 → off < 2 ^ 21 → off % 512 = 0 →
    exec p.1 s = .next (r.issueLoad
      { kind := p.2.2, addr := va, aux := off, bud := x.bud.toNat, d := x.d, ty := x.c.immInt.toNat } (regS x) 1 0)

/-- Global atomics and tile accesses. -/
def Obligations.AtomicsAndTiles : Prop :=
  Claims.GlobalAtomics ∧ Claims.TileAccesses

/-- Exact faults of global accesses (R98, R125, R126): an access whose address lies outside its space raises SPACE, one
that is not aligned raises ALIGN, and an aligned one that runs past the end of its space raises SPACE, naming the address.
That an aligned access that runs past the end raises SPACE too is the model's reading (log 21). -/
def Claims.AccessFaults : Prop :=
  ∀ (x : Args) (s r : State),
    let n := tyBits x.ty / 8
    let va : Int := (r.opVal x.b).toNat + (r.opVal x.c).toInt
    ∀ p ∈ ([(.ldg x, 0x60, 0, true, 57, n, n), (.stg x, 0x60, 1, false, 57, n, n), (.vldg x, 0x61, 0, true, 57, 256, n),
        (.vstg x, 0x61, 1, false, 57, 256, n), (.clg x, 0x62, 1, false, 57, 1, 1), (.fillG x, 0x72, 0, false, 57, 8, 8),
        (.emptyG x, 0x72, 1, false, 57, 8, 8), (.peekG x, 0x72, 2, true, 57, 8, 8), (.recvFeG x, 0x91, 1, true, 57, 8, 8)] :
        List (Instr × Nat × Nat × Bool × Nat × Nat × Nat)),
      s.begins p.2.1 p.2.2.1 x p.2.2.2.1 false = some r →
      let lim : Int := 2 ^ p.2.2.2.2.1
      let size := p.2.2.2.2.2.1
      let al := p.2.2.2.2.2.2
      (va < 0 ∨ lim ≤ va → exec p.1 s = .next (r.raise 0x0B (ofSigned 64 va)))
      ∧ (0 ≤ va → va < lim → va % al ≠ 0 → exec p.1 s = .next (r.raise 0x02 va.toNat))
      ∧ (0 ≤ va → va < lim → va % al = 0 → lim < va + size → exec p.1 s = .next (r.raise 0x0B va.toNat))

/-- Exact faults of pond accesses (R163, R164, R166, R167), checked in this order: SPACE where a byte covered lies outside the pond,
aligned or not; then ALIGN. -/
def Claims.PondFaults : Prop :=
  ∀ (x : Args) (s r : State),
    let n := tyBits x.ty / 8
    let va : Int := (r.opVal x.b).toNat + (r.opVal x.c).toInt
    ∀ p ∈ ([(.ldp x, 0x70, 0, true, n, n), (.stp x, 0x70, 1, false, n, n), (.vldp x, 0x70, 2, true, 256, n),
        (.vstp x, 0x70, 3, false, 256, n), (.fill x, 0x72, 0, false, 8, 8), (.empty x, 0x72, 1, false, 8, 8),
        (.peek x, 0x72, 2, true, 8, 8), (.recvFe x, 0x91, 1, true, 8, 8)] : List (Instr × Nat × Nat × Bool × Nat × Nat)),
      s.begins p.2.1 p.2.2.1 x p.2.2.2.1 false = some r →
      let size := p.2.2.2.2.1
      let al := p.2.2.2.2.2
      (va < 0 ∨ 2 ^ 21 < va + size → exec p.1 s = .next (r.raise 0x0B (ofSigned 64 va)))
      ∧ (0 ≤ va → va + size ≤ 2 ^ 21 → va % al ≠ 0 → exec p.1 s = .next (r.raise 0x02 va.toNat))

/-! Pond and crew accesses. -/

/-- Pond accesses that pass the checks of R163 leave as the access of R164 to R170, R222 to R224 and R314. -/
def Claims.PondAccesses : Prop :=
  ∀ (x : Args) (s r : State),
    let n := tyBits x.ty / 8
    let va : Int := (r.opVal x.b).toNat + (r.opVal x.c).toInt
    let o := va.toNat
    let b := (r.opVal x.b).toNat
    let at_ := fun (a : Access) => ({ a with space := .pond, slot := r.cur } : Access)
    let fe := fun (k : AccKind) (d : Word) (o : Nat) => at_ { kind := k, addr := o, elems := [⟨o, 8, 0⟩], data := d.setWidth 4096, ty := 8 }
    let ld := at_ { kind := .load, addr := o, elems := [⟨o, n, 0⟩], ty := x.ty }
    let st := at_ { kind := .store, addr := o, elems := [⟨o, n, 0⟩], data := (r.opVal x.a).setWidth 4096, ty := x.ty }
    let vld := at_ (vecAccess .load .pond x r o)
    let vst := at_ (vecAccess .store .pond x r o)
    let bld := at_ { kind := .blkLoad, addr := b, span := 512, mask := r.maskM x }
    let bst := at_ { kind := .blkStore, addr := b, span := 512, mask := r.maskM x, data := r.me.vpair x.a.idx }
    let recv := fun (form : EForm) (a : Access) => ((({ r with uid := r.uid + 1 }.takeEntry
      { uid := r.uid, form := form, writes := regS x, acc := some { a with uid := r.uid } }).issueAccess { a with uid := r.uid }).advance)
    (s.begins 0x70 0 x true false = some r → r.pondReady va n n n ld → exec (.ldp x) s = .next (r.issueLoad ld (regS x) 1 x.ty))
    ∧ (s.begins 0x70 1 x false false = some r → r.pondReady va n n n st → exec (.stp x) s = .next (r.issueStore st))
    ∧ (s.begins 0x70 2 x true false = some r → r.pondReady va 256 n 256 vld → exec (.vldp x) s = .next (r.issueLoad vld
        [⟨.v, x.a.idx, 0, vecMask (tyBits x.ty) (r.maskM x) x.z⟩] vld.words.length 0))
    ∧ (s.begins 0x70 3 x false false = some r → r.pondReady va 256 n 256 vst → exec (.vstp x) s = .next (r.issueStore vst))
    ∧ (s.begins 0x71 0 x true false = some r → r.pondReady b 512 512 0 bld → exec (.blkld x) s = .next (r.issueLoad bld
        [⟨.v, x.a.idx, 0, stripeMask (r.maskM x) x.z 0⟩, ⟨.v, x.a.idx + 1, 0, stripeMask (r.maskM x) x.z 1⟩,
          ⟨.s, x.c.idx, 0, BitVec.allOnes 2048⟩] 1 0))
    ∧ (s.begins 0x71 1 x false false = some r → r.pondReady b 512 512 0 bst → exec (.blkst x) s = .next (r.issueStore bst))
    ∧ (s.begins 0x72 0 x false false = some r → r.pondReady va 8 8 8 (fe .fill (r.opVal x.a) o) →
        exec (.fill x) s = .next (r.issueStore (fe .fill (r.opVal x.a) o)))
    ∧ (s.begins 0x72 1 x false false = some r → r.pondReady va 8 8 8 (fe .empty 0 o) →
        exec (.empty x) s = .next (r.issueStore (fe .empty 0 o)))
    ∧ (s.begins 0x72 2 x true false = some r → r.pondReady va 8 8 8 (fe .peek 0 o) →
        exec (.peek x) s = .next (r.issueLoad (fe .peek 0 o) (regS x) 1 8))
    ∧ (s.begins 0x91 1 x true false = some r → r.pondReady va 8 8 8 (fe .take 0 o) →
        exec (.recvFe x) s = .next (recv .fe (fe .take 0 o)))
    ∧ (s.begins 0x91 3 x true false = some r → r.pondReady b 8 8 8 (fe .chk (r.opVal x.c) b) →
        exec (.recvChk x) s = .next (recv (.chk (r.opVal x.c)) (fe .chk (r.opVal x.c) b)))

/-- The twelve pond atomics (R168 to R170). -/
def Claims.PondAtomics : Prop :=
  ∀ (x : Args) (s r : State) (p : Instr × Nat),
    p ∈ ([(.amopAdd x, 0), (.amopAnd x, 1), (.amopOr x, 2), (.amopXor x, 3), (.amopMin x, 4), (.amopMax x, 5),
      (.amopMinn x, 6), (.amopMaxn x, 7), (.amopSwap x, 8), (.amopCas x, 9), (.amopXadd32 x, 10), (.amopXadd64 x, 11)] : List (Instr × Nat)) →
    s.begins 0x81 p.2 x true false = some r →
    let o := (r.opVal x.b).toNat
    let a : Access := { atomicAccess .pond p.2 x r o with span := if p.2 = 11 then 512 else 0, space := .pond, slot := r.cur }
    r.pondReady o (atomicSize p.2 x.ty) (atomicAlign p.2 x.ty) (atomicSize p.2 x.ty) a →
    exec p.1 s = .next (r.issueLoad a (regS x) 1 (atomicExt p.2 x.ty))

/-- Accumulators in the pond (R222 to R224): xacc, both forms of xrnd and of xclr enter the ring and leave. -/
def Claims.PondAccumulators : Prop :=
  ∀ (x : Args) (s r : State),
    let o := (r.opVal x.b).toNat
    let q := (r.enterRing 0x51 0).1
    let at_ := fun (a : Access) => ({ a with space := .pond, slot := r.cur } : Access)
    let add := at_ { kind := .xacc, addr := o, span := 4096, mask := r.maskM x, data := (r.me.vreg x.a.idx).setWidth 4096 }
    let rset := at_ { kind := .xrnd, addr := o, span := 4096, mask := r.maskM x, ty := x.ty, rm := x.rm }
    let rone := at_ { kind := .xrnd, addr := o, span := 512, ty := 9, rm := x.rm }
    let cset := at_ { kind := .xclr, addr := o, span := 4096, mask := r.opVal x.a, ty := x.ty }
    let cone := at_ { kind := .xclr, addr := o, span := 512, ty := 9 }
    let rnd := fun (a : Access) (ws : List RegW) (left : Nat) =>
      let s1 := (r.enterRing 0x51 1).2
      let a := { a with uid := s1.uid, seq := some q }
      (({ s1 with uid := s1.uid + 1 }.takeEntry { uid := s1.uid, writes := ws, left := left, acc := some a, seq := some q }).issueAccess a).advance
    (s.begins 0x51 0 x false false = some r → r.pondReady o 4096 512 4096 add →
      exec (.xacc x) s = .next ((r.enterRing 0x51 0).2.issueStore { add with seq := some q }))
    ∧ (s.begins 0x51 1 x true false = some r → x.ty ≠ 9 → r.pondReady o 4096 512 4096 rset →
      exec (.xrnd x) s = .next (rnd rset [⟨.v, x.a.idx, 0, vecMask (tyBits x.ty) (r.maskM x) x.z⟩] 8))
    ∧ (s.begins 0x51 1 x true false = some r → x.ty = 9 → r.pondReady o 320 512 320 rone →
      exec (.xrnd x) s = .next (rnd rone (regS x) 1))
    ∧ (s.begins 0x51 2 x false false = some r → x.ty ≠ 9 → r.pondReady o 4096 512 4096 cset →
      exec (.xclr x) s = .next ((r.enterRing 0x51 2).2.issueStore { cset with seq := some q }))
    ∧ (s.begins 0x51 2 x false false = some r → x.ty = 9 → r.pondReady o 320 512 320 cone →
      exec (.xclr x) s = .next ((r.enterRing 0x51 2).2.issueStore { cone with seq := some q }))

/-- Operations on pond words and accumulators. -/
def Obligations.PondOperations : Prop :=
  Claims.PondAtomics ∧ Claims.PondAccumulators

/-- A pond access of a bank that has been retired raises BANKRET exactly, and one that finds its core's pond queue full or
a range of the scoreboard in its way parks (R156, R163, R257): shown for ldp and stp.
That the accesses a fence holds take their places in the queue's count is the model's choice (log 119). -/
def Claims.PondAccessWaits : Prop :=
  ∀ (x : Args) (s r : State) (p : Instr × Nat × Bool × Access),
    let n := tyBits x.ty / 8
    let va : Int := (r.opVal x.b).toNat + (r.opVal x.c).toInt
    let o := va.toNat
    p ∈ ([(.ldp x, 0, true, { kind := .load, addr := o, elems := [⟨o, n, 0⟩], ty := x.ty, space := .pond, slot := r.cur }),
      (.stp x, 1, false, { kind := .store, addr := o, elems := [⟨o, n, 0⟩], data := (r.opVal x.a).setWidth 4096, ty := x.ty, space := .pond, slot := r.cur })] :
      List (Instr × Nat × Bool × Access)) →
    s.begins 0x70 p.2.1 x p.2.2.1 false = some r → fits (2 ^ 21) va n n → 0 < n →
    let m := r.mill (r.cur / 512)
    let room := (r.port (portX r.cur)).length + r.heldPond r.cur + p.2.2.2.words.length ≤ 16
    (m.isRetired (o / 64 * 64) = true → exec p.1 s = .next (r.raise 0x05 o))
    ∧ (m.isRetired (o / 64 * 64) = false → ¬room → exec p.1 s = .next (r.park r.cur .pondQueue))
    ∧ (m.isRetired (o / 64 * 64) = false → room → r.parksAccess (r.cur / 512) p.2.2.2 = true → exec p.1 s = .next (r.park r.cur .scoreboard))

/-- The pond accesses, and what stops or holds them. -/
def Obligations.PondPath : Prop :=
  Claims.PondAccesses ∧ Claims.PondAccessWaits

/-- Crew accesses and crew atomics that pass the checks of R319 leave (R319, R320). -/
def Obligations.CrewAccesses : Prop :=
  ∀ (x : Args) (s r : State),
    let n := tyBits x.ty / 8
    let va : Int := (r.opVal x.b).toNat + (r.opVal x.c).toInt
    let o := va.toNat
    let b := (r.opVal x.b).toNat
    let at_ := fun (a : Access) => ({ a with space := .crew, slot := r.cur } : Access)
    let vld := at_ (vecAccess .load .crew x r o)
    (s.begins 0x74 0 x true false = some r → r.crewReady va n n → exec (.ldc x) s =
      .next (r.issueLoad (at_ { kind := .load, addr := o, elems := [⟨o, n, 0⟩], ty := x.ty }) (regS x) 1 x.ty))
    ∧ (s.begins 0x74 1 x false false = some r → r.crewReady va n n → exec (.stc x) s =
      .next (r.issueStore (at_ { kind := .store, addr := o, elems := [⟨o, n, 0⟩], data := (r.opVal x.a).setWidth 4096, ty := x.ty })))
    ∧ (s.begins 0x74 2 x true false = some r → r.crewReady va 256 n → exec (.vldc x) s =
      .next (r.issueLoad vld [⟨.v, x.a.idx, 0, vecMask (tyBits x.ty) (r.maskM x) x.z⟩] vld.words.length 0))
    ∧ (s.begins 0x74 3 x false false = some r → r.crewReady va 256 n → exec (.vstc x) s =
      .next (r.issueStore (at_ (vecAccess .store .crew x r o))))
    ∧ (∀ p ∈ ([(.amocAdd x, 0), (.amocAnd x, 1), (.amocOr x, 2), (.amocXor x, 3), (.amocMin x, 4), (.amocMax x, 5), (.amocMinn x, 6),
          (.amocMaxn x, 7), (.amocSwap x, 8), (.amocCas x, 9), (.amocXadd32 x, 10), (.amocXadd64 x, 11)] : List (Instr × Nat)),
      s.begins 0x82 p.2 x true false = some r → r.crewReady b (atomicSize p.2 x.ty) (atomicAlign p.2 x.ty) →
      exec p.1 s = .next (r.issueLoad { atomicAccess .crew p.2 x r b with
        span := if p.2 = 11 then 512 else 0, space := .crew, slot := r.cur } (regS x) 1 (atomicExt p.2 x.ty)))

/-- Faults of crew accesses in their order (R319): SPACE, also where the access runs past the end of a pond, then
CREWOUT for no member of the crew, then ALIGN: shown for the scalar and vector forms. -/
def Claims.CrewFaults : Prop :=
  ∀ (x : Args) (s r : State),
    let n := tyBits x.ty / 8
    let va : Int := (r.opVal x.b).toNat + (r.opVal x.c).toInt
    let o := va.toNat
    ∀ p ∈ ([(.ldc x, 0, true, n), (.stc x, 1, false, n), (.vldc x, 2, true, 256), (.vstc x, 3, false, 256)] : List (Instr × Nat × Bool × Nat)),
      s.begins 0x74 p.2.1 x p.2.2.1 false = some r →
      let inside := 0 ≤ va ∧ va < 2 ^ 25 ∧ o % 2 ^ 21 + p.2.2.2 ≤ 2 ^ 21
      (¬inside → exec p.1 s = .next (r.raise 0x0B (ofSigned 64 va)))
      ∧ (inside → r.crewN ≤ o / 2 ^ 21 → exec p.1 s = .next (r.raise 0x07 o))
      ∧ (inside → o / 2 ^ 21 < r.crewN → o % n ≠ 0 → exec p.1 s = .next (r.raise 0x02 o))

/-- Exact faults of the atomics (R169, R392, R319): a global one checks SPACE, then ALIGN; a pond one SPACE of its bytes, then ALIGN; a
crew one SPACE, CREWOUT, ALIGN. -/
def Claims.AtomicFaults : Prop :=
  ∀ (x : Args) (s r : State),
    let n := tyBits x.ty / 8
    let o := (r.opVal x.b).toNat
    ∀ p ∈ ([(.amogAdd x, .amopAdd x, .amocAdd x, 0, n, n), (.amogAnd x, .amopAnd x, .amocAnd x, 1, n, n), (.amogOr x, .amopOr x, .amocOr x, 2, n, n),
        (.amogXor x, .amopXor x, .amocXor x, 3, n, n), (.amogMin x, .amopMin x, .amocMin x, 4, n, n), (.amogMax x, .amopMax x, .amocMax x, 5, n, n),
        (.amogMinn x, .amopMinn x, .amocMinn x, 6, n, n), (.amogMaxn x, .amopMaxn x, .amocMaxn x, 7, n, n),
        (.amogSwap x, .amopSwap x, .amocSwap x, 8, n, n), (.amogCas x, .amopCas x, .amocCas x, 9, n, n),
        (.amogXadd32 x, .amopXadd32 x, .amocXadd32 x, 10, 64, 64), (.amogXadd64 x, .amopXadd64 x, .amocXadd64 x, 11, 320, 512)] :
        List (Instr × Instr × Instr × Nat × Nat × Nat)),
      let size := p.2.2.2.2.1
      let al := p.2.2.2.2.2
      let inside := o < 2 ^ 25 ∧ o % 2 ^ 21 + size ≤ 2 ^ 21
      (s.begins 0x80 p.2.2.2.1 x true false = some r →
        (2 ^ 57 ≤ o → exec p.1 s = .next (r.raise 0x0B o)) ∧ (o < 2 ^ 57 → o % al ≠ 0 → exec p.1 s = .next (r.raise 0x02 o)))
      ∧ (s.begins 0x81 p.2.2.2.1 x true false = some r →
        (2 ^ 21 < o + size → exec p.2.1 s = .next (r.raise 0x0B o))
        ∧ (o + size ≤ 2 ^ 21 → o % al ≠ 0 → exec p.2.1 s = .next (r.raise 0x02 o)))
      ∧ (s.begins 0x82 p.2.2.2.1 x true false = some r →
        (¬inside → exec p.2.2.1 s = .next (r.raise 0x0B o))
        ∧ (inside → r.crewN ≤ o / 2 ^ 21 → exec p.2.2.1 s = .next (r.raise 0x07 o))
        ∧ (inside → o / 2 ^ 21 < r.crewN → o % al ≠ 0 → exec p.2.2.1 s = .next (r.raise 0x02 o)))

/-- Exact faults of block operations, accumulators and recv.chk (R165, R222 to R224, R314): SPACE where a byte lies outside the pond,
then ALIGN. -/
def Claims.BlockFaults : Prop :=
  ∀ (x : Args) (s r : State),
    let o := (r.opVal x.b).toNat
    let acc := if x.ty = 9 then 320 else 4096
    ∀ p ∈ ([(.blkld x, 0x71, 0, true, 512, 512), (.blkst x, 0x71, 1, false, 512, 512), (.xacc x, 0x51, 0, false, 4096, 512),
        (.xrnd x, 0x51, 1, true, acc, 512), (.xclr x, 0x51, 2, false, acc, 512), (.recvChk x, 0x91, 3, true, 8, 8)] :
        List (Instr × Nat × Nat × Bool × Nat × Nat)),
      s.begins p.2.1 p.2.2.1 x p.2.2.2.1 false = some r →
      (2 ^ 21 < o + p.2.2.2.2.1 → exec p.1 s = .next (r.raise 0x0B o))
      ∧ (o + p.2.2.2.2.1 ≤ 2 ^ 21 → o % p.2.2.2.2.2 ≠ 0 → exec p.1 s = .next (r.raise 0x02 o))

/-- Exact faults of tile instructions (R98, R131): SPACE of the tile's address, SPACE of the pond offset, ALIGN of the pond offset. -/
def Claims.TileFaults : Prop :=
  ∀ (x : Args) (s r : State) (p : Instr × Nat),
    p ∈ ([(.tldg x, 0), (.tstg x, 1), (.tldgAon x, 2), (.tstgAon x, 3)] : List (Instr × Nat)) →
    s.begins 0x63 p.2 x true false = some r →
    let va := (r.grp x.b 0).toNat
    let off := (r.grp x.b 1).toNat
    (2 ^ 57 ≤ va → exec p.1 s = .next (r.raise 0x0B va))
    ∧ (va < 2 ^ 57 → 2 ^ 21 ≤ off → exec p.1 s = .next (r.raise 0x0B off))
    ∧ (va < 2 ^ 57 → off < 2 ^ 21 → off % 512 ≠ 0 → exec p.1 s = .next (r.raise 0x02 off))

/-- Exact faults of gathers and scatters (R127): the lowest active lane outside the global space raises SPACE; where there is none, the
lowest active lane that is not aligned to 4 raises ALIGN. -/
def Claims.LaneFaults : Prop :=
  ∀ (x : Args) (s r : State) (p : Instr × Nat × Bool), p ∈ ([(.vgthg x, 2, true), (.vsctg x, 3, false)] : List (Instr × Nat × Bool)) →
    s.begins 0x61 p.2.1 x p.2.2 false = some r →
    ∀ before lane after, r.laneAddrs x = before ++ lane :: after →
      ((∀ q ∈ before, 0 ≤ q.2 ∧ q.2 < 2 ^ 57) → (lane.2 < 0 ∨ 2 ^ 57 ≤ lane.2) → exec p.1 s = .next (r.raise 0x0B (ofSigned 64 lane.2)))
      ∧ ((∀ q ∈ r.laneAddrs x, 0 ≤ q.2 ∧ q.2 < 2 ^ 57) → (∀ q ∈ before, q.2 % 4 = 0) → lane.2 % 4 ≠ 0 →
        exec p.1 s = .next (r.raise 0x02 lane.2.toNat))

/-- The exact faults of accesses. -/
def Obligations.SpaceFaults : Prop :=
  Claims.AccessFaults ∧ Claims.PondFaults ∧ Claims.CrewFaults ∧ Claims.AtomicFaults ∧ Claims.BlockFaults ∧ Claims.TileFaults ∧ Claims.LaneFaults

/-! Messages, barriers, launches. -/

/-- bind enters a valid object, range and scope in the first invalid entry of the launch's table, or writes 2 when all
256 are valid; unbind invalidates every entry that equals it and writes their number (R307, R308). Where a page of the
table does not allow the write, both leave a fault record of the marker class and go on: they act when they are issued again.
The use of the table is one of its pages' translations, which are then the latest used, or asked of a walker.
Through which caches the table is read, and that both act once more, are the model's reading (log 27). -/
def Obligations.Bindings : Prop :=
  ∀ (x : Args) (s r : State),
    let obj := (r.grp x.b 0).toNat
    let start := (r.grp x.b 1).toNat
    let len := (r.grp x.b 2).toNat
    let scope := x.c.immInt.toNat
    let l := r.launchOfSlot r.cur
    (if obj.testBit 63 then obj / 2 ^ 40 % 2 ^ 23 = 0 else obj / 2 ^ 57 % 2 ^ 6 = 0) → 2 ≤ scope → scope ≤ 7 →
    start % 64 = 0 → len % 64 = 0 → len ≠ 0 → start + len ≤ 2 ^ 57 →
    (∀ f, r.bindFault l true = some f → ∀ p ∈ ([(.bind x, 0), (.unbind x, 1)] : List (Instr × Nat)), s.begins 0x92 p.2 x false false = some r →
      let a : Access := { kind := .bind p.2, slot := r.cur, uid := r.uid, ix := r.me.pc.toNat, addr := f.2, ctx := r.ctxOfSlot r.cur
                          thread := r.me.thread, data := BitVec.ofNat 4096 (bindBits obj start len scope) }
      let e : Entry := { uid := r.uid, ix := r.me.pc.toNat, isRec := true, landed := true, writes := regS x, fault := some f, acc := some a }
      exec p.1 s = .next (({ r with uid := r.uid + 1 }.updMe (fun y => { y with rb := insertEntry e y.rb })).advance.useBinds))
    ∧ (r.bindFault l true = none → s.begins 0x92 0 x false false = some r →
      (∀ i, i < 256 → (r.bindEntry l i).testBit 255 = false → (∀ j, j < i → (r.bindEntry l j).testBit 255 = true) →
        exec (.bind x) s = .next (((r.setBind l i (bindBits obj start len scope)).writeA x 0).advance.useBinds))
      ∧ ((∀ i, i < 256 → (r.bindEntry l i).testBit 255 = true) → exec (.bind x) s = .next ((r.writeA x 2).advance.useBinds)))
    ∧ (r.bindFault l true = none → s.begins 0x92 1 x false false = some r →
      let hit := (r.binds l).filter (fun p => bObj p.2 == obj && bStart p.2 == start && bLen p.2 == len && bScope p.2 == scope)
      exec (.unbind x) s = .next (((hit.foldl (fun t p => t.setBind l p.1 0) r).writeA x (BitVec.ofNat 64 hit.length)).advance.useBinds))

/-- send and sendl with a sound descriptor and header, a payload within the form's limit and a live slot take an entry for
their status and release the tag's bindings, after which the message leaves (R281, R282, R309, R311).
A release awaits the fences before it (R316, R337); that a send which names no binding awaits none is the model's reading (log 128). -/
def Obligations.Sends : Prop :=
  ∀ (x : Args) (s r : State) (p : Instr × Nat × Nat), p ∈ ([(.send x, 0, 56), (.sendl x, 1, 120)] : List (Instr × Nat × Nat)) →
    s.begins 0x90 p.2.1 x true false = some r →
    let c := (r.grp x.c 0).toNat
    let h := (r.grp x.c 1).toNat
    let where_ := c / 2 ^ 36 % 4
    let kind := h / 2 ^ 32 % 16
    let len := h % 2 ^ 16
    let tag := h / 2 ^ 16 % 2 ^ 16
    let slot := c % 2 ^ 24
    let body := (r.me.vreg x.b.idx).toNat % 2 ^ (8 * len)
    let host := decide (where_ = 1)
    let long := decide (p.2.1 = 1)
    let hdr := if host then mkHdr kind long 1 r.part.pkgix tag (len + 8) else mkHdr kind long 0 r.cur tag len
    let pay := if host then r.cur + body * 2 ^ 64 else body
    let dest := if where_ = 0 then Dest.slot slot else .fabric (c / 2 ^ 24 % 2 ^ 12) slot
    let es := ((r.binds (r.launchOfSlot r.cur)).map (·.2)).filter (fun e => bTag e slot && bits e 15 0 == tag)
    let s1 := { r with uid := r.uid + 1 }.takeEntry { uid := r.uid, form := .status, writes := regS x }
    c / 2 ^ 38 = 0 → h / 2 ^ 36 = 0 → where_ ≠ 3 → kind = 0 ∨ kind = 8 → len + (if host then 8 else 0) ≤ p.2.2 →
    (where_ = 0 → r.liveSlotId slot = true) →
    exec p.1 s = .next (((({ s1 with uid := r.uid + 2 }.setSent (r.uid + 1)
      { msg := { hdr := hdr, pay := BitVec.ofNat 960 pay, uid := r.uid + 1 }, dest := dest, reply := some (r.cur, r.uid),
        by_ := s1.me.thread }).sendRelease es (r.uid + 1)).advance.useBinds))

/-- recv.mb, recv.job and recv.work take their entries, and probe the header of the oldest message that its filter hits,
or all ones; a claim is tried at once (R305, R313, R314, R361). -/
def Obligations.Receives : Prop :=
  ∀ (x : Args) (s r : State),
    let fresh := { r with uid := r.uid + 1 }
    (s.begins 0x91 0 x true false = some r → exec (.recvMb x) s = .next (((fresh.takeEntry
      { uid := r.uid, form := .mb (r.filterC x),
        writes := regS x ++ (match x.b with | .reg .v _ i => [⟨.v, i.toNat, 0, 0⟩] | _ => []), binds := fresh.tagBinds }).claims r.cur).advance.useBinds))
    ∧ (s.begins 0x91 2 x true false = some r → exec (.recvJob x) s = .next (((fresh.takeEntry
      { uid := r.uid, form := .job ((r.opVal x.b).toNat % 2 ^ 21), writes := regS x }).claims r.cur).advance))
    ∧ (s.begins 0x91 8 x true false = some r → exec (.probe x) s = .next (((fresh.takeEntry
      { uid := r.uid, form := .status,
        writes := [⟨.s, x.a.idx, (match r.me.mbox.find? (filterHits (r.filterC x)) with | some m => m.hdr | none => BitVec.allOnes 64).setWidth 2048,
          BitVec.allOnes 2048⟩] }).landAt r.cur r.uid (r.cycle + 4)).advance))
    ∧ (s.begins 0x91 4 x true true = some r →
      let waits := r.me.rb.any (fun e => e.form == .work && !e.landed)
      exec (.recvWork x) s = .next (((if waits then r else fresh.takeEntry { uid := r.uid, form := .work, writes := regS x }).park
        r.cur .recvWork).post r.cycle 3 900 .dispenserHandout [r.cur / 128]))

/-- bar arrives at its barrier, and recv.bar waits for the generation of the thread's latest arrival: it lands 8 cycles
after its issue where there is none or it has completed (R33 to R35, R314, R315).
When an arrival is recorded and that POD is this package are the model's (log 41, 42). -/
def Claims.Barriers : Prop :=
  ∀ (x : Args) (s r : State),
    let level := x.b.immInt.toNat
    let n := x.c.immInt.toNat
    let l := r.launchOfSlot r.cur
    let k := barKey l.id level n (r.unitAt r.cur level)
    let b := r.barrier k
    let b := if b.count == 0 && b.gen == 0 && b.completed == 0 then { b with launch := l.id, level := level, id := n, unit_ := r.unitAt r.cur level } else b
    let t := (r.setBarrier k b)
    let waits := t.me.awaitedByBar
    let arrived := { t with uid := t.uid + 1, arrivals := tput {} t.arrivals t.uid { key := k, waits := waits } }.updMe
      (fun y => { y with gens := tput 0 y.gens k (2 * t.uid + 1) })
    let gen := tget 0 r.me.gens k
    let entered := { r with uid := r.uid + 1 }.takeEntry { uid := r.uid, form := .bar k gen, writes := regS x }
    2 ≤ level → level ≤ 7 → 0 ≤ x.c.immInt → n < barIds level → ((l.counts[barBase level + n]?).getD 0) ≠ 0 →
    (s.begins 0x93 0 x false false = some r → exec (.bar x) s = .next
      (if waits = [] then (arrived.post (if arrived.me.lastPerf = 0 then arrived.cycle else arrived.me.lastPerf + 16) 3 700 .barrierArrival
          [r.cur, t.uid]).advance
        else arrived.advance))
    ∧ (s.begins 0x91 5 x true false = some r → exec (.recvBar x) s = .next
      (if gen = 0 ∨ (gen % 2 = 0 ∧ gen < 2 * b.completed + 2) then
          ((entered.updEntry r.cur r.uid (fun e => { e.orVal 0 (BitVec.ofNat 2048 b.completed) with claimed := true })).landAt r.cur r.uid
            (r.cycle + 8)).advance
        else entered.advance))

/-- Barrier operands that name LANE or CORE, an id beyond the level's or a barrier of count 0 raise ILLOP exactly (R33);
fence holds later accesses until the earlier ones of its scope have been performed, and only goes on (R316).
That a fence holds mld and mst is the model's reading (log 43). -/
def Claims.BarrierFaultsAndFences : Prop :=
  (∀ (x : Args) (s r : State) (p : Instr × Nat × Nat × Bool),
    p ∈ ([(.bar x, 0x93, 0, false), (.recvBar x, 0x91, 5, true)] : List (Instr × Nat × Nat × Bool)) →
    s.begins p.2.1 p.2.2.1 x p.2.2.2 false = some r →
    let level := x.b.immInt.toNat
    let n := x.c.immInt.toNat
    level < 2 ∨ 7 < level ∨ x.c.immInt < 0 ∨ barIds level ≤ n ∨ (((r.launchOfSlot r.cur).counts[barBase level + n]?).getD 0) = 0 →
    exec p.1 s = .next (r.raise 0x01 ((encWord p.2.1 p.2.2.1 x).toNat / 2 ^ 32)))
  ∧ (∀ (x : Args) (s r : State), s.begins 0x93 1 x false false = some r →
    let scope := x.b.immInt.toNat
    let held := (r.me.open_.filter (fun p => !p.old && (p.clean || (match p.space with
      | .pond => true | .crew => decide (4 ≤ scope) | .glob => decide (5 ≤ scope))))).map (·.uid)
    exec (.fence x) s = .next ((r.updMe (fun y => { y with fence := y.fence ++ held.filter (fun u => !y.fence.contains u) })).advance))

/-- Barriers and fences. -/
def Obligations.BarriersAndFences : Prop :=
  Claims.Barriers ∧ Claims.BarrierFaultsAndFences

/-- spawn sends its item to the dispenser of a cluster of a crew member, and raises CREWOUT for no member (R317, R361);
launch sends the record at a global address to a die's dispatcher, and raises SPACE and ALIGN (R318).
That a launch's record travels as a LONG message is the model's reading (log 85). -/
def Obligations.SpawnAndLaunch : Prop :=
  ∀ (x : Args) (s r : State),
    let t := (r.opVal x.c).toNat
    let va := (r.opVal x.b).toNat
    let fresh := fun (n : Nat) => ({ r with uid := r.uid + n } : State)
    (s.begins 0x94 0 x true false = some r →
      (t / 2 ^ 38 = 0 → r.crewN ≤ t / 2 ^ 34 % 16 → exec (.spawn x) s = .next (r.raise 0x07 (t / 2 ^ 34 % 16)))
      ∧ (t / 2 ^ 38 = 0 → t / 2 ^ 34 % 16 < r.crewN →
        let c := r.memberMill (r.cur / 512) (t / 2 ^ 34 % 16) * 4 + t / 2 ^ 32 % 4
        let pay := (List.range 8).foldl (fun p i => p + (r.grp x.b i).toNat * 2 ^ (64 * (i + 1))) (t % 2 ^ 32)
        let s1 := (fresh 1).takeEntry { uid := r.uid, form := .status, writes := regS x }
        exec (.spawn x) s = .next ((({ s1 with uid := r.uid + 2 }.setSent (r.uid + 1)
          { msg := { hdr := mkHdr 1 true 0 r.cur 0 72, pay := BitVec.ofNat 960 pay, uid := r.uid + 1 }, dest := .dispenser c,
            reply := some (r.cur, r.uid), launch := s1.me.launch, task := s1.me.task }).routeMsg (r.uid + 1) r.cur).advance)))
    ∧ (s.begins 0x94 1 x true false = some r →
      (2 ^ 57 ≤ va ∨ 8 ≤ t → exec (.launch x) s = .next (r.raise 0x0B va))
      ∧ (va < 2 ^ 57 → t < 8 → va % 64 ≠ 0 → exec (.launch x) s = .next (r.raise 0x02 va))
      ∧ (va < 2 ^ 57 → t < 8 → va % 64 = 0 →
        let a := ({ kind := .launchRec, slot := r.cur, uid := r.uid, addr := va, span := 64, aux := r.uid + 1 } : Access)
        let s1 := (fresh 2).takeEntry { uid := r.uid, form := .status, writes := regS x, acc := some a }
        exec (.launch x) s = .next (((s1.setSent (r.uid + 1)
          { msg := { hdr := mkHdr 5 true 0 r.cur 0 64, uid := r.uid + 1 }, dest := .dispatcher t (s1.ctxOfSlot r.cur),
            reply := some (r.cur, r.uid), thread := s1.me.thread, by_ := s1.me.thread }).issueAccess a).advance)))

/-! The matrix engine, the copy unit, combine control, the windrose and G. -/

/-- mshape and mzero on an accumulator that no batch holds (R232, R233, R243): the shape and formats of Reg(B), with every
element 0, and an accumulator of zeros of the same shape; on one that is held they raise ACCBUSY. -/
def Obligations.AccumulatorShapes : Prop :=
  ∀ (x : Args) (s r : State),
    let w := (r.opVal x.b).toNat
    let a := x.a.idx
    let m := w % 2 ^ 8
    let n := w / 2 ^ 8 % 2 ^ 8
    let k := w / 2 ^ 16 % 2 ^ 8
    let sc := w.testBit 24
    let t := x.ty
    let free := r.myCore.onLoan a = false ∧ (r.myCore.acc a).busy = false
    let core := r.cur / 16
    (s.begins 0xB0 0 x false false = some r →
      let ok := w / 2 ^ 25 = 0 ∧ 1 ≤ m ∧ m ≤ (if t = 9 then 32 else 64) ∧ 1 ≤ n ∧ n ≤ (if t = 9 then 64 else 128) ∧ 8 ≤ k ∧ k ≤ 64
        ∧ k % 8 = 0 ∧ (t = 17 → k % 32 = 0) ∧ (sc = true → 13 ≤ t ∧ k % 32 = 0)
      (¬ok → exec (.mshape x) s = .next (r.raise 0x01 ((encWord 0xB0 0 x).toNat / 2 ^ 32)))
      ∧ (ok → ¬free → exec (.mshape x) s = .next (r.raise 0x06 a))
      ∧ (ok → free → exec (.mshape x) s = .next (((r.ringNow 0xB0 0).updCore core (fun c => c.setAcc a
          { m := m, n := n, k := k, t := t, t2 := if x.ty2 = 0 then t else x.ty2, scaled := sc && t != 17 })).advance)))
    ∧ (s.begins 0xB0 3 x false false = some r →
      (¬free → exec (.mzero x) s = .next (r.raise 0x06 a))
      ∧ (free → exec (.mzero x) s = .next
          (((r.ringNow 0xB0 3).updCore core (fun c => c.setAcc a { c.acc a with elems := [] })).advance)))

/-- mma stages a step of its accumulator's shape (R236, R237): ILLOP, SPACE and ALIGN of its operands first, then ACCBUSY;
it parks while the core's staging holds 32 steps.
The order of the faults of the two operands is the model's reading (log 45). -/
def Claims.MatrixSteps : Prop :=
  ∀ (x : Args) (s r : State), s.begins 0xB0 1 x false false = some r →
    let a := x.a.idx
    let acc := r.myCore.acc a
    let e : EStep := { slot := r.cur, acc := a, m := acc.m, n := acc.n, k := acc.k, t := acc.t, t2 := acc.t2, scaled := acc.scaled,
                       a := (r.grp x.b 0, r.grp x.b 1), b := (r.grp x.c 0, r.grp x.c 1), av := r.vecOperand x.b, bv := r.vecOperand x.c }
    let fault := rectFault ((encWord 0xB0 1 x).toNat / 2 ^ 32) e.rects
      ((e.av.isSome && hasScales e.t e.scaled) || (e.bv.isSome && hasScales e.t2 e.scaled))
      ((e.av.isSome && decide (512 < e.m * rowSize e.t e.k)) || (e.bv.isSome && decide (512 < e.k * rowSize e.t2 e.n)))
    (∀ f, fault = some f → exec (.mma x) s = .next (r.raise f.1 f.2))
    ∧ (fault = none → acc.busy = true → exec (.mma x) s = .next (r.raise 0x06 a))
    ∧ (fault = none → acc.busy = false → 32 ≤ r.myCore.staging.length → exec (.mma x) s = .next (r.park r.cur .staging))
    ∧ (fault = none → acc.busy = false → r.myCore.staging.length < 32 → exec (.mma x) s = .next
        (((r.enterRing 0xB0 1).2.updCore (r.cur / 16) (fun c => { c with staging := c.staging ++ [{ e with seq := r.me.copseq.toNat }] })).advance))

/-- mld and mst (R243 to R245): ILLOP, SPACE and ALIGN of the rectangle, then ACCBUSY; else the accumulator is held, the
move waits at the cluster's engine, and one entry will take its status.
That a move counts as a pond access of the slot is the model's reading (log 43). -/
def Claims.MatrixMoves : Prop :=
  ∀ (x : Args) (s r : State) (p : Instr × Nat × Bool), p ∈ ([(.mld x, 4, false), (.mst x, 5, true)] : List (Instr × Nat × Bool)) →
    s.begins 0xB0 p.2.1 x true false = some r →
    let a := x.a.idx
    let v : Move := { id := r.uid, store := p.2.2, core := r.cur / 16, slot := r.cur, uid := r.uid, seq := 0, thread := r.me.thread, acc := a,
                      base := r.grp x.b 0, pitch := r.grp x.b 1, issue := r.cycle, waits := r.me.fence, left := [] }
    let rect := v.rect (r.myCore.acc a)
    let fault := rectFault ((encWord 0xB0 p.2.1 x).toNat / 2 ^ 32) [rect] false false
    let free := r.myCore.onLoan a = false ∧ (r.myCore.acc a).busy = false
    (∀ f, fault = some f → exec p.1 s = .next (r.raise f.1 f.2))
    ∧ (fault = none → ¬free → exec p.1 s = .next (r.raise 0x06 a))
    ∧ (fault = none → free →
        let q := r.me.copseq.toNat
        let s1 := ({ r with uid := r.uid + 1 }.enterRing 0xB0 p.2.1).2.updCore (r.cur / 16) (fun k => k.setAcc a { k.acc a with busy := true })
        let s2 := s1.updCluster (r.cur / 128) (fun k => { k with moves := k.moves ++ [{ v with seq := q, left := rect.stripes }] })
        let s3 := s2.takeEntry { uid := r.uid, form := .engine, writes := [⟨.s, x.c.idx, 0, BitVec.allOnes 2048⟩], seq := some q }
        exec p.1 s = .next (((s3.updMe (fun y => { y with open_ := y.open_ ++ [{ uid := r.uid, space := .pond, atomic := false, left := 1 }] })).wakeEngine
          (r.cur / 128)).advance))

/-- Steps and moves of the matrix engine. -/
def Obligations.MatrixInstructions : Prop :=
  Claims.MatrixSteps ∧ Claims.MatrixMoves

/-- mcommit closes a batch of the slot's staged steps and always completes (R238): it writes the job, made of the cluster,
the core and the engine's counter, to Reg(A); the counter goes from 0xFFEF to 0; the accumulators of the batch are on
loan; the batch waits at the engine with the chunks that are on the scoreboard, and is let in where none waits before it.
Which staged steps a batch takes is R238's; that they leave with an exiting thread is the model's (log 107). -/
def Claims.BatchCommit : Prop :=
  ∀ (x : Args) (s r : State), s.begins 0xB0 2 x false false = some r →
    let c := r.cur / 128
    let s1 := { (r.enterRing 0xB0 2).2 with uid := r.uid + 1 }
    let eng := r.engine c
    let job := c % 4 * 2 ^ 19 + r.cur / 16 % 8 * 2 ^ 16 + eng.counter
    let after := ((r.mill (c / 4)).sb.filter (·.chunk)).map (·.owner)
    let mine := fun (e : EStep) => e.slot == r.cur && e.batch == 0
    let steps := (r.myCore.staging.filter mine).map (fun e => { e with batch := r.uid, after := after })
    let accs := (steps.map (·.acc)).eraseDups
    let b : Batch := { id := r.uid, job := job, slot := r.cur, thread := s1.me.thread, launch := s1.me.launch, seq := r.me.copseq.toNat,
                       commit := r.cycle, steps := steps, traps := s1.me.fpctl.toNat % 32 }
    let s2 := s1.updCore (r.cur / 16) (fun k => { k with
      staging := k.staging.map (fun e => if mine e then { e with batch := r.uid } else e)
      loans := if accs.isEmpty then k.loans else k.loans ++ [{ job := r.cur / 512 * 2 ^ 21 + job, slot := r.cur, accs := accs }] })
    let s3 := (s2.updEngine c (fun e => { e with counter := if e.counter = 0xFFEF then 0 else e.counter + 1, batches := e.batches ++ [b] })).writeA
      x (BitVec.ofNat 64 job)
    exec (.mcommit x) s = .next ((if eng.batches.any (fun y => !y.registered) then s3 else s3.letIn c).advance)

/-- The copy commands (R246 to R250): the faults of R248, in order; then, while the unit's queue holds 16 commands or the
scoreboard has no room or an operand range in the way, they park; else the instruction completes: it enters the ring, its
command enters the queue, with a chunk entry on the scoreboard of its own mill where it writes there, every destination
writes its arrival word two cycles later, the unit looks for work, and the slot goes on.
The arrival word at other destinations, a cstore's source range among operand ranges, and when the unit reads a descriptor are the
model's reading (log 47, 48, 49). -/
def Claims.CopyCommands : Prop :=
  ∀ (x : Args) (s r : State) (p : Instr × Nat),
    p ∈ ([(.cfetch x, 0), (.cstore x, 1), (.cpush x, 2), (.cmcast x, 3)] : List (Instr × Nat)) →
    s.begins 0xA0 p.2 x false false = some r →
    let mill := r.cur / 512
    let m := r.mill mill
    let c : Copy := { id := r.uid, kind := p.2, slot := r.cur, thread := r.me.thread, launch := r.me.launch, crew := m.crew, issue := r.cycle,
                      ctx := r.ctxOfSlot r.cur, r := [r.grp x.b 0, r.grp x.b 1, r.grp x.b 2, r.grp x.b 3]
                      word := (encWord 0xA0 p.2 x).toNat / 2 ^ 32 }
    let fault := r.copyFault c ((encWord 0xA0 p.2 x).toNat / 2 ^ 32)
    let mine := (r.copyDests c).contains mill
    let lo := c.off
    let hi := c.off + 512 * c.count
    let room := (r.cluster c.cluster).cu.queue.length < 16 ∧ m.sb.length < 64
      ∧ ((mine = true ∨ p.2 = 1) → ∀ e ∈ m.sb, e.chunk = false → ¬(lo < e.hi ∧ e.lo < hi))
    (∀ f, fault = some f → exec p.1 s = .next (r.raise f.1 f.2))
    ∧ (fault = none → ¬room → exec p.1 s = .next (r.park r.cur .copyRoom))
    ∧ (fault = none → room →
      let s1 := ({ r with uid := r.uid + 1 }.enterRing 0xA0 p.2).2.setCopy r.uid { c with seq := r.me.copseq.toNat }
      let s2 := s1.updCu c.cluster (fun u => { u with queue := u.queue ++ [r.uid] })
      let s3 := if mine = true then
          s2.updMill mill (fun m => { m with sb := m.sb ++ [{ chunk := true, owner := r.uid, lo := lo, hi := hi, arrival := c.arrival }] })
        else s2
      let s4 := (if p.2 = 1 then [mill] else s3.copyDests c).foldl (fun t d => t.post (t.cycle + 2) 1 0 .chunkWrite [d, r.uid]) s3
      exec p.1 s = .next (s4.copyNext c.cluster).advance)

/-- Batches of the matrix engine and commands of the copy unit. -/
def Obligations.BatchesAndCopies : Prop :=
  Claims.BatchCommit ∧ Claims.CopyCommands

/-- What a sound control request leaves behind (R396): its ring entry; a return entry for the status, which remembers
the request; the request, with its operand words; its packet, which leaves for the control's stop 6 cycles later; and the
slot's next turn. -/
def Claims.controlSent (r : State) (fn kind : Nat) (x : Args) (w : List Word) (gates : VReg) (stop : Nat) : State :=
  let s1 := (r.enterRing 0xC1 fn).2
  let u := s1.uid
  let s2 := { s1 with uid := u + 2 }.takeEntry { uid := u, form := .engine, writes := regS x, seq := some r.me.copseq.toNat,
                                                 acc := some { kind := .control, slot := r.cur, uid := u, aux := u + 1 } }
  let q : CtlReq := { kind := kind, slot := r.cur, uid := u, ctx := s2.ctxOfSlot r.cur, r := w, gates := gates }
  let s3 := { s2 with controls := tins s2.controls (u + 1) q }
  (s3.offer (r.cur / 32768) (s3.part.stopOf (r.cur / 512)) stop 0 1 (s3.cycle + 6) 0 (.control (u + 1))).advance

/-- cbq and cbres (R395, R396): a format that is not sound raises ILLOP; then a completion slot on another die or a mill
that is not live, a destination outside the space or off its 512 bytes, raises SPACE or ALIGN; else the request leaves
for the control at stop 60. -/
def Claims.QueueRequests : Prop :=
  ∀ (x : Args) (s r : State),
    let w0 := (r.grp x.b 0).toNat
    let w1 := (r.grp x.b 1).toNat
    let w2 := (r.grp x.b 2).toNat
    (s.begins 0xC1 0 x true false = some r →
      let out := w0 / 2 ^ 16 % 32
      let inn := w0 / 2 ^ 24 % 32
      let sound := w0 / 2 ^ 29 = 0 ∧ w0 / 2 ^ 21 % 8 = 0 ∧ w0 / 2 ^ 9 % 128 = 0 ∧ w0 / 2 ^ 6 % 4 = 0 ∧ w1 < 2 ^ 32 ∧ w2 < 2 ^ 24
        ∧ 10 ≤ out ∧ out ≤ 12 ∧ (inn = 0 ∨ inn = 11 ∨ inn = 12) ∧ (inn = 0 → out ≠ 10)
      let here := w2 / 2 ^ 15 = r.cur / 32768 ∧ w2 / 2 ^ 9 % 64 < r.part.liveMills
      (¬sound → exec (.cbq x) s = .next (r.raise 0x01 ((encWord 0xC1 0 x).toNat / 2 ^ 32)))
      ∧ (sound → ¬here → exec (.cbq x) s = .next (r.raise 0x0B w2))
      ∧ (sound → here → exec (.cbq x) s = .next (Claims.controlSent r 0 0 x [r.grp x.b 0, r.grp x.b 1, r.grp x.b 2] 0 60)))
    ∧ (s.begins 0xC1 1 x true false = some r →
      let k := w0 / 2 ^ 8 % 16
      let es := (List.range k).map (fun i => w1 / 2 ^ (8 * i) % 256)
      let sound := w0 / 2 ^ 12 % 16 = 0 ∧ w0 / 2 ^ 6 % 4 = 0 ∧ 1 ≤ k ∧ k ≤ 8 ∧ w1 < 2 ^ (8 * k) ∧ es.Nodup
      (¬sound → exec (.cbres x) s = .next (r.raise 0x01 ((encWord 0xC1 1 x).toNat / 2 ^ 32)))
      ∧ (sound → 2 ^ 57 ≤ w2 → exec (.cbres x) s = .next (r.raise 0x0B w2))
      ∧ (sound → w2 < 2 ^ 57 → w2 % 512 ≠ 0 → exec (.cbres x) s = .next (r.raise 0x02 w2))
      ∧ (sound → w2 < 2 ^ 57 → w2 % 512 = 0 → exec (.cbres x) s =
          .next (Claims.controlSent r 1 1 x [r.grp x.b 0, r.grp x.b 1, r.grp x.b 2] (r.me.vreg x.c.idx) 60)))

/-- cbput and cbstat (R399, R402): cbput leaves as a load of its 512 bytes of the pond, with an entry for its status;
cbstat leaves for the control of its slot's stop. -/
def Claims.SlotRequests : Prop :=
  ∀ (x : Args) (s r : State),
    let v := (r.opVal x.b).toNat
    (s.begins 0xC1 3 x true false = some r →
      (v < 2 ^ 16 → exec (.cbstat x) s = .next (Claims.controlSent r 3 2 x [r.opVal x.b] 0 (v / 2 ^ 5 % 64)))
      ∧ (2 ^ 16 ≤ v → exec (.cbstat x) s = .next (r.raise 0x01 ((encWord 0xC1 3 x).toNat / 2 ^ 32))))
    ∧ (s.begins 0xC1 2 x true false = some r →
      let o := (r.opVal x.c).toNat
      let a : Access := { kind := .deposit, addr := o, span := 512, space := .pond, slot := r.cur }
      (2 ^ 24 ≤ v → exec (.cbput x) s = .next (r.raise 0x01 ((encWord 0xC1 2 x).toNat / 2 ^ 32)))
      ∧ (v < 2 ^ 24 → r.pondReady o 512 512 0 a →
        let s1 := (r.enterRing 0xC1 2).2
        let u := s1.uid
        let s2 := { s1 with
          uid := u + 2
          controls := tins s1.controls (u + 1) { kind := 3, slot := s1.cur, uid := u, ctx := s1.ctxOfSlot s1.cur, r := [r.opVal x.b] } }
        let b := { a with uid := u, aux := u + 1 }
        let e : Entry := { uid := u, form := .engine, writes := regS x, seq := some r.me.copseq.toNat, acc := some b }
        exec (.cbput x) s = .next (((s2.takeEntry e).issueAccess b).advance)))

/-- Combine control: cbq, cbres, cbput and cbstat.
The lane and the time of a control packet are the model's reading (log 18). -/
def Obligations.CombineControl : Prop :=
  Claims.QueueRequests ∧ Claims.SlotRequests

/-- What every windrose command leaves at its issue (R372, R408): its ring entry and a return entry for its status. -/
def Claims.windroseEntry (r : State) (fn : Nat) (x : Args) : State :=
  let s1 := (r.enterRing 0xC0 fn).2
  { s1 with uid := s1.uid + 1 }.takeEntry { uid := s1.uid, form := .engine, writes := regS x, seq := some r.me.copseq.toNat }

/-- cgload (R409): bit 63 of its operand picks the form. An image outside the space raises SPACE, one off its 64 bytes
ALIGN; else the image is read, and the result lands when it is loaded. Unloading lands 2 where a run of the graph is in
progress; else the graph is gone, and 0 lands.
How long an image is read for is a free value (log 7). -/
def Claims.GraphLoads : Prop :=
  ∀ (x : Args) (s r : State), s.begins 0xC0 0 x true false = some r →
    let v := (r.opVal x.b).toNat
    let t := Claims.windroseEntry r 0 x
    let die := r.cur / 32768
    let lands := fun (t : State) (v : Nat) =>
      ((t.updEntry r.cur r.uid (fun e => e.orVal 0 (BitVec.ofNat 2048 v))).landAt r.cur r.uid t.cycle).advance
    let unload := if r.runs.any (fun k => k.2.die == die && k.2.handle == v % 2 ^ 16 && k.2.st != 0) then lands t 2
      else lands (t.updDie die (fun d => { d with graphs := tdel d.graphs (v % 2 ^ 16) })) 0
    (v < 2 ^ 63 → v < 2 ^ 57 → v % 64 = 0 → exec (.cgload x) s = .next
      ({ t with free := t.free + 1 }.post (t.cycle + 1 + Config.imageDelay t.free) 3 680 .graphImageLoaded
        [r.cur, r.uid, r.me.copseq.toNat, t.me.thread, v, t.ctxOfSlot r.cur, (encWord 0xC0 0 x).toNat / 2 ^ 32]).advance)
    ∧ (v < 2 ^ 63 → 2 ^ 57 ≤ v → exec (.cgload x) s = .next (r.raise 0x0B v))
    ∧ (v < 2 ^ 57 → v % 64 ≠ 0 → exec (.cgload x) s = .next (r.raise 0x02 v))
    ∧ (2 ^ 63 ≤ v → exec (.cgload x) s = .next unload)
    ∧ exec (.cgloadUnload x) s = .next unload

/-- cgrun and cgrun.at (R410, R413): reserved bits raise ILLOP, a completion slot on another die SPACE, and the table is
checked as a 128-byte access; else the run is put before the windrose, which looks at it a cycle later, when the accesses that
the thread has open may have been performed. cgrun.at gives it bits [62:0] of Reg(C) as its start time.
The order of the table's faults is the model's reading (log 56). -/
def Claims.GraphRuns : Prop :=
  ∀ (x : Args) (s r : State) (p : Instr × Nat × Option Nat),
    p ∈ ([(.cgrun x, 1, none), (.cgrunAt x, 2, some ((r.opVal x.c).toNat % 2 ^ 63))] : List (Instr × Nat × Option Nat)) →
    s.begins 0xC0 p.2.1 x true false = some r →
    let w0 := (r.grp x.b 0).toNat
    let table := (r.grp x.b 1).toNat
    let w2 := (r.grp x.b 2).toNat
    let sound := w0 < 2 ^ 16 ∧ w2 < 2 ^ 40
    let die := r.cur / 32768
    let t := Claims.windroseEntry r p.2.1 x
    (¬sound → exec p.1 s = .next (r.raise 0x01 ((encWord 0xC0 p.2.1 x).toNat / 2 ^ 32)))
    ∧ (sound → w2 / 2 ^ 15 % 2 ^ 9 ≠ die → exec p.1 s = .next (r.raise 0x0B w2))
    ∧ (sound → w2 / 2 ^ 15 % 2 ^ 9 = die → 2 ^ 57 ≤ table → exec p.1 s = .next (r.raise 0x0B table))
    ∧ (sound → w2 / 2 ^ 15 % 2 ^ 9 = die → table < 2 ^ 57 → table % 64 ≠ 0 → exec p.1 s = .next (r.raise 0x02 table))
    ∧ (sound → w2 / 2 ^ 15 % 2 ^ 9 = die → table % 64 = 0 → table + 128 ≤ 2 ^ 57 → 
        let run : Run := {
          die := die, handle := w0, slot := r.cur, thread := t.me.thread, launch := t.me.launch, seq := r.me.copseq.toNat, uid := r.uid
          ctx := t.ctxOfSlot r.cur, table := table, dest := w2 % 2 ^ 24, tag := w2 / 2 ^ 24 % 2 ^ 16
          waits := (r.me.open_.filter (fun p => !p.old)).map (·.uid), at_ := p.2.2 }
        exec p.1 s = .next (({ t with uid := t.uid + 1 }.setRun t.uid run).post (t.cycle + 1) 3 690 .runStartTime [t.uid]).advance)

/-- cgstat (R414): reserved bits raise ILLOP; else it lands, 16 cycles after its issue, the state and the counts of fired
and finished nodes of the run it names: of a run in progress, or of one of the graph's last eight that have ended, or 0.
When cgstat reads is the model's reading (log 57). -/
def Claims.GraphStatus : Prop :=
  ∀ (x : Args) (s r : State), s.begins 0xC0 3 x true false = some r →
    let w := (r.opVal x.b).toNat
    let die := r.cur / 32768
    let t := Claims.windroseEntry r 3 x
    let lands := fun v => ((t.updEntry r.cur r.uid (fun e => e.orVal 0 (BitVec.ofNat 2048 v))).landAt r.cur r.uid (r.cycle + 16)).advance
    let live := r.runs.find? (fun k => k.2.die == die && k.2.handle == w % 2 ^ 16 && k.2.k == w / 2 ^ 16 % 2 ^ 16 && k.2.st != 0)
    let past := (r.graph die (w % 2 ^ 16)).ended.find? (fun e => e.1 == w / 2 ^ 16 % 2 ^ 16)
    (2 ^ 32 ≤ w → exec (.cgstat x) s = .next (r.raise 0x01 ((encWord 0xC0 3 x).toNat / 2 ^ 32)))
    ∧ (w < 2 ^ 32 →
      (∀ k, live = some k → exec (.cgstat x) s = .next (lands (k.2.st + k.2.done.length * 2 ^ 8 + k.2.fired.length * 2 ^ 24)))
      ∧ (∀ e, live = none → past = some e → exec (.cgstat x) s = .next (lands (e.2.1 + e.2.2.2 * 2 ^ 8 + e.2.2.1 * 2 ^ 24)))
      ∧ (live = none → past = none → exec (.cgstat x) s = .next (lands 0)))

/-- Windrose commands: cgload of an image, its unload form, runs with and without a start time, and cgstat. -/
def Obligations.WindroseCommands : Prop :=
  Claims.GraphLoads ∧ Claims.GraphRuns ∧ Claims.GraphStatus

/-- The G instructions (R20, R71, R424, R425): on a core with G they enter the ring, write their result and end as a vector
instruction does; on any other core, once every entry has landed, the thread parks and its migration starts at cycle m.
Cycle m and DETAIL of a late fault are the model's reading (log 35, 59). -/
def Obligations.GInstructions : Prop :=
  ∀ (x : Args) (s r : State) (p : Instr × Nat × (Args → State → GResult)),
    p ∈ ([(.gadd x, 0, gadd), (.gelim x, 1, gelim), (.gdamp x, 2, gdamp), (.gsolve x, 3, gsolve), (.gres x, 4, gres)] :
      List (Instr × Nat × (Args → State → GResult))) →
    (s.cur / 16 % 8 < 4 → s.begins 0xD0 p.2.1 x false false = some r →
      let s1 := (r.enterRing 0xD0 p.2.1).2
      let y := p.2.2 x s1
      exec p.1 s = .next (match y.late with
        | none => (s1.updMe y.write).finishVector r.me.copseq.toNat y.fl
        | some code => ((s1.updMe (fun z => (y.write z).ringDone r.me.copseq.toNat 0)).lateIn24 code r.me.copseq.toNat
            (if code = 0x01 then (encWord 0xD0 p.2.1 x).toNat / 2 ^ 32 else 0)).advance))
    ∧ (4 ≤ s.cur / 16 % 8 → s.begins 0xD0 p.2.1 x false true = some r →
      let m := if r.me.lateDue = 0 then r.cycle else max r.cycle (r.me.lateDue + 1)
      exec p.1 s = .next ((r.updMe (fun y => { y with st := .parked .migration, due := none, parkedAt := r.cycle })).post m 3 (r.cur % 128)
        .migrationStart [r.cur]))

/-! What is left alone, and what every step keeps. -/

/-- No instruction changes a byte of device memory as HBM holds it or of a pond when it issues: its stores arrive there by
events. Of the events, only those named here write either: the LLC's write-backs (R121, R123), the pond's word services
and block commits (R146, R151), a bank's retirement (R157), the arrival word of a copy (R250), a windrose's node (R405,
R406), firmware's table (R290), the records of contexts (R354), a host's write (R302), a task's pond image (R359), a restore
(R375), a snapshot (R368), and the reset; and a vacate writes a save image into SAVE (R373), which stands beside the bytes.
Events as constructors, what stands for the bytes of a save image and where a context's record lies are the model's choice (log 109, 72,
126). -/
def Obligations.OnlyTheseWriteMemory : Prop :=
  ∀ (i : Instr) (s t : State), exec i s = .next t →
    i ∉ [.llcAccess, .feHomeServe, .writeBack, .windowAccess, .hostMemoryRequest, .enumTableUpdate, .boot, .create, .destroy,
      .handler, .nodeComplete, .waitBudgetExpiry, .pondWordService, .blockCommit, .sevenBankEntry, .chunkWrite, .taskStart, .restore,
      .reset] →
    (i ≠ .vacate → t.saveAreas = s.saveAreas) ∧ ∀ a, memByte t.mem a = memByte s.mem a ∧ memByte t.pond a = memByte s.pond a

/-- Every step keeps device memory and the ponds in canonical form: addresses strictly rising, and no byte of 0 listed.
The form, and 0 as what an unlisted byte reads, are the model's (log 1). -/
def Obligations.StepKeepsMemoryCanonical : Prop :=
  ∀ (s t : State), s.bytesOk → step s = .next t → t.bytesOk

/-- A store that a pond bank serves writes the bytes of its elements in its word and no other byte: every byte outside
the 64 of the word at the request's offset, and every byte of the word that no element covers, reads as before; a fill
writes its 8-byte word, and an atomic the bytes at its address (R139, R146, R153, R155). -/
def Claims.PondServiceFrame : Prop :=
  ∀ (s : State) (mill : Nat) (q : PondReq) (a : Nat), s.bytesOk →
    let t := s.serveWord mill q
    t.mem = s.mem
    ∧ (q.acc.kind = .store → a < pondAt mill q.off ∨ pondAt mill q.off + 64 ≤ a
        ∨ (elemsMask q.acc.elems).getLsbD (a - pondAt mill q.off) = false → memByte t.pond a = memByte s.pond a)
    ∧ (q.acc.kind = .store → ∀ j, j < 64 → (elemsMask q.acc.elems).getLsbD j = true →
        (memByte t.pond (pondAt mill q.off + j)).toNat = (elemsData q.acc.data q.acc.elems).toNat / 2 ^ (8 * j) % 256)
    ∧ (q.acc.kind = .fill → a < pondAt mill (8 * (q.acc.addr / 8)) ∨ pondAt mill (8 * (q.acc.addr / 8)) + 8 ≤ a →
        memByte t.pond a = memByte s.pond a)
    ∧ (q.acc.kind = .fill → ∀ j, j < 8 → (memByte t.pond (pondAt mill (8 * (q.acc.addr / 8)) + j)).toNat = q.acc.data.toNat / 2 ^ (8 * j) % 256)
    ∧ (∀ form, q.acc.kind = .atomic form → a < pondAt mill q.acc.addr ∨ pondAt mill q.acc.addr + atomicSize form q.acc.ty ≤ a →
        memByte t.pond a = memByte s.pond a)
    ∧ (∀ form j, q.acc.kind = .atomic form → j < atomicSize form q.acc.ty → (memByte t.pond (pondAt mill q.acc.addr + j)).toNat =
        (atomicApply q.acc form (s.pondRead mill q.acc.addr (atomicSize form q.acc.ty))).1 / 2 ^ (8 * j) % 256)
    ∧ (q.acc.kind ∈ [.load, .empty, .peek, .take, .chk] → t.pond = s.pond)

/-- A line that the LLC writes back to HBM, through no format window, replaces the 64 bytes of its line and no other
(R121). -/
def Claims.LlcWriteBackFrame : Prop :=
  ∀ (s : State) (line : Nat) (l : CLine) (a : Nat), s.bytesOk → s.llcGet line = some l → l.dirty ≠ 0 →
    s.winOf (homeStack (64 * line) l.attr) line = none →
    let t := s.llcEvict line
    t.pond = s.pond ∧ (a < 64 * line ∨ 64 * line + 64 ≤ a → memByte t.mem a = memByte s.mem a)
    ∧ (atKey l.attr = 0 → ∀ j, j < 64 → (memByte t.mem (64 * line + j)).toNat = l.data.toNat / 2 ^ (8 * j) % 256)

/-- What a block commit of a cluster's turn writes (R151, R222, R224, R252): of a block store, a chunk or an `xclr`, the 64 bytes of each
selected stripe whose bank is live, from its data; of an `xacc`, those of each selected accumulator; of an XA64, its 320 bytes; every
other byte reads as before. The arrival bit of a chunk is set after these, alone in its byte. -/
def Claims.BlockCommitFrame : Prop :=
  (∀ (s : State) (mill : Nat) (x : Staged) (a : Nat), s.bytesOk →
    let t := s.commitOne mill x
    let kind := (x.acc.map (fun b => b.kind)).getD .blkStore
    let at_ := fun (k : Nat) => pondAt mill (x.off + 64 * k)
    let live := fun (k : Nat) => (s.mill mill).isDry (x.off + 64 * k) = false
    t.mem = s.mem
    ∧ (kind ≠ .xacc → (∀ form, kind ≠ .atomic form) →
      (∀ k, k < 8 → x.mask.testBit k = true → live k → a < at_ k ∨ at_ k + 64 ≤ a) → memByte t.pond a = memByte s.pond a)
    ∧ (kind ≠ .xacc → (∀ form, kind ≠ .atomic form) → ∀ k j, k < 8 → j < 64 → x.mask.testBit k = true → live k →
      (memByte t.pond (at_ k + j)).toNat = x.data.toNat / 2 ^ (512 * k + 8 * j) % 256)
    ∧ (∀ b, x.acc = some b → kind = .xacc →
      (∀ k, k < 8 → b.mask.getLsbD (8 * x.part + k) = true → live k → a < at_ k ∨ at_ k + 64 ≤ a) → memByte t.pond a = memByte s.pond a)
    ∧ (∀ b k j, x.acc = some b → kind = .xacc → k < 8 → j < 64 → b.mask.getLsbD (8 * x.part + k) = true → live k →
      (memByte t.pond (at_ k + j)).toNat = xaAdd false (s.pondRead mill (x.off + 64 * k) 64 % 2 ^ 483)
        (decodeFloat 10 (lane b.data (8 * x.part + k))) / 2 ^ (8 * j) % 256)
    ∧ (∀ form, kind = .atomic form → a < at_ 0 ∨ at_ 0 + 320 ≤ a → memByte t.pond a = memByte s.pond a)
    ∧ (∀ b form k j, x.acc = some b → kind = .atomic form → k < 5 → j < 64 → live k →
      (memByte t.pond (at_ k + j)).toNat = (atomicApply b 11 (s.pondRead mill x.off 320)).1 / 2 ^ (512 * k + 8 * j) % 256))
  ∧ (∀ (s : State) (mill : Nat) (x : Staged) (cmd i arr a : Nat), s.bytesOk → x.chunk = some (cmd, i, arr) →
    let t := s.setArrival mill x
    t.mem = s.mem ∧ (a ≠ pondAt mill (arr + i / 8) → memByte t.pond a = memByte s.pond a)
    ∧ ((s.mill mill).isDry arr = false → (memByte t.pond (pondAt mill (arr + i / 8))).toNat =
        (memByte s.pond (pondAt mill (arr + i / 8))).toNat ||| 2 ^ (i % 8)))

/-- The stores of a pond's bank, of a block commit and of the LLC. -/
def Obligations.StoreFrames : Prop :=
  Claims.PondServiceFrame ∧ Claims.BlockCommitFrame ∧ Claims.LlcWriteBackFrame

/-- What the register instructions leave alone: the scalar integer, compare, select, move, immediate and predicate
instructions write one register of the issuing slot, which holds a
thread, and nothing else. Every other slot, every other part of the machine,
the slot's vector registers, return buffer, FPCTL, FPFLAGS, COPSEQ, ring and LATEPEND stay as they were; a register of
the destination's class that is not the destination keeps its value. -/
def Obligations.RegisterInstructionFrame : Prop :=
  ∀ (i : Instr) (op fn : Nat) (x : Args) (s r t : State), i.opFn = some (op, fn, x) → op ∈ [0x10, 0x11, 0x12, 0x13, 0x18, 0x28] →
    s.begins op fn x false false = some r → r.me.st ≠ .empty → exec i s = .next t →
    t = { r with slots := t.slots, agenda := t.agenda }
    ∧ (∀ g, g ≠ r.cur → t.slot g = r.slot g)
    ∧ t.me = { r.me with s := t.me.s, p := t.me.p, k := t.me.k, pc := r.me.pc + 1, st := .running, due := some (issueAt r.cur (r.cycle + 1)) }
    ∧ (∀ m k, x.a = .reg .s m k → t.me.p = r.me.p ∧ t.me.k = r.me.k
        ∧ (∀ j, j ≠ k.toNat → Tab.wf 0 r.me.s = true → t.me.sreg j = r.me.sreg j))
    ∧ (∀ m k, x.a = .reg .p m k → t.me.s = r.me.s ∧ t.me.k = r.me.k ∧ (∀ j, j < 8 → j ≠ k.toNat → t.me.preg j = r.me.preg j))
    ∧ (∀ m k, x.a = .reg .k m k → t.me.s = r.me.s ∧ t.me.p = r.me.p
        ∧ (∀ j, j ≠ k.toNat → Tab.wf 0 r.me.k = true → t.me.kreg j = r.me.kreg j))
    ∧ ((Tab.wf 0 r.me.s = true → Tab.wf 0 t.me.s = true) ∧ (Tab.wf 0 r.me.k = true → Tab.wf 0 t.me.k = true))

/-- The machine never refuses, and stops only where every clock is stopped or nothing is due: every constructor of Instr
answers a next state in every state. A frozen machine serves resets and reads over the management path alone, the first of its
agenda: a read changes nothing but the answers, so only a reset leaves freeze (R378).
The agenda, and `idle` for an empty one, are the model's own (log 4). -/
def Obligations.StopsAndFreeze : Prop :=
  (∀ (i : Instr) (s : State), ∃ t, exec i s = .next t)
  ∧ (∀ s : State, (∃ t, step s = .next t) ∨ (step s = .fault .frozen ∧ s.frozen = true) ∨ (step s = .fault .idle ∧ s.agenda = []))
  ∧ (∀ s : State, s.frozen = true →
    let served := fun (d : Due) => ∃ a, d.what = .event .reset a ∨ d.what = .event .managementPathRead a
    ((∀ d ∈ s.agenda, ¬served d) → step s = .fault .frozen)
    ∧ (∀ before d after, s.agenda = before ++ d :: after → (∀ e ∈ before, ¬served e) → served d →
      (∀ i a, d.what = .event i a → step s = exec i { s with agenda := before ++ after, arg := a })
      ∧ (∀ a, d.what = .event .managementPathRead a →
        ∃ t, step s = .next t ∧ t = { s with answers := t.answers, agenda := before ++ after, arg := a })))

/-- What reset leaves: the cam tables Outer(ω, c) = (c + ω) mod 4 and Inner(φ, j) = (j + φ) mod 8 of R142; cycle 0; SKYTIME
unsynchronised; FPFLAGS, COPSEQ and LATEPEND 0; every slot empty with nothing outstanding; no barrier has counted; the
clocks run; memory in canonical form. (That a register whose reset value the spec does not give reads 0 is the model's
choice, log entry 2.) -/
def Obligations.ResetValues : Prop :=
  (∀ m c cyc, c < 4 → (State.reset.mill m).outer cyc c = (c + cyc / 8 % 4) % 4)
  ∧ (∀ m j cyc, j < 8 → (State.reset.mill m).inner cyc j = (j + cyc % 8) % 8)
  ∧ (∀ m, (State.reset.mill m).camPend = false ∧ (State.reset.mill m).camInStg = (State.reset.mill m).camInAct
      ∧ (State.reset.mill m).camOutStg = 0x934E_39E4)
  ∧ State.reset.cycle = 0 ∧ State.reset.skyUnsync = true ∧ State.reset.frozen = false ∧ State.reset.bytesOk
  ∧ (∀ g, (State.reset.slot g).rb = [] ∧ (State.reset.slot g).fpflags = 0
      ∧ (State.reset.slot g).copseq = 0 ∧ (State.reset.slot g).late = none ∧ (State.reset.slot g).ring = [])
  ∧ (∀ g, (State.reset.slot g).st = .empty)
  ∧ (∀ k, (State.reset.barrier k).count = 0 ∧ (State.reset.barrier k).gen = 0)

/-! Events. An event's statement names what it acts on in `State.arg`. -/

/-- Fetch, translation and the caches (R38, R104, R105, R107 to R123, R306, R434, R436). A line that a slot's fetch misses
is asked for where its page's translation is held and executable, else a walk is asked for; a filled line enters the
instruction cache, as the view of code has it while a store to lines of code is under way (log 114). A walk arrives at its walker, reads an entry of each level, and its leaf enters the cluster's TLB. A
slice serves one request per cycle, its answers first; a refused request is presented again; a fill gives a slice's line
its data and lets its miss list be answered. The LLC serves, is filled from HBM, is written back to, and a line whose read
budget is spent leaves its slice, dirty bytes written back unless D drops them.
Free LLC victims, the lane of walks, times between slice and LLC, retries, which line is prefetched, what a walker reads through and
where its pages stand, and the unit and the line that requests wait for are the model's (log 12, 18, 19, 20, 24, 25, 67, 110, 111, 113). -/
def Obligations.FetchAndCacheEvents : Prop :=
  (∀ (s s' : State) (g line : Nat) (e : Trans), s.arg = [g, line] → 64 * line < 2 ^ 57 →
    s.tlb (g / 128) (s.ctxOfSlot g) (64 * line) = (some e, s') → atX e.leaf.toNat = true →
    (s'.cluster (g / 128)).icache.lookup (e.pa (64 * line) / 64) = none →
    (exec .icacheMiss s = .next (s'.icacheAsk (g / 128) (e.pa (64 * line)) (e.attr (64 * line))))
    ∧ ((s'.cluster (g / 128)).ifill.contains (e.pa (64 * line) / 64) = false → (e.attr (64 * line)).testBit 51 = false →
      exec .icacheMiss s = .next ((s'.setCluster (g / 128) { s'.cluster (g / 128) with
          ifill := (s'.cluster (g / 128)).ifill ++ [e.pa (64 * line) / 64] }).toSlice
        { (s'.setCluster (g / 128) { s'.cluster (g / 128) with ifill := (s'.cluster (g / 128)).ifill ++ [e.pa (64 * line) / 64] }).mkReq
            { kind := .load } (g / 128 * 8) (e.pa (64 * line) / 64 * 64) (e.attr (64 * line)) s'.cycle [] (.icache (g / 128)) with wmask := 0 }
        s'.cycle)))
  ∧ (∀ (s s' : State) (g line : Nat), s.arg = [g, line] → 64 * line < 2 ^ 57 →
    s.tlb (g / 128) (s.ctxOfSlot g) (64 * line) = (none, s') →
    exec .icacheMiss s = .next (s'.missTlb (g / 128) (s.ctxOfSlot g) (64 * line) (.fetch g line)))
  ∧ (∀ (s : State) (c line r : Nat), s.arg = [c, line, r] →
    let k := s.cluster c
    let q := s.req r
    let filled := fun (t : State) (d : Line) => (t.setCluster c { k with
      icache := ((line, d) :: k.icache.filter (fun l => l.1 != line)).take icacheLines
      ifill := k.ifill.filter (fun l => l != line) }).delReq r
    (s.codeStores = [] → exec .icacheFill s = .next (filled s q.rdata))
    ∧ (let u := s.settleCode
      let t := { u with codeStores := u.codeStores.map (fun (x : CodeStore) =>
        { x with stale := x.stale.filter (fun y => y != (c, u.ownLine line)) }) }
      exec .icacheFill s = .next (filled t (t.codeView c line q.attr q.rdata))))
  ∧ (∀ (s : State) (k : Nat), s.arg = [k] → exec .tlbMissWalk s = .next (s.walkArrives k) ∧ exec .walkRetry s = .next (s.walkArrives k))
  ∧ (∀ (s : State) (k level r : Nat), s.arg = [k, level, r] →
    let w : Walk := tget {} s.walks k
    let q := s.req r
    let e := bits q.rdata.toNat (8 * (q.pa % 64) + 127) (8 * (q.pa % 64))
    let t := { s with reqs := tdel s.reqs r }
    exec .tlbMissWalk s = .next (match t.walkEntry w.ctx (w.block * 65536) level e with
      | .next b => t.readEntry k (level - 1) b
      | .leaf l => t.walkDone k (.inl l)
      | .fault c => t.walkDone k (.inr c)))
  ∧ (∀ (s : State) (k : Nat) (e : Trans), s.arg = [k] → (tget {} s.walks k : Walk).answer = some (.inl e) →
    (tget {} s.walks k : Walk).waiters = [] →
    let w : Walk := tget {} s.walks k
    exec .walkAnswer s = .next (({ s with walks := tdel s.walks k }.updCluster w.cluster (fun c =>
      { c with walks := c.walks.filter (fun j => j != k) })).updCluster w.cluster (fun c => { c with tlb := useTrans 512 c.tlb e })))
  ∧ (∀ (s : State) (l r : Nat) (rest : List Nat), s.arg = [l] → (s.slice l).answer = r :: rest ∨ ((s.slice l).answer = [] ∧ (s.slice l).queue = r :: rest) →
    let x := s.slice l
    let t := if x.answer = [] then (s.setSlice l { x with queue := rest }).serveReq l r
      else ((s.setSlice l { x with answer := rest }).serveReq l r).dropAnswered l ((s.req r).pa / 64)
    exec .sliceServe s = .next (if (t.slice l).answer = [] ∧ (t.slice l).queue = [] then t.setSlice l { t.slice l with busy := false }
      else t.post (t.cycle + 1) 1 (300 + l % 128) .sliceServe [l]))
  ∧ (∀ (s : State) (r : Nat), s.arg = [r] →
    let q := s.req r
    let t := s.setReq r { q with at_ := s.cycle }
    exec .missListRetry s = .next (s.offerTo q.die q.stop (q.slice / 128) (sliceStop q.slice) q.lane 1 (s.cycle + 6) 0 (.req r))
    ∧ exec .feTableRetry s = .next (if q.llc then t.post (s.cycle + 150 + 48 * dieClass q.die (homeStack q.pa q.attr)) 3 100 .feHomeServe [r]
        else t.offerTo q.die q.stop (q.slice / 128) (sliceStop q.slice) q.lane 1 (s.cycle + 6) 0 (.req r))
    ∧ exec .llcAccess s = .next (s.llcServe r) ∧ exec .feHomeServe s = .next (s.llcServe r)
)
  ∧ (∀ (s : State) (line r : Nat) (l : List Nat), s.arg = [line] → tget [] s.fills line = r :: l →
    exec .hbmFill s = .next ((r :: l).foldl (fun t i => t.post t.cycle 3 95 .llcAccess [i])
      (({ s with fills := tput [] s.fills line [] }).llcFill line (s.req r).attr)))
  ∧ (∀ (s : State) (l line f : Nat) (c : CLine), s.arg = [l, line, f] →
    let q := s.req f
    let t := s.delReq f
    let set := l2Set (line * 64)
    (t.l2Lines l set).find? (fun y => y.tag == line) = some c →
    let u := t.setL2 l set ((t.l2Lines l set).map (fun y =>
      if y.tag = line then { y with data := q.rdata, valid := BitVec.allOnes 64, miss := none, fe := q.fe.getD 0 } else y))
    let x := u.slice l
    let v := (u.setSlice l { x with answer := x.answer ++ c.miss.getD [], busy := true }).dropAnswered l line
    exec .l2Fill s = .next (if x.busy then v else v.post v.cycle 1 (300 + l % 128) .sliceServe [l]))
  ∧ (∀ (s : State) (r : Nat), s.arg = [1, r] → (s.req r).fe = none →
    let q := s.req r
    let u := unitOf (homeStack q.pa q.attr) q.pa
    let t := ({ s with unitBusy := tput 0 s.unitBusy u (max (tget 0 s.unitBusy u) (s.cycle + 1)) }.llcFill (q.pa / 64) q.attr).llcWrite
      (q.pa / 64) q.attr q.wdata q.wmask
    exec .writeBack s = .next ((t.reqDone r).delReq r))
  ∧ (∀ (s : State) (line : Nat), s.arg = [2, line] → exec .writeBack s = .next (s.llcEvict line))
  ∧ (∀ (s : State) (l line : Nat) (c : CLine) (d : Bool), s.arg = [l, line] →
    let set := l2Set (line * 64)
    (s.l2Lines l set).find? (fun y => y.tag == line) = some c → c.bud = some (0, d) →
    let t := s.setL2 l set ((s.l2Lines l set).filter (fun y => y.tag != line))
    exec .readBudgetExpiry s = .next (if c.isDirty && !d then t.wbL2 l { c with bud := none } {} .none else t))

/-- The millrace, results, messages and barriers (R13, R34, R133, R264 to R278, R282 to R284, R312, R315, R319, R361, R370). A
result lands in its entry; a packet's flits enter their router, move and leave; a crew access takes its place in a guest
lane's queue; a message is delivered to a slot's mailbox or, one in a cycle, to a context's, and a held one tried again; a dispenser hands its oldest item
out; arrivals are counted, and the last one completes its generation after the level's delay.
Escape channels, flits of one packet, die class on a path, generations at leaving, POD, old ids, hand-outs, what tlbi awaits and how
crew accesses keep their order are the model's (log 14, 15, 16, 17, 41, 42, 68, 82, 115, 123). -/
def Obligations.NetworkAndMessageEvents : Prop :=
  (∀ (s : State) (g u : Nat), s.arg = [g, u] → exec .resultLands s = .next (s.landEntry g u)
    ∧ exec .crewResponse s = .next (s.landAt g u (s.cycle + 2)))
  ∧ (∀ (s : State) (u k : Nat), s.arg = [u, k] → (s.packet u).src ≠ (s.packet u).dst →
    let p := s.packet u
    (p.flits = [] → exec .flitHop s = .next
      (let t := s.setPacket u { p with flits := (List.range p.len).map (fun j => (j, (⟨p.src, 0, 0, s.cycle + j, none⟩ : Flit))) }
       (t.setFifo (fifoKey p.die p.src 0 p.lane) (t.fifoOf (fifoKey p.die p.src 0 p.lane) ++ [u])).postHop u 0 s.cycle))
    ∧ (p.flits ≠ [] →
      let f : Flit := tget ⟨p.dst, 0, 0, 0, none⟩ p.flits k
      exec .flitHop s = .next (if s.cycle < f.ready ∧ f.port ≠ 0 then s.postHop u k f.ready else if f.stop = p.dst then ejectFlit u k p f s else moveFlit u k p f s)))
  ∧ (∀ (s : State) (u k old : Nat), s.arg = [u, k, old] → exec .flitHop s = .next (takeSlot u k old s))
  ∧ (∀ (s : State) (u c : Nat) (a : Access) (stop : Nat), s.arg = [u] → (s.packet u).payload = .crewReq a stop →
    let mill := s.millAt (s.packet u).die stop
    let m := s.mill mill
    let b := { a with addr := a.addr % 2 ^ 21, elems := a.elems.map (fun e => { e with addr := e.addr % 2 ^ 21 }) }
    let time := fun k => m.faces k (offGroup (a.addr % 2 ^ 21)) s.cycle
    c < 4 → (s.cluster (mill * 4 + c)).retired = false → (∀ k, k < 4 → k ≠ c → (s.cluster (mill * 4 + k)).retired = false → time c < time k) →
    (s.port (portY (mill * 4 + c) 6)).length + b.words.length ≤ 16 → s.parksAccess mill b = false → s.crewBefore (s.packet u) a stop = false →
    (∀ kp ∈ s.ports, kp.1 / 64 = mill → kp.1 ≠ portY (mill * 4 + c) 6 → ∀ q ∈ kp.2, q.packet ≠ none →
      s.follow q.acc.slot = s.follow a.slot → ∀ w ∈ (if q.block then q.acc.places else [q.off / 64]), b.places.contains w = false) →
    exec .crewAccessArrive s = .next ((s.dropPacket u).enqueuePond b (portY (mill * 4 + c) 6) s.cycle (some u)))
  ∧ (∀ (s t : State) (u g : Nat) (rest : List Nat), s.arg = u :: rest → (s.sents.lookup u).isSome = true → (s.sent u).dest = .slot g → s.noticeLost g (s.sent u) = false →
    (s.sent u).msg.kind ≠ 3 → (s.sent u).msg.kind ≠ 9 → (s.sent u).thread = 0 ∨ s.savedSlots.lookup (s.sent u).thread = none →
    s.deliverSlot g u (s.sent u).msg = .ok t →
    let d := s.destStop (.slot g)
    exec .messageDelivery s = .next ((t.replyStatus (s.sent u) d.1 d.2.1 d.2.2 0).delSent u))
  ∧ (∀ (s : State) (u die ctx : Nat) (rest : List Nat), s.arg = u :: rest → (s.sents.lookup u).isSome = true → (s.sent u).dest = .dispatcher die ctx →
    (s.context ctx).record ≠ 0 →
    let at_ := tget 0 (s.die die).boxAt ctx
    let box := tget [] (s.die die).boxes ctx
    (at_ = s.cycle + 1 → exec .messageDelivery s = .next (s.post (s.cycle + 1) 1 50 .messageDelivery [u]))
    ∧ (at_ ≠ s.cycle + 1 → (s.sent u).msg.kind ≠ 10 ∨ ((box ++ [s.sent u]).map (fun y => y.msg.entries)).sum ≤ 8 →
      exec .messageDelivery s = .next ((s.updDie die (fun y => { y with
          boxes := tput [] y.boxes ctx (box ++ [s.sent u]), boxAt := tput 0 y.boxAt ctx (s.cycle + 1) })).post
        s.cycle 3 850 .launchRecord [die, ctx, u])))
  ∧ (∀ (s t : State) (g u : Nat) (rest : List Nat), s.arg = [g] → tget [] s.heldMsgs g = u :: rest → s.noticeLost g (s.sent u) = false →
    s.deliverSlot g u (s.sent u).msg = .ok t →
    exec .heldMessageRetry s = .next ((t.retryHeld g).delSent u))
  ∧ (∀ (s : State) (u v : Nat), s.arg = [0, u, v] →
    let d := s.destStop (s.sent u).dest
    exec .sendStatus s = .next (s.replyStatus (s.sent u) d.1 d.2.1 d.2.2 v))
  ∧ (∀ (s t : State) (c : Nat) (rest : List Item), s.arg = [c] → (s.mill (c / 4)).stopping = false → (s.cluster c).retired = false →
    (∀ t, (s.cluster c).handed = some t → t < s.cycle) → s.placeOldest c (s.cluster c).disp = some (t, rest) →
    let v := t.updCluster c (fun k => { k with disp := rest, handed := some s.cycle })
    exec .dispenserHandout s = .next (if rest = [] then v else v.post (s.cycle + 1) 3 900 .dispenserHandout [c]))
  ∧ (∀ (s : State) (g : Nat) (l : List Nat), s.arg = g :: l →
    (stillOpen s l = [] → exec .tlbiComplete s = .next (s.sendAt s.cycle { msg := { hdr := unitHdr 2 5 (g / 32768) 0xFFF0 0 }, dest := .slot g }))
    ∧ (stillOpen s l ≠ [] → exec .tlbiComplete s = .next (s.post (s.cycle + 1) 3 750 .tlbiComplete (g :: stillOpen s l))))
  ∧ (∀ (s : State) (g a : Nat), s.arg = [g, a] →
    let r : Arrival := tget {} s.arrivals a
    let b := s.barrier r.key
    let t := { s with arrivals := tdel s.arrivals a }.updSlot (s.follow g) (fun x => x.resolveGen r.key a b.gen)
    let need := ((s.launchOf b.launch).counts[barBase b.level + b.id]?).getD 0
    exec .barrierArrival s = .next (if b.count + 1 < need then t.setBarrier r.key { b with count := b.count + 1 }
      else (t.setBarrier r.key { b with count := 0, gen := b.gen + 1 }).post (s.cycle +
        (if b.level = 2 then 8 else if b.level = 3 then 12 else if b.level = 4 then 16 else if b.level = 5 then 48 else 432)) 3 710 .barrierComplete [r.key]))
  ∧ (∀ (s : State) (k : Nat), s.arg = [k] →
    let b := s.barrier k
    let t := s.setBarrier k { b with completed := b.completed + 1, doneAt := s.cycle }
    exec .barrierComplete s = .next (t.slots.foldl (fun s kx => s.landBar kx.1 k (b.completed + 1)) t))

/-- The pond (R139 to R160): the word service of a request that has been in its queue and meets its bank, alone in that
cycle at its port, with no older request of its queue at that bank; a block turn's phase; the commits after phase 7; a
bank that is to be retired refuses new accesses at once and is dry from the first round boundary at or after d + 64, where its
bytes are gone and its requests and waiters are withdrawn (R156); a cluster retires, and a table switch happens, at a round boundary.
How withdrawn requests take their places is the model's reading (log 80, 103). -/
def Obligations.PondEvents : Prop :=
  (∀ (s : State) (port id : Nat) (q : PondReq), s.arg = [port, id] → (s.port port).find? (fun o => o.id == id) = some q →
    (s.mill (port / 64)).isDry q.off = false → q.entry ≤ s.cycle → s.meetsNow port q.off = true → tget 0 s.metAt port ≠ s.cycle + 1 →
    (∀ o ∈ olderThan (s.port port) id, offGroup o.off = offGroup q.off → o.block = false ∧ offBank o.off ≠ offBank q.off) →
    (∀ o ∈ s.port port, o.turn ≠ some (s.cycle / 8)) →
    exec .pondWordService s = .next
      (({ s with metAt := tput 0 s.metAt port (s.cycle + 1) }.setPort port ((s.port port).filter (fun o => o.id != id))).serveWord (port / 64) q))
  ∧ (∀ (s : State) (port id : Nat) (q : PondReq), s.arg = [port, id] → (s.port port).find? (fun o => o.id == id) = some q →
    q.turn = some (s.cycle / 8) → s.cycle % 8 ≠ 7 →
    let mill := port / 16 / 4
    let b := (s.mill mill).inner s.cycle (port / 2 % 8)
    let off := q.off + 64 * b
    let dry := (s.mill mill).isDry off
    let w := if dry then 0 else s.pondRead mill off 64
    let q' := { q with
      got := if q.acc.kind != .blkLoad || q.acc.mask.getLsbD b then q.got ||| BitVec.ofNat 4096 (w * 2 ^ (512 * b)) else q.got
      dry := if dry then q.dry ||| 2 ^ b else q.dry }
    exec .blockTurn s = .next ((s.setPort port ((s.port port).map (fun o => if o.id = id then q' else o))).post (s.cycle + 1)
      (portClass port) (port / 2 % 8) .blockTurn [port, id]))
  ∧ (∀ (s : State) (mill : Nat), s.arg = [mill] →
    let l := (s.mill mill).staged.foldl (fun l x => insertStaged x l) []
    exec .blockCommit s = .next (l.foldl (fun s x => s.setArrival mill x) (l.foldl (fun s x => s.commitOne mill x)
      (s.updMill mill (fun m => { m with staged := [] })))))
  ∧ (∀ (s : State) (mill bank : Nat), s.arg = [mill, bank] → (s.mill mill).launch = none →
    exec .bankRetireDecided s = .next ((s.updMill mill (fun m => { m with bankRet := m.bankRet ||| BitVec.ofNat 32 (2 ^ bank) })).post
      ((s.cycle + 64 + 31) / 32 * 32) 0 5 .sevenBankEntry [mill, bank]))
  ∧ (∀ (s : State) (mill bank : Nat), s.arg = [mill, bank] → s.bytesOk → Tab.wf {} s.mills = true → bank < 32 →
    let hit := fun (off : Nat) => 8 * offGroup off + offBank off == bank
    let gone := fun (q : PondReq) => if q.block then q.acc.kind == .atomic 11 && offGroup q.off == bank / 8 && bank % 8 < 5 else hit q.off
    let u := s.updMill mill (fun m => { m with bankDry := m.bankDry ||| BitVec.ofNat 32 (2 ^ bank) })
    let v := (u.ports.flatMap (fun kp => if kp.1 / 64 = mill then kp.2.filter gone else [])).foldl
      (fun t q => (t.setPort q.port ((t.port q.port).filter (fun o => o.id != q.id))).withdraw mill q) u
    let w := v.withdrawWaits mill bank
    let t := ({ w with pond := w.pond.filter (fun kb => !(kb.1 / 2 ^ 21 == mill && hit (kb.1 % 2 ^ 21))) }).post w.cycle 3 900 .machineCheck
      [3, mill / 64, mill % 64 * 32 + bank]
    exec .sevenBankEntry s = .next t ∧ t.mem = s.mem
    ∧ (∀ off, 8 * offGroup off + offBank off = bank → (t.mill mill).isDry off = true)
    ∧ (∀ k ∈ (t.mill mill).feWait, hit (8 * k.1) = false) ∧ (∀ k ∈ (t.mill mill).chkWait, hit (8 * k.1) = false)
    ∧ ∀ a, memByte t.pond a = (if a / 2 ^ 21 = mill ∧ 8 * offGroup (a % 2 ^ 21) + offBank (a % 2 ^ 21) = bank then 0 else memByte s.pond a))
  ∧ (∀ (s : State) (c : Nat), s.arg = [c] →
    (s.cycle % 32 = 0 → exec .clusterRetire s = .next ((s.updCluster c (fun x => { x with retired := true })).post s.cycle 3 931 .enumTableUpdate [4, c / 256]))
    ∧ (s.cycle % 32 ≠ 0 → exec .clusterRetire s = .next (s.post (s.cycle / 32 * 32 + 32) 0 6 .clusterRetire [c])))
  ∧ (∀ (s : State) (mill : Nat), s.arg = [mill] →
    let t := s.updMill mill (fun m => { m with camInAct := m.camInStg, camOutAct := m.camOutStg, camPend := false })
    exec .camSwitch s = .next ((t.ports.flatMap (fun kp => if kp.1 / 64 = mill then kp.2.filter (fun q => q.turn.isNone) else [])).foldl
      (fun s q => s.postPond q s.cycle) t))

/-- Chunks of a copy (R250 to R254). A chunk that is ready is counted; a cstore reads it from its own pond, a cpush from
the range its register names, through the lane of their cluster that meets the chunk's group; a cfetch and a cmcast store
it into their own pond through such a lane, and send it as a packet of eight flits to each other destination; with the
last chunk the command leaves the unit's queue. At a destination an arrival word is zeroed, unless its bank is dry, and the
slots that test it look again; a chunk that comes in a packet is stored through lane 6 of the cluster that meets its group
first. -/
def Claims.CopyChunks : Prop :=
  (∀ (s : State) (id i : Nat), s.arg = [id, i] → (s.copy id).id ≠ 0 → (s.copy id).hold = false →
    let c := { s.copy id with fired := (s.copy id).fired + 1 }
    let s1 := s.setCopy id c
    let t := if i + 1 = c.count then s1.updCu c.cluster (fun u => { u with queue := u.queue.filter (fun k => k != id) }) else s1
    let mill := c.slot / 512
    let chunk := fun (kind : AccKind) (n off : Nat) (data : VPair) =>
      ({ kind := kind, space := .pond, addr := off + 512 * i, span := 512, aux := n, ty := i, mask := 255, data := data } : Access)
    (c.kind = 1 → exec .copyChunkReady s = .next (t.enqueuePond (chunk .chunkLoad id c.off 0) (t.chunkLane c.cluster (c.off + 512 * i)) t.cycle none))
    ∧ (c.kind = 2 → exec .copyChunkReady s =
        .next (t.enqueuePond (chunk .chunkLoad id (c.reg 0) 0) (t.chunkLane c.cluster (c.reg 0 + 512 * i)) t.cycle none))
    ∧ (c.kind = 0 ∨ c.kind = 3 → exec .copyChunkReady s = .next ((t.copyDests c).foldl (fun u d =>
        if d = mill then u.enqueuePond (chunk .chunkStore c.id c.off (c.chunkData i)) (u.chunkLane c.cluster (c.off + 512 * i)) t.cycle none
        else u.offer (mill / 64) (u.part.stopOf mill) (u.part.stopOf d) 0 8 t.cycle 0 (.chunk c.id i d (c.chunkData i))) t)))
  ∧ (∀ (s : State) (mill id : Nat), s.arg = [mill, id] → (s.copy id).id ≠ 0 →
    let a := (s.copy id).arrival
    ((s.mill mill).isDry a = true → exec .chunkWrite s = .next s)
    ∧ ((s.mill mill).isDry a = false → exec .chunkWrite s = .next ((s.pondWrite mill a 8 0).chkTest mill a))
    ∧ ((s.mill mill).isDry a = false → (s.mill mill).chkWait = [] → exec .chunkWrite s = .next (s.pondWrite mill a 8 0)))
  ∧ (∀ (s : State) (mill id i data j : Nat), s.arg = [mill, id, i, data] → (s.copy id).id ≠ 0 →
    let c := s.copy id
    let m := s.mill mill
    let time := fun k => m.faces k (offGroup (c.off + 512 * i)) s.cycle
    m.launch = some c.launch → m.crew = c.crew → (∃ e ∈ m.sb, e.chunk = true ∧ e.owner = id) →
    j < 4 → (s.cluster (mill * 4 + j)).retired = false → (∀ k, k < 4 → k ≠ j → (s.cluster (mill * 4 + k)).retired = false → time j < time k) →
    let a : Access := {
      kind := .chunkStore, space := .pond, addr := c.off + 512 * i, span := 512, aux := id, ty := i, mask := 255, data := BitVec.ofNat 4096 data }
    exec .chunkWrite s = .next (s.enqueuePond a (portY (mill * 4 + j) 6) s.cycle none))

/-- The end of a copy (R250, R252 to R254). A chunk that a mill has committed sets its bit there, and the mill's last
frees the entry and is announced, 8 cycles later, at its mailbox where NOTE is set. When every destination has all
chunks, or has left the crew, the copy is over, as it is when it faults: command, queue place and scoreboard entry go, its
ring entry is done, and MSG sends its slot a message 8 cycles later whose DST bytes hold, for a fault, the code of every
member, else CREWOUT for those that left. A late fault is also reported. -/
def Claims.CopyEnds : Prop :=
  let closed := fun (s : State) (id fault : Nat) =>
    let c := s.copy id
    let mill := c.slot / 512
    let idx := if fault ≠ 0 ∧ c.kind = 3 then List.range 16 else c.members (s.mill mill).crewIx
    let dst := idx.foldl (fun d k =>
      d + (if fault ≠ 0 then fault else if c.lost.contains (s.memberMill mill k) then 0x07 else 0) * 2 ^ (8 * k)) 0
    let s1 := ({ s with copies := tdel s.copies id }.updCu c.cluster (fun u => { u with queue := u.queue.filter (fun k => k != id) }))
    let s2 := s1.updSlot (s1.follow c.slot) (fun x => if x.thread = c.thread then x.ringDone c.seq 0 else x)
    let s3 := if c.msg = true then s2.sendAt (s2.cycle + 8)
        { msg := copyMsg c (mill / 64) fault (fault != 0 || !c.lost.isEmpty) dst (c.kind == 3), dest := .slot c.slot, thread := c.thread } else s2
    let s4 := s3.updMill mill (fun m => { m with sb := m.sb.filter (fun e => !(e.chunk && e.owner == id)) })
    match (s4.mill mill).launch with
    | some l => s4.post (s4.cycle + 1) 8 (s4.mill mill).crew .taskEnd [l, (s4.mill mill).crew]
    | none => s4
  (∀ (s : State) (id code block : Nat), s.arg = [id, code, block] → (s.copy id).id ≠ 0 →
    let c := s.copy id
    let va := if c.stage = 2 then c.blockAddr block else c.reg 0
    let t := s.post s.cycle 8 c.slot .lateFault [c.slot, code, c.seq, va, c.thread, c.ctx]
    exec .copyLateFault s = .next (((closed t id code).copySend c.cluster 17).copyAdvance c.cluster (64 * 17)))
  ∧ (∀ (s : State) (id mill i : Nat), s.arg = [id, mill, i] → (s.copy id).id ≠ 0 → (s.copy id).kind ≠ 1 →
    let n := tget 0 (s.copy id).committed mill + 1
    let c := { s.copy id with committed := tput 0 (s.copy id).committed mill n }
    let s1 := (s.setCopy id c).updMill mill (fun m => { m with
      sb := (m.sb.map (fun e => if e.chunk && e.owner == id then { e with got := e.got ||| 2 ^ i } else e)).filter
        (fun e => !(e.chunk && e.owner == id && n == c.count)) })
    let t := if n = c.count ∧ c.note = true then s1.sendAt (s1.cycle + 8)
        { msg := copyMsg (s.copy id) (mill / 64) 0 false 0 false, dest := .slot (mill * 512 + c.mbox) } else s1
    let all := ∀ d ∈ t.copyDests (t.copy id), d ∈ c.lost ∨ tget 0 (t.copy id).committed d = c.count
    (all → exec .copyComplete s = .next (closed t id 0)) ∧ (¬all → exec .copyComplete s = .next t))
  ∧ (∀ (s : State) (id mill i : Nat), s.arg = [id, mill, i] → (s.copy id).id ≠ 0 → (s.copy id).kind = 1 →
    exec .copyComplete s = .next (s.storeChunk id i))

/-- Tiles (R131, R132, R348). An operation looks at its marker and pages; a load, once its core's dirty lines are home, and a
store, once its stripes are read, reach the home after 6 cycles and the way there; there a store waits while the version
is odd and else adds 1 to it, a tldg.aon that meets an odd version counts an attempt and waits 32 cycles, and the lines go
out; each served line is counted, and a tile whose version has not moved is served. At the end its status lands: DST 8
where it was torn, its attempts, and the version.
The steps of a tile, a tstg that waits while the version is odd and the version in the status are the model's reading (log 116, 117). -/
def Claims.TileSteps : Prop :=
  ∀ (s : State) (o : Nat), (s.tiles.lookup o).isSome = true →
    let x := s.tile o
    let key := (s.tileHome x).2
    let ver := tget 0 s.versions key
    let way := s.tileWay x
    (s.arg = [o, 0, 0] → exec .tldgAonRetry s = .next (s.tileBegin o))
    ∧ (s.arg = [o, 1, 0] → x.store = false → exec .tldgAonRetry s = .next (s.post (s.cycle + 6 + way) 3 640 .tldgAonRetry [o, 3, 0]))
    ∧ (s.arg = [o, 1, 0] → x.store = true → exec .tldgAonRetry s = .next (s.tilePond o))
    ∧ (s.arg = [o, 2, 0] → x.left ≤ 1 → exec .tldgAonRetry s =
        .next ((s.setTile o { x with left := x.left - 1 }).post (s.cycle + 6 + way) 3 640 .tldgAonRetry [o, 3, 0]))
    ∧ (s.arg = [o, 2, 0] → 1 < x.left → exec .tldgAonRetry s = .next (s.setTile o { x with left := x.left - 1 }))
    ∧ (s.arg = [o, 3, 0] → x.store = true → ver % 2 = 1 → exec .tldgAonRetry s = .next (s.post (s.cycle + 1) 3 640 .tldgAonRetry [o, 3, 0]))
    ∧ (s.arg = [o, 3, 0] → x.store = true → ver % 2 = 0 → exec .tldgAonRetry s =
        .next ({ s with versions := tput 0 s.versions key ((ver + 1) % 2 ^ 64) }.tileLines o))
    ∧ (s.arg = [o, 3, 0] → x.store = false → x.isAon = true → ver % 2 = 1 → x.tries < 64 → exec .tldgAonRetry s =
        .next ((s.setTile o { x with tries := x.tries + 1 }).post (s.cycle + 32) 3 640 .tldgAonRetry [o, 3, 0]))
    ∧ (s.arg = [o, 3, 0] → x.store = false → x.isAon = true → ver % 2 = 1 → 64 ≤ x.tries → exec .tldgAonRetry s =
        .next ((s.setTile o { x with torn := true }).post (s.cycle + 32 + way) 3 640 .tldgAonRetry [o, 4, 0]))
    ∧ (s.arg = [o, 3, 0] → x.store = false → x.isAon = false ∨ ver % 2 = 0 → exec .tldgAonRetry s = .next ((s.setTile o { x with ver := ver }).tileLines o))
    ∧ (s.arg = [o, 6, 0] →
      let t := { s with tiles := tdel s.tiles o }.updEntry x.acc.slot x.acc.uid (fun e => e.orVal 0
        (BitVec.ofNat 2048 ((if x.torn then 8 else 0) + x.tries % 256 * 2 ^ 8 + ver % 2 ^ 48 * 2 ^ 16)))
      exec .tldgAonRetry s = .next ((t.landAt x.acc.slot x.acc.uid t.cycle).done x.acc.slot x.acc.uid))
    ∧ (∀ r, s.arg = [o, r] →
      let t := (s.delReq r).setTile o { x with
        left := x.left - 1, lines := if x.store then x.lines else tins x.lines (atVa (s.req r).attr / 64) (s.req r).rdata }
      exec .tldgAonRetry s = .next (if x.left ≤ 1 then t.tileServed o else t))

/-- A batch is let in (R238, R256). A batch that waits for the scoreboard's room is looked at again in the next cycle; one
whose ranges find room in the 64 entries enters them, and, while the engine's queue holds fewer than 16, leaves the core's
staging for it and wakes the engine. -/
def Claims.BatchesLetIn : Prop :=
  ∀ (s : State) (c : Nat) (b : Batch), s.arg = [c] →
    let bs := (s.engine c).batches
    bs.find? (fun y => !y.registered) = some b →
    let room := (s.mill (c / 4)).sb.length + b.rects.length ≤ 64
    exec .batchRegister s = .next (s.letIn c)
    ∧ (bs.find? (fun y => !y.queued) = some b → ¬room → exec .batchRegister s = .next (s.post (s.cycle + 1) 2 b.slot .batchRegister [c]))
    ∧ (room → (∀ y ∈ bs, y ≠ b → y.registered = true ∧ y.queued = true) → b.queued = false → (bs.filter (·.queued)).length < 16 →
      let mark := fun (t : State) (f : Batch → Batch) =>
        t.updEngine c (fun e => { e with batches := e.batches.map (fun y => if y.id = b.id then f y else y) })
      let s1 := s.updMill (c / 4) (fun m => { m with sb := m.sb ++ b.rects.map (fun r =>
        ({ chunk := false, owner := b.id, lo := 512 * r.stripes.headD 0, hi := 512 * r.stripes.getLastD 0 + 512 } : SbEntry)) })
      let s2 := mark (mark s1 (fun y => { y with registered := true })) (fun y => { y with queued := true })
      let s3 := s2.updCore (b.slot / 16) (fun k => { k with staging := k.staging.filter (fun e => e.batch != b.id) })
      exec .batchRegister s = .next (s3.wakeEngine c))

/-- The engine (R237, R239 to R241, R244). It starts a step at a round boundary, claims a turn at a turn's first cycle,
meets its stripes in each cycle of it and ends it at its last; it goes on while a batch or a move is left. In the cycles
between, a step's turn adds to what it has got what its stripes' lanes read. A step that ends writes its products to the
accumulator, its flags to the batch and DONE to its ring entry, and the batch's last step ends the batch in that cycle; a
move that ends frees its accumulator. The end of a batch sends its thread a kind-2 message 8 cycles later, frees its
scoreboard entries and its place, sets DONE and, where a trap of its flags is enabled, raises FPX late. -/
def Claims.EngineRuns : Prop :=
  (∀ (s : State) (c : Nat), s.arg = [c] →
    let s1 := if s.cycle % 32 = 0 then s.startStep c ((s.engine c).batches.length + 1) else s
    let s2 := if s1.cycle % 8 = 0 then s1.claimTurn c else s1
    let s3 := s2.turnCycle c
    let s4 := if s3.cycle % 8 = 7 then s3.turnEnd c else s3
    exec .engineStep s = .next (if (s4.engine c).turn.isSome then s4.post (s4.cycle + 1) 4 0 .engineStep [c]
      else if !(s4.cluster c).retired && ((s4.engine c).batches.any (fun b => b.queued) || (s4.cluster c).moves.any (fun v => !v.left.isEmpty)) then
        s4.post (nextAt (s4.cycle + 1) 8 0) 4 0 .engineStep [c]
      else s4.updCluster c (fun k => { k with poll := false })))
  ∧ (∀ (s : State) (c : Nat) (ks : List Nat), s.arg = [c] → s.cycle % 8 ≠ 0 → s.cycle % 8 ≠ 7 → (s.engine c).turn = some (none, ks) →
    exec .engineStep s = .next ((s.updEngine c (fun e => { e with run := e.run.map (fun r => { r with
      got := ks.zipIdx.foldl (fun got kj => (s.laneRead (c / 4) kj.2 kj.1 got).1) r.got }) })).post (s.cycle + 1) 4 0 .engineStep [c]))
  ∧ (∀ (s : State) (c : Nat) (r : ERun) (b : Batch) (rest : List Batch) (e : EStep), s.arg = [c] →
    (s.engine c).run = some r → (s.engine c).batches = b :: rest → b.steps[b.done]? = some e →
    let core := b.slot / 16
    let a := (s.core core).acc e.acc
    let w := (List.range (e.m * e.n)).foldl (fun (w : Tab Word × Nat) ij =>
      let y := e.elem r.got (tget 0 a.elems ij) (ij / e.n) (ij % e.n)
      (tput 0 w.1 ij (BitVec.ofNat 64 y.1), w.2 ||| y.2)) ([], b.flags)
    let s1 := s.updCore core (fun k => k.setAcc e.acc { a with elems := w.1 })
    let t := (s1.updSlot (s1.follow b.slot) (fun x => if x.thread = b.thread then x.ringDone e.seq 0 else x)).updEngine c (fun g => { g with
        run := none, last := s.cycle
        batches := g.batches.map (fun y => if y.id = b.id then { y with done := y.done + 1, flags := w.2 } else y) })
    exec .engineStepEnd s = .next (if b.steps.length ≤ b.done + 1 then t.post t.cycle 1 21 .batchComplete [c, b.id] else t))
  ∧ (∀ (s : State) (c id : Nat) (v : Move), s.arg = [c, id] → (s.cluster c).moves.find? (fun y => y.id == id) = some v →
    exec .engineStepEnd s = .next ((s.updCore v.core (fun k => k.setAcc v.acc { k.acc v.acc with busy := false })).updCluster c
      (fun k => { k with moves := k.moves.filter (fun y => y.id != id) })))
  ∧ (∀ (s : State) (c id : Nat) (b : Batch), s.arg = [c, id] → (s.engine c).batches.find? (fun y => y.id == id) = some b →
    let msg : Msg := { hdr := unitHdr 2 0 (c / 256) (b.job % 65536) 8
                       pay := BitVec.ofNat 960 (b.job % 2 ^ 21 + b.steps.length * 2 ^ 24 + b.flags * 2 ^ 32) }
    let s1 := s.sendAt (s.cycle + 8) { msg := msg, dest := .slot b.slot, thread := b.thread }
    let s2 := (s1.updMill (c / 4) (fun m => { m with sb := m.sb.filter (fun e => e.chunk || e.owner != b.id) })).updEngine c
      (fun e => { e with batches := e.batches.filter (fun y => y.id != b.id) })
    let s3 := s2.updSlot (s2.follow b.slot) (fun x => if x.thread = b.thread then x.ringDone b.seq b.flags else x)
    let s4 := if b.traps &&& b.flags ≠ 0 then
        s3.post s3.cycle 8 b.slot .lateFault [b.slot, 0x09, b.seq, b.flags, b.thread, (s3.launchOf b.launch).ctx] else s3
    let t := match (s4.mill (c / 4)).launch with
      | some l => s4.post (s4.cycle + 1) 8 (s4.mill (c / 4)).crew .taskEnd [l, (s4.mill (c / 4)).crew]
      | none => s4
    exec .batchComplete s = .next ((t.queueBatches c (t.engine c).batches.length).wakeEngine c))

/-- Copies, tiles and the matrix engine: their chunks, stages, batches, steps and ends, as events.
Arrival words at other destinations, DETAIL, a tile's steps and the order within a cycle are the model's reading (log
47, 50, 51, 106). -/
def Obligations.CopyAndEngineEvents : Prop :=
  Claims.CopyChunks ∧ Claims.CopyEnds ∧ Claims.TileSteps ∧ Claims.BatchesLetIn ∧ Claims.EngineRuns

/-- Migration (R71 to R75). A thread whose move is due takes the lowest empty G slot of its cluster, or waits in the
cluster's queue; the dirty lines of its core leave for home first, its slot migrates, the G slot is reserved for it, and it
arrives there at the first issue cycle 160 cycles on. A slot that empties lets the oldest of the queue go. At its arrival
the thread goes on in the G slot, with what its slot held, and its old slot forwards.
L1 at an arrival and held late faults are the model's (log 61, 60). -/
def Claims.Migrations : Prop :=
  let go := fun (s : State) (src dst : Nat) =>
    let j := s.cleanL1 (src / 16)
    let t := j.2.updSlot src (fun x => { x with st := .migrating, link := some dst, flush := j.1 })
    let u := t.updSlot dst (fun x => { x with st := .reserved, link := some src })
    u.post (issueAt dst (u.cycle + 160)) 1 500 .migrationArrive [src, dst]
  (∀ (s : State) (g : Nat), s.arg = [g] → (s.slot g).st = .parked .migration → (s.mill (g / 512)).stopping = false →
    (∀ d, s.gSlot (g / 128) = some d → exec .migrationStart s = .next (go s g d))
    ∧ (s.gSlot (g / 128) = none → exec .migrationStart s = .next ((s.updSlot g (fun x => { x with st := .migrating, link := none })).updCluster
        (g / 128) (fun k => { k with migq := k.migq ++ [g] }))))
  ∧ (∀ (s : State) (c : Nat), s.arg = [c] →
    ((s.cluster c).migq = [] ∨ s.gSlot c = none → exec .migrationQueueServe s = .next s)
    ∧ (∀ g d, (s.cluster c).migq = [g] → s.gSlot c = some d →
        exec .migrationQueueServe s = .next (go (s.updCluster c (fun k => { k with migq := [] })) g d))
    ∧ (∀ g d rest, (s.cluster c).migq = g :: rest → s.gSlot c = some d →
        exec .migrationQueueServe s = .next ((go (s.updCluster c (fun k => { k with migq := rest })) g d).serveQueue c rest.length)))
  ∧ (∀ (s : State) (src dst : Nat), s.arg = [src, dst] → (s.slot src).st = .migrating → (s.slot src).link = some dst →
    (s.slot dst).st = .reserved → (s.slot src).flush = none → (s.slot src).heldLate = [] →
    let x := s.slot src
    let d := s.slot dst
    let t := ((s.emptyL1 (dst / 16) .none).setSlot dst { x with
      st := .running, link := some src, flush := none, heldLate := [], due := none, lastLine := none
      open_ := d.open_ ++ x.open_.map (fun p => { p with moved := true }), held := d.held ++ x.held
      sending := d.sending ++ x.sending }).setSlot src { st := .forwarding, link := some dst, thread := x.thread }
    let u := { t with heldMsgs := tput [] (tdel t.heldMsgs src) dst (tget [] t.heldMsgs dst ++ tget [] t.heldMsgs src) }
    let w := ((u.retryHeld dst).sendOn dst x.sending).drain dst
    exec .migrationArrive s = .next (w.turnAt dst w.cycle))

/-- Late faults and traps (R19, R366, R370, R371). A late fault marks its ring entry with its code, is kept in LATEPEND
where none is, and stops the thread where it runs or is parked; the message it sends names its ring entry and its
context, or says that the entry is lost, also where the thread has gone; a thread under way keeps the fault till it
arrives. A supervisor forwards a trap by its context's policy: to the log where the context is gone, to the handler's slot
where that holds a thread (6 cycles later in the same mill, else as a packet), else to the host. Firmware restarts a stopped supervisor, and what waited for it
is sent.
What a restart leaves, and the times of firmware and of the fabric, are the model's (log 65, 38, 7). -/
def Claims.LateFaults : Prop :=
  (∀ (s : State) (g code seq detail thread ctx : Nat), s.arg = [g, code, seq, detail, thread, ctx] →
    s.savedSlots.lookup thread = none →
    let h := s.follow g
    let x := s.slot h
    let hit := x.ring.find? (fun r => r.seq == seq)
    let ring := x.ring.map (fun r => if r.seq = seq then { r with flt := true, code := code } else r)
    let msg := trapMsg h ctx code 2 (match hit with | some r => r.ix | none => 2 ^ 32 - 1) detail seq
      (match ring.find? (fun r => r.seq == seq) with | some r => r.pack | none => 0) hit.isNone
    (x.thread = thread → x.st = .running ∨ (∃ p, x.st = .parked p) → exec .lateFault s = .next ((s.setSlot h { x with
        late := if x.late.isNone then some (code, seq) else x.late
        ring := ring, due := none, trapped := some msg, st := .stopped code }).reportFault h (s.cycle + 8) msg))
    ∧ (x.thread = thread → x.st = .migrating → exec .lateFault s = .next (s.setSlot h { x with heldLate := x.heldLate ++ [(code, seq, detail)] }))
    ∧ (x.thread ≠ thread → exec .lateFault s = .next (s.reportFault h (s.cycle + 8) (trapMsg h ctx code 2 (2 ^ 32 - 1) detail seq 0 true))))
  ∧ (∀ (s : State) (u g : Nat), s.arg = [u] → (s.sent u).dest = .slot g →
    let m := (s.sent u).msg
    let ctx := m.owner
    (s.ctxExists ctx = false → exec .trapForward s = .next ((s.sendAt s.cycle { msg := m, dest := .log (g / 32768) }).delSent u))
    ∧ (s.ctxExists ctx = true → s.fpol ctx = 1 → (s.slot (s.follow (s.hslot ctx))).st.hasThread = true →
        let k := s.uid
        let t := { s with uid := k + 1 }.setSent k { msg := { m with uid := k }, dest := .slot (s.hslot ctx) }
        let d := t.destStop (.slot (s.hslot ctx))
        let stop := s.part.stopOf (g / 512)
        exec .trapForward s = .next ((if d.1 = g / 32768 ∧ d.2.1 = stop then t.post (s.cycle + 6) 1 (200 + g % 512) .messageDelivery [k]
          else t.offerTo (g / 32768) stop d.1 d.2.1 d.2.2 { m with uid := k }.entries (s.cycle + 6) 0 (.msg k)).delSent u))
    ∧ (s.ctxExists ctx = true → s.fpol ctx ≠ 1 ∨ (s.slot (s.follow (s.hslot ctx))).st.hasThread = false →
        exec .trapForward s = .next ((s.toHost (g / 32768) (s.hnode ctx) (s.fmbox ctx) m).delSent u)))
  ∧ (∀ (s : State) (c code : Nat), s.arg = [c] → (s.slot (s.follow (c * 128 + 127))).st = .stopped code →
    let g := s.follow (c * 128 + 127)
    let x := s.slot g
    let t := ({ s with free := s.free + 1 }.setSlot g { x with
      st := .running, late := none, trapped := none, pc := (Config.openStatus s.free).setWidth 32, rb := x.rb.filter (fun e => e.fault.isNone) }).turnAt
      g (s.cycle + 1)
    exec .supervisorRestart s = .next ((t.cluster c).supHeld.foldl (fun t y => t.sendAt t.cycle y) (t.updCluster c (fun k => { k with supHeld := [] }))))

/-- Corrections, machine checks and the feather (R157, R366, R377, R435). A corrected error of a pond bank is counted; the
64th within 2^20 cycles retires the bank, unless it is retired. An error in a slot's fetch makes its next fetch take MCHK;
a vacated mill is reported to the log. A feather window ends every 1,050 cycles: the feather of each live mill goes up by 1, to at most
12, where its energy is above its share or the die's headroom below 5 degrees, down by 1 where its energy is below 85 % and the headroom
at least 10, and stays otherwise; nothing else moves but the next window.
Energies (in thousandths of the share) and headrooms (in tenths) are free values, one drawn for each die and each mill (log 9); the codes
of MACHINE_CHECK are the model's (log 69). -/
def Claims.MachineChecks : Prop :=
  (∀ (s : State) (die p : Nat) (rest : List Nat), s.arg = 0 :: die :: p :: rest →
    let mill := die * 64 + p / 32
    let m := s.mill mill
    let l := (s.cycle :: tget [] m.corrections (p % 32)).filter (fun t => s.cycle < t + 2 ^ 20)
    let t := s.setMill mill { m with corrections := tput [] m.corrections (p % 32) l }
    exec .machineCheck s = .next (if 64 ≤ l.length ∧ m.bankRet.getLsbD (p % 32) = false then
      t.post t.cycle 0 4 .bankRetireDecided [mill, p % 32] else t))
  ∧ (∀ (s : State) (die g : Nat), s.arg = [6, die, g] →
    exec .machineCheck s = .next (s.updSlot g (fun x => { x with fetchFault := some (0x0C, 0) })))
  ∧ (∀ (s : State) (die p lid ctx : Nat), s.arg = [5, die, p, lid, ctx] →
    exec .machineCheck s = .next (s.sendAt s.cycle { msg := checkMsg 5 die ctx 0 0 lid p 0, dest := .log die }))
  ∧ (∀ s : State, Tab.wf {} s.mills = true →
    let n := s.part.liveMills
    ∃ t, exec .featherWindowEnd s = .next t
    ∧ t = { s with mills := t.mills, free := s.free + 8 * (n + 1), agenda := (s.post (s.cycle + 1050) 0 0 .featherWindowEnd []).agenda }
    ∧ (∀ m, m % 64 < n ∧ m < 512 → t.mill m = { s.mill m with feather :=
        (let e := Config.millEnergy (s.free + m / 64 * (n + 1) + 1 + m % 64)
         let h := Config.thermalHeadroom (s.free + m / 64 * (n + 1))
         let f := (s.mill m).feather
         if 1000 < e ∨ h < 50 then min (f + 1) 12 else if e < 850 ∧ 100 ≤ h then f - 1 else f) })
    ∧ (∀ m, ¬(m % 64 < n ∧ m < 512) → t.mill m = s.mill m))

/-- Migration, late faults, traps, machine checks and feather windows, as events. -/
def Obligations.MigrationAndFaultEvents : Prop :=
  Claims.Migrations ∧ Claims.LateFaults ∧ Claims.MachineChecks

/-- Records, commands and the dispatcher (R355 to R359, R361, R380). A record enters its die's pool of at most 256, and
its sender gets status 2 where the pool is full, else 0 with the launch's id; a record that faults ends its launch at once
with reason 1; a command goes to the event of its code, and a code that is none is answered as ILLOP. The dispatcher allots while
a waiting record can have mills, and then looks at the slices of its launches. A task starts with its pond image
and one work item at a dispenser of each mill of its crew.
When a record is read, the dispatcher's times and its order, a slice that ends while a record waits, and a command word of 256 or more as
an unknown code are the model's (log 7, 71, 73, 82, 83, 88). -/
def Claims.Dispatching : Prop :=
  (∀ (s : State) (die ctx u : Nat), s.arg = [die, ctx, u] →
    let x := s.sent u
    let t := s.updDie die (fun y => { y with boxes := tput [] y.boxes ctx ((tget [] y.boxes ctx).filter (fun z => z.msg.uid != x.msg.uid)) })
    let full := 256 ≤ ((t.die die).pool.filter (fun l => (t.launchOf l).pending)).length
    let id := die * 2 ^ 29 + (t.die die).launches % 2 ^ 29
    let rec_ := t.recordOf x
    let l : Launch := { record := rec_.1, id := id, ctx := ctx, die := die, from_ := x.reply.map (fun r => (r.1, x.thread)) }
    let v := (rec_.2.updDie die (fun d => { d with launches := d.launches + 1 })).recordStatus x die 0 id
    (x.msg.kind = 5 → full → exec .launchRecord s = .next ((t.recordStatus x die 2 0).delSent u))
    ∧ (x.msg.kind = 5 → ¬full → (∀ f, v.recordFault l = some f → exec .launchRecord s = .next (((v.setLaunch id l).endLaunch id 1 f).delSent u)))
    ∧ (x.msg.kind = 5 → ¬full → v.recordFault l = none →
      let w := v.setLaunch id { l with counts := v.readCounts l, image := (v.readImage l).1, imageFull := (v.readImage l).2 }
      exec .launchRecord s = .next (((w.updDie die (fun d => { d with pool := d.pool ++ [id] })).post w.cycle 3 860 .dispatch [die]).delSent u))
    ∧ (x.msg.kind ≠ 5 →
      let w := fun i => bits x.msg.pay.toNat (64 * i + 63) (64 * i)
      let at_ := t.destStop x.dest
      let done := fun (y : State) => (y.replyStatus x at_.1 at_.2.1 at_.2.2 0).delSent u
      (∀ p ∈ ([(1, .preempt, 3), (2, .switchout, 0), (3, .switchin, 0), (4, .resume, 2), (5, .handler, 2), (6, .kill, 1), (7, .budget, 3)] :
          List (Nat × Instr × Nat)), w 0 = p.1 →
        exec .launchRecord s = .next (done (t.post t.cycle 3 851 p.2.1 ([die, ctx, x.msg.tag] ++ (List.range p.2.2).map (fun k => w (k + 1))))))
      ∧ (w 0 = 0 ∨ 8 ≤ w 0 → exec .launchRecord s = .next (done (t.reply die ctx x.msg.tag (w 0) false)))))
  ∧ (∀ (s : State) (die : Nat), s.arg = [die] →
    let slices := fun (t : State) => t.launches.foldl (fun s kl => if kl.2.die = die then s.sliceCheck kl.1 else s) t
    exec .dispatch s = .next (slices (s.dispatchAll die ((s.die die).pool.length + 1)))
    ∧ (s.dispatchOne die = none → exec .dispatch s = .next (slices s))
    ∧ (s.waiting die = [] → (∀ kl ∈ s.launches, kl.2.die ≠ die) → exec .dispatch s = .next s))
  ∧ (∀ (s : State) (l q k m c : Nat), s.arg = [l, q, k] → ((s.launchOf l).crews[q]?).getD none = some [m] →
    let x := s.launchOf l
    let t := s.writeImage x m
    t.liveCluster m = some c →
    exec .taskStart s = .next ((t.updCluster c (fun y => { y with disp := y.disp ++
      [{ launch := l, task := k, slots := x.f 200 197 + 1, entry := x.f 95 64, args := List.replicate 8 0, src := 0 }] })).post t.cycle 3 900
        .dispenserHandout [c]))

/-- The ends of tasks, slices and launches (R358, R360, R367, R368, R376). A crew whose task is over takes a saved task
of its launch first, else the next of its own, which starts after the dispatcher's free delay, else none, and a launch
with none left ends; a task that is not over goes on. A notice goes to the host's mailbox or to the thread that launched
it. A launch whose slice is not spent, that has ended or has no crew standing, keeps its mills; so it does where no waiting record
of at least its priority lacks mills, and mills alone; else the least number of its highest crews that serves that record is vacated at the
next round boundary. A context
whose waiting budget is spent is written to its snapshot and switched out on all dies, and its launches are notified.
What keeps a crew and a task, the order of the pool and the level-triggered end of a slice are the model's (log 73, 84, 92, 101). -/
def Claims.TaskEnds : Prop :=
  (∀ (s : State) (l q k : Nat) (ms : List Nat), s.arg = [l, q] → ((s.launchOf l).crews[q]?).getD none = some ms →
    ((s.launchOf l).current[q]?).getD none = some k →
    let x := s.launchOf l
    let ended := s.starting l q = false ∧ s.vacating l q = false ∧ s.taskOver l ms = true
    let ends := fun (t : State) => if t.launchOver l = true then t.endLaunch l (t.launchOf l).reason 0 else t
    (¬ended → exec .taskEnd s = .next s)
    ∧ (ended → ∀ img rest, x.saved = img :: rest → exec .taskEnd s = .next (ends ((s.setLaunch l { x with
        saved := rest, current := x.current.set q (some (tget {} s.saves img : SaveImage).task) }).post s.cycle 3 870 .restore [l, q, img])))
    ∧ (ended → x.saved = [] → ∀ t ts, (x.work[q]?).getD [] = t :: ts → exec .taskEnd s = .next (ends (({ s with free := s.free + 1 }.setLaunch l { x with
        work := x.work.set q ts, current := x.current.set q (some t) }).post (s.cycle + 1 + Config.dispatchDelay s.free) 3 870 .taskStart [l, q, t])))
    ∧ (ended → x.saved = [] → (x.work[q]?).getD [] = [] → exec .taskEnd s = .next (ends (s.setLaunch l { x with current := x.current.set q none }))))
  ∧ (∀ (s : State) (l reason extra : Nat), s.arg = [l, reason, extra] →
    let x := s.launchOf l
    let m : Msg := { hdr := unitHdr 5 4 x.die (l % 65536) 16, pay := BitVec.ofNat 960 (l % 2 ^ 32 + x.fault * 2 ^ 32 + reason * 2 ^ 40 + extra * 2 ^ 64) }
    (x.from_ = none → exec .launchNotice s = .next (s.toHost x.die (s.hnode x.ctx) (s.hmbox x.ctx) m))
    ∧ (∀ g th, x.from_ = some (g, th) → exec .launchNotice s = .next
      (({ s with uid := s.uid + 1 }.setSent s.uid { msg := { m with uid := s.uid }, dest := .slot g, thread := th }).offerTo x.die 53 (g / 32768)
        (s.part.stopOf (g / 512)) (g / 16 % 8) 1 s.cycle 0 (.msg s.uid))))
  ∧ (∀ (s : State) (l : Nat), s.arg = [l] →
    let x := s.launchOf l
    let qs := s.standing l
    let free := (s.freeMills x.die).length + (s.coming x.die).1
    let budget := s.part.budget + (s.coming x.die).2 - s.committed x.die
    let gets := fun (r k : Nat) => (s.launchOf r).fit (free + k * x.crewSize) (budget + k * x.crewSize * x.watts)
    let first := (s.waiting x.die).find? (fun r =>
      x.prio ≤ (s.launchOf r).prio && (s.launchOf r).fit free (2 ^ 20) == 0 && 0 < gets r qs.length)
    (x.ended = true ∨ qs = [] ∨ (∀ e, x.sliceEnd = some e → s.cycle < e) → exec .sliceExpiry s = .next s)
    ∧ (first = none → exec .sliceExpiry s = .next s)
    ∧ (∀ e r k, x.ended = false → qs ≠ [] → x.sliceEnd = some e → e ≤ s.cycle → first = some r → k ≤ qs.length → gets r qs.length ≤ gets r k →
        (∀ j, j < k → gets r j < gets r qs.length) → exec .sliceExpiry s =
          .next ((qs.take k).foldl (fun t q => t.post (s.cycle / 32 * 32 + 32) 0 2 .vacate [l, q]) s)))
  ∧ (∀ (s : State) (die ctx : Nat), s.arg = [die, ctx] →
    let ls := (s.launches.filter (fun kl => kl.2.ctx == ctx && !kl.2.ended && !kl.2.mills.isEmpty)).map (·.1)
    let t := (List.range 8).foldl (fun t d => t.switchOut d ctx t.cycle) (s.writeSnapshot ctx)
    let snap := fieldOf (s.context ctx).record 103 52
    ((∀ d, d < 8 → d ∈ (s.context ctx).out) → (∀ d ∈ s.agenda, d.at_ ≤ s.cycle → ∀ l q, d.what = .event .vacate [l, q] → (s.launchOf l).ctx ≠ ctx) →
      exec .waitBudgetExpiry s = .next s)
    ∧ (∀ d, d < 8 → d ∉ (s.context ctx).out → exec .waitBudgetExpiry s = .next (ls.foldl (fun t l => (t.updLaunch l (fun x => { x with snap := snap })).post t.cycle 3 880
      .launchNotice [l, 2, snap]) t)))

/-- Launches and tasks, as events: records, the dispatcher, tasks, notices, slices and waiting budgets. -/
def Obligations.LaunchEvents : Prop :=
  Claims.Dispatching ∧ Claims.TaskEnds

/-- A restore (R375): the image of a crew goes into the mills of another. First the ponds, scoreboards, cores and engines, and the
barriers; then what names the threads, and the image leaves; the quarantine drains and the copy units go on; the threads take their
slots, where a running or parked one has the registers that it had and its turn from the next round boundary on, and what they waited
for is entered again; and notices and the slice follow. A mill's pond holds its image, but for dry banks.
Where a thread goes that finds its place taken is the model's reading (log 98). -/
def Claims.Restores : Prop :=
  (∀ (s : State) (l q img : Nat) (ms : List Nat), s.arg = [l, q, img] → ((s.launchOf l).crews[q]?).getD none = some ms →
    let im : SaveImage := tget {} s.saves img
    let map := s.placeSaved im ms
    let key := s.rekey im ms q
    let t := (s.restoreMills im ms map key).restoreWork l q img im ms map key
    let t := (t.restoreCopies l q im ms).restoreThreads im map ((t.cycle + 32) / 32 * 32) key
    exec .restore s = .next (((t.restoreNotices map).restartSlice l).post (s.cycle + 1) 8 q .taskEnd [l, q]))
  ∧ (∀ (s : State) (im : SaveImage) (k nm : Nat) (new : Nat → Nat), Tab.wf {} s.mills = true → s.pond.wf = true →
    ((im.pond[k]?).getD []).wf = true → (∀ kb ∈ (im.pond[k]?).getD [], kb.1 < 2 ^ 21) →
    let t := s.putMill im k nm new
    (∀ off, off < 2 ^ 21 → memByte t.pond (2 ^ 21 * nm + off) = if (s.mill nm).isDry off then 0 else memByte ((im.pond[k]?).getD []) off)
    ∧ (∀ a, a / 2 ^ 21 ≠ nm → memByte t.pond a = memByte s.pond a)
    ∧ (t.mill nm).sb = (im.sb[k]?).getD [] ∧ (t.mill nm).full = (im.full[k]?).getD [])
  ∧ (∀ (s : State) (x : Slot) (g b : Nat) (new key : Nat → Nat), x.st = .running ∨ (∃ w, x.st = .parked w) →
    (∀ e ∈ x.rb, e.landed = true ∨ e.claimed = true) → x.heldLate = [] →
    let refit := fun (e : Entry) => { e with
      acc := e.acc.map (fun (a : Access) => { a with slot := g })
      form := (match e.form with | .bar k n => EForm.bar (key k) n | f => f)
      job := e.job.map (fun j => g / 512 * 2 ^ 21 + j % 2 ^ 21) }
    let y := { x with link := x.link.map new, due := none, lastLine := none, heldLate := [], open_ := (s.slot g).open_
                      gens := x.gens.foldl (fun t (kv : Nat × Nat) => tput 0 t (key kv.1) kv.2) [], rb := x.rb.map refit }
    s.putSlot x g b new key = ((s.setSlot g y).turnAt g b).claims g)
  ∧ (∀ (s : State) (x : Slot) (g b : Nat) (new key : Nat → Nat) (e : Entry) (a : Access), x.st = .parked .marker → x.heldLate = [] →
    x.rb = [e] → e.landed = false → e.claimed = false → e.acc = some a → (e.form = .fe ∨ e.form = .feG ∨ ∃ w, e.form = .chk w) →
    let a' : Access := { a with slot := g }
    let y := { x with link := x.link.map new, due := none, lastLine := none, heldLate := [], open_ := (s.slot g).open_
                      gens := x.gens.foldl (fun t (kv : Nat × Nat) => tput 0 t (key kv.1) kv.2) []
                      rb := [{ e with acc := some a', job := e.job.map (fun j => g / 512 * 2 ^ 21 + j % 2 ^ 21) }] }
    let t := s.setSlot g y
    let ranges := rangesOf (t.bindsOfWord (t.launchOfSlot g) a.addr)
    let u := if e.form = .feG then t.updEntry g e.uid (fun z => { z with acq := ranges.1, acqWide := ranges.2 }) else t
    s.putSlot x g b new key = ((u.issueAccess a').turnAt g b).claims g)

/-- Commands of the host's management path and of contexts (R352 to R354, R373 to R376, R380): what each does when it is
carried out.
CREATE of an id in use (log 150), codes, bounds and times of commands, opaque signatures and keys, the layout of a session's messages, the place of a context's record and a
kill under a vacate are the model's (log 11, 72, 88, 89, 90, 91, 93, 96, 125, 126). -/
def Obligations.HostCommandEvents : Prop :=
  (∀ (s : State) (node iv tag bytes ct : Nat) (key : BitVec 256) (x : Nat), s.arg = [node, iv, tag, bytes, ct] →
    s.sessions.lookup node = some key → gcmOpen key iv bytes ct tag = some x →
    let ctx := x % 256
    (exec .create s = .next (
      let r : Line := BitVec.ofNat 512 x
      let c := fieldOf r 255 248
      if fieldOf r 511 256 / 2 ^ 6 ≠ 0 ∨ r.getLsbD 256 = false then s.sessionAnswer node (.failed .features)
      else if 256 ≤ ((List.range 256).filter s.ctxExists).length then s.sessionAnswer node (.failed .full)
      else if s.ctxExists c = true then s.sessionAnswer node (.failed .taken)
      else (({ s with contexts := tput {} s.contexts c { record := r } }).keepRecord c r).sessionAnswer node .done))
    ∧ exec .destroy s = .next (
      let u := s.switchOutAll ctx
      let mine := (u.launches.filter (fun kl => kl.2.ctx == ctx && !kl.2.ended)).map (·.1)
      if s.ctxExists ctx = false then s.sessionAnswer node (.failed .noContext)
      else if mine.any (fun l => !(u.launchOf l).mills.isEmpty) then u.post (u.cycle + 8) 3 872 .destroy [node, ctx]
      else (u.dropContext ctx mine).sessionAnswer node .done)
    ∧ (exec .loadkey s = .next (
      if s.ctxExists ctx = false then s.sessionAnswer node (.failed .noContext)
      else { s with contexts := tput {} s.contexts ctx { s.context ctx with
        keys := tput 0 (s.context ctx).keys (x / 2 ^ 8 % 2 ^ 16) (BitVec.ofNat 512 (x / 2 ^ 24)) } }.sessionAnswer node .done))
    ∧ (exec .quote s = .next (
      if s.ctxExists ctx = false then s.sessionAnswer node (.failed .noContext)
      else
        let body := (Config.firmwareDigest s.fwRel).toNat + s.fwRel % 2 ^ 32 * 2 ^ 256 + featAdv0 * 2 ^ 288 + s.part.grade * 2 ^ 544
          + ctx * 2 ^ 552 + x / 2 ^ 8 % 2 ^ 256 * 2 ^ 560
        s.sessionAnswer node (.quote body (Config.attestationSign body) s.attestationCert s.identityCert))))
  ∧ (∀ (s : State) (node iv tag bytes ct : Nat) (i : Instr), s.arg = [node, iv, tag, bytes, ct] →
    i ∈ ([.create, .destroy, .loadkey, .quote] : List Instr) →
    (s.sessions.lookup node = none → exec i s = .next (s.sessionAnswer node (.failed .noSession)))
    ∧ (∀ key, s.sessions.lookup node = some key → gcmOpen key iv bytes ct tag = none →
      exec i s = .next (s.sessionAnswer node (.failed .notAuthentic))))
  ∧ (∀ (s : State) (node ctx : Nat), s.arg = [node, ctx] →
    let mine := (s.launches.filter (fun kl => kl.2.ctx == ctx && !kl.2.ended)).map (·.1)
    exec .destroy s = .next (if mine.any (fun l => !(s.launchOf l).mills.isEmpty) then s.post (s.cycle + 8) 3 872 .destroy [node, ctx]
      else (s.dropContext ctx mine).sessionAnswer node .done))
  ∧ (∀ (s : State) (ctx : Nat) (ls : List Nat), Tab.wf {} s.launches = true → Tab.wf {} s.dies = true →
    let t := s.dropContext ctx ls
    t.contexts = tdel s.contexts ctx ∧ t.pond = s.pond ∧ (∀ k ∈ t.saves, k.2.launch ∉ ls) ∧ (∀ k ∈ s.saves, k.2.launch ∉ ls →
      (∀ j ∈ s.saves, j.1 = k.1 → j = k) → k ∈ t.saves)
    ∧ (∀ l ∈ ls, (t.launchOf l).ended = true ∧ (t.launchOf l).pending = false ∧ (t.launchOf l).saved = [])
    ∧ (∀ d, d < 8 → ∀ l ∈ (t.die d).pool, l ∉ ls))
  ∧ (∀ (s : State) (die ctx tag l mask count : Nat), s.arg = [die, ctx, tag, l, mask, count] →
    let pick := if mask ≠ 0 then (s.standing l).filter (fun q => mask.testBit q) else (s.standing l).take count
    (s.names die ctx l = true → (mask = 0 ↔ count ≠ 0) → pick ≠ [] →
      exec .preempt s = .next ((s.vacateAt l pick (s.cycle / 32 * 32 + 32)).reply die ctx tag 1 true))
    ∧ (s.names die ctx l = false ∨ ¬(mask = 0 ↔ count ≠ 0) ∨ pick = [] → exec .preempt s = .next (s.reply die ctx tag 1 false)))
  ∧ (∀ (s : State) (die ctx tag : Nat), s.arg = [die, ctx, tag] →
    exec .switchout s = .next ((s.switchOutAll ctx).reply die ctx tag 2 true)
    ∧ exec .switchin s = .next (((List.range 8).foldl (fun (t : State) d => t.post t.cycle 3 860 .dispatch [d])
        { s with contexts := tput {} s.contexts ctx { s.context ctx with out := [] } }).reply die ctx tag 3 true))
  ∧ (∀ (s : State) (die ctx tag g mode : Nat), s.arg = [die, ctx, tag, g, mode] → mode ≤ 2 → g < 2 ^ 18 →
    (s.slot g).st.hasThread = true → g % 128 ≠ 127 → s.ctxOfSlot g = ctx →
    exec .resume s = .next ((if (s.slot g).st.code = 3 ∨ (s.slot g).st.code = 4 then s.resumeSlot g mode else s).reply die ctx tag 4 true))
  ∧ (∀ (s : State) (die ctx tag fpol hslot : Nat), s.arg = [die, ctx, tag, fpol, hslot] → fpol ≤ 1 → hslot < 2 ^ 24 →
    let r := setField (setField (s.context ctx).record 247 246 fpol) 245 222 hslot
    exec .handler s = .next (({ s with contexts := tput {} s.contexts ctx { s.context ctx with record := r } }.keepRecord ctx r).reply
      die ctx tag 5 true))
  ∧ (∀ (s : State) (die ctx tag l : Nat), s.arg = [die, ctx, tag, l] →
    exec .kill s = .next (if s.names die ctx l then (s.killLaunch l).reply die ctx tag 6 true else s.reply die ctx tag 6 false))
  ∧ (∀ (s : State) (die ctx tag l wait slice : Nat), s.arg = [die, ctx, tag, l, wait, slice] →
    let x := s.launchOf l
    let runs := x.mills ≠ []
    let start := match x.sliceEnd with | some e => e - 1024 * x.slice | none => s.cycle
    let e := max s.cycle (start + 1024 * slice)
    let record := setField (setField x.record 319 288 wait) 287 256 slice
    let u := if slice = 0 ∨ ¬runs then s.setLaunch l { x with record := record, sliceEnd := none, spent := false }
      else (s.setLaunch l { x with record := record, sliceEnd := some e, spent := false }).post e 3 890 .sliceExpiry [l]
    (s.names die ctx l = false ∨ 2 ^ 32 ≤ wait ∨ 2 ^ 32 ≤ slice → exec .budget s = .next (s.reply die ctx tag 7 false))
    ∧ (s.names die ctx l = true → wait < 2 ^ 32 → slice < 2 ^ 32 → exec .budget s = .next
      ((u.checkBudget l).reply die ctx tag 7 true)))
  ∧ (∀ (u : State) (l : Nat),
    let x := u.launchOf l
    let wait := fieldOf x.record 319 288 * 1024
    let spent := x.pending = false ∧ x.ended = false ∧ x.mills ≠ [] ∧ wait ≠ 0 ∧ x.spent = false ∧ (wait : Int) ≤ x.charged
    (spent → u.checkBudget l = (u.setLaunch l { x with spent := true }).stopContext x.die x.ctx) ∧ (¬spent → u.checkBudget l = u))
  ∧ (∀ (s : State) (l q : Nat) (ms : List Nat), ((s.launchOf l).crews[q]?).getD none = some ms →
    (s.arg = [l, q] → s.vacating l q = false → exec .vacate s = .next (s.beginVacate l q ms))
    ∧ (s.arg = [l, q, 1] → s.vacating l q = true → exec .vacate s = .next (s.pollVacate l q ms)))
  ∧ Claims.Restores
  ∧ (∀ (s : State) (node share : Nat), s.arg = [node, share] →
    let h := Config.sessionHalf (BitVec.ofNat 12544 share)
    let a := Answer.session h (Config.identitySign h)
    exec .authenticatedSession s = .next (({ s with sessions := tins s.sessions node (Config.sessionKey (BitVec.ofNat 12544 share)) }.manage
      node 0 a.text.1 0 0 a.text.2).answerTo node a))
  ∧ (∀ (s : State) (u a : Nat),
    (s.arg = [0, u, a] → exec .managementPathRead s = .next (s.answerTo 4096 (.line (s.llcLine (a / 64) 0))))
    ∧ (s.arg = [1, u, a] → exec .managementPathRead s = .next (s.answerTo 4096 (.cached (tget [] (s.core u).l1 (l1Set a)))))
    ∧ (s.arg = [2, u, a] → exec .managementPathRead s = .next (s.answerTo 4096 (.cached (s.l2Lines u (l2Set a)))))
    ∧ (s.arg = [4, u, a] → exec .managementPathRead s = .next (s.answerTo 4096 (.slot (s.slot u))))
    ∧ (s.arg = [7, u, a] → exec .managementPathRead s = .next (s.answerTo 4096 (.mill (s.mill u))))
    ∧ (s.arg = [8, u, a] → exec .managementPathRead s = .next (s.answerTo 4096
        (.line (BitVec.ofNat 512 (memRead s.pond (u * 2 ^ 21 + a / 64 * 64) 64))))))

/-- The package (R122, R290 to R302, R378, R379): freeze at the next round boundary, reset, boot, the enumeration table, a
host's request of an opened range, fabric windows, sequence numbers, the skyclock, format windows.
A reset's memory, the table at boot, a host's view under a key, opened ranges, flits of ports and own windows are the
model's (log 74, 75, 76, 77, 78, 79, 81). -/
def Obligations.PackageEvents : Prop :=
  (∀ s : State, (s.arg = [] → exec .freeze s = .next (s.post (s.cycle / 32 * 32 + 32) 0 9 .freeze [1]))
    ∧ (s.arg = [1] → exec .freeze s = .next { s with frozen := true }))
  ∧ (∀ s : State, ∃ t, exec .reset s = .next t ∧ t.cycle = 0 ∧ t.frozen = false ∧ t.slots = [] ∧ t.cores = [] ∧ t.clusters = [] ∧ t.mills = []
    ∧ t.dies = [] ∧ t.slices = [] ∧ t.contexts = [] ∧ t.launches = [] ∧ t.mem = [] ∧ t.pond = [] ∧ t.part = s.part ∧ t.skyUnsync = true)
  ∧ (∀ (s : State) (rel : Nat), s.arg = [rel, 0] → exec .boot s = .next { s with answers := s.answers ++ [(4096, .fetchImage)] })
  ∧ (∀ (s : State) (rel : Nat), s.arg = [rel, 1] →
    let t := { s with fwRel := rel }
    let u := t.liveClusters.foldl (fun u c => if (u.cluster c).retired then u else u.loadSupervisor c) t
    exec .boot s = .next (u.enumKeys.foldl (fun v k => v.writeRecord k.1 k.2 v.tableGen) u))
  ∧ (∀ s : State, s.arg.length ≠ 5 →
    let t := (s.writeRecords (s.tableGen + 1) s.arg).writeRecord 1 0 (s.tableGen + 1)
    exec .enumTableUpdate s = .next ({ t with tableGen := s.tableGen + 1 }.post t.cycle 3 931 .machineCheck [4, 0, 0]))
  ∧ (∀ (s : State) (p seq : Nat),
    let x : Port := tget {} s.ports_ p
    s.arg = [p, seq] → exec .fabricReplay s =
      .next { s with ports_ := tput {} s.ports_ p { x with again := x.again ++ x.replay.dropWhile (fun f => f.seq != seq) } })
  ∧ (∀ (s : State) (p side data : Nat), s.arg = [p, side, data] →
    let x : Port := tget {} s.ports_ p
    let f : FFlit := { side := BitVec.ofNat 64 side, data := BitVec.ofNat 512 data }
    (f.checks = false ∨ 4 < f.cls → exec .fabricReplay s =
      .next { s with ports_ := tput {} s.ports_ p { x with errors := x.errors + 1, asked := some x.recvSeq } })
    ∧ (f.checks = true → f.cls < 3 → f.seq ≠ x.recvSeq → exec .fabricReplay s = .next s)
    ∧ (f.checks = true → f.cls < 3 → f.seq = x.recvSeq → f.dst ≠ s.part.pkgix → exec .fabricReplay s =
      .next { s with ports_ := tput {} s.ports_ p { x with recvSeq := (x.recvSeq + 1) % 65536, asked := none, errors := x.errors + 1 } }))
  ∧ (∀ (s : State) (node a tag : Nat) (c m d : Nat), s.arg = [node, a, 0, m, d, tag] → c < 256 → s.ctxExists c = true →
    (a / 64 * 64).testBit 51 = false →
    (∃ r ∈ (s.context c).opened, r.1 = node ∧ r.2.1 ≤ a / 64 * 64 ∧ a / 64 * 64 + 64 ≤ r.2.1 + r.2.2) →
    let attr := match s.llcGet (a / 64 * 64 / 64) with | some l => l.attr | none => 0
    let t := s.llcFill (a / 64 * 64 / 64) attr
    exec .hostMemoryRequest s = .next (t.hostResponse (homeStack (a / 64 * 64) attr) node tag 0 (t.llcLine (a / 64 * 64 / 64) attr)))
  ∧ (∀ (s : State) (node a st m d tag : Nat), s.arg = [node, a, st, m, d, tag] →
    (∀ c, c < 256 → s.ctxExists c = true → ∀ r ∈ (s.context c).opened, r.1 ≠ node) →
    let attr := match s.llcGet (a / 64 * 64 / 64) with | some l => l.attr | none => 0
    exec .hostMemoryRequest s = .next (s.hostResponse (homeStack (a / 64 * 64) attr) node tag 0x04 0))
  ∧ (∀ (s : State) (ctx node start len : Nat), s.arg = [ctx, node, start, len] → s.ctxExists ctx = true →
    exec .hostMemoryRequest s = .next { s with contexts := tput {} s.contexts ctx { s.context ctx with
      opened := (s.context ctx).opened ++ [(node, start, len)] } })
  ∧ (∀ (s : State) (r : Nat), s.arg = [r] → (s.reqs.lookup r).isSome = true → s.windowNode (s.req r).pa = s.part.pkgix →
    exec .windowAccess s = .next ((s.setReq r { s.req r with pa := (s.req r).pa % 2 ^ 51, attr := 32, llc := true }).llcServe r))
  ∧ (∀ (s : State) (sync ppm err : Nat), s.arg = [sync, ppm, err] → err = s.skyErr →
    exec .skyclockDiscipline s = .next { s with
      skyUnsync := decide (sync = 0), skyTime := s.skyParts, skyAt := s.cycle, skyPpm := ((min ppm 200 : Nat) : Int) - 100, skyErr := err })
  ∧ (∀ (s : State) (stack w v : Nat), s.arg = [stack, w, v] →
    exec .formatWindowWrite s = .next { s with windows := tput 0 s.windows (16 * stack + w) (BitVec.ofNat 256 v) })

/-- The combine control and deposits (R395 to R399, R402). That cbres is served through the tables as they stand, that NOSLOT answers in a
combined slot too, and that a slot never used counts no late deposit, are the model's (log 52, 53, 54). An answer leaves as a response of its slot's lane 0, and the
request is gone. cbq answers FULL (2) where its queue has slots or another context holds it, else it takes its operands as the queue's
configuration and answers 0; cbstat answers 3 for a handle of another generation, else the slot's state, queue, present
deposits and the queue's count of late ones. A deposit for a slot that is free or of another generation answers 4 and is
counted as late, as is one at or after the deadline; one of an expert that is not named 3, of one that has deposited 2;
else it is kept and answers 0, and the last one combines. -/
def Claims.ControlAnswers : Prop :=
  let back := fun (s : State) (die stop c v : Nat) =>
    let r := s.control c
    let t := { s with controls := tdel s.controls c }
    t.offer die stop (t.part.stopOf (t.follow r.slot / 512)) 0 1 t.cycle 3 (.crewResp (t.follow r.slot) r.uid (BitVec.ofNat 4096 v) none)
  (∀ (s : State) (die c : Nat), s.arg = [die, c, 1] → (s.controls.lookup c).isSome = true → (s.control c).kind = 0 →
    let r := s.control c
    let q := (r.r.headD 0).toNat % 64
    let x := s.queue die q
    let taken := x.order ≠ [] ∨ (∃ k, x.ctx = some k ∧ k ≠ r.ctx)
    (taken → exec .combineControlServe s = .next (back s die 60 c 2))
    ∧ (¬taken → exec .combineControlServe s = .next (back (s.setQueue die q { x with ctx := some r.ctx, cfg := r.r, late := 0 }) die 60 c 0)))
  ∧ (∀ (s : State) (die c : Nat), s.arg = [die, c, 1] → (s.controls.lookup c).isSome = true → (s.control c).kind = 2 →
    let h := ((s.control c).r.headD 0).toNat
    let n := h % 2048
    let x := s.cslot die n
    let late := if x.used then (s.queue die x.q).late else 0
    let v := if x.gen ≠ h / 2048 % 32 then 3
      else x.st + x.q * 2 ^ 8 + (if x.st = 0 then 0 else x.present) * 2 ^ 40 + late * 2 ^ 48
    exec .combineControlServe s = .next (back s die (n / 32) c v))
  ∧ (∀ (s : State) (die c : Nat), s.arg = [die, c, 1] → (s.controls.lookup c).isSome = true → (s.control c).kind = 1 →
    exec .combineControlServe s = .next (s.serveCbres die c))
  ∧ (∀ (s : State) (d : Nat), s.arg = [d] → (s.controls.lookup d).isSome = true →
    let r := s.control d
    let h := (r.r.headD 0).toNat
    let die := r.slot / 32768
    let n := h % 2048
    let e := h / 2 ^ 16 % 256
    let stop := h / 32 % 64
    let c := s.cslot die n
    let live := c.st ≠ 0 ∧ c.gen = h / 2048 % 32
    let late := ¬live ∨ (c.experts.contains e = true ∧ c.has e = false ∧ ∃ t, c.deadline = some t ∧ t ≤ s.cycle)
    let x := s.queue die c.q
    (late → exec .cbputDeposit s =
      .next (back (if c.used then s.setQueue die c.q { x with late := min (x.late + 1) 65535 } else s) die stop d 4))
    ∧ (live → c.experts.contains e = false → exec .cbputDeposit s = .next (back s die stop d 3))
    ∧ (live → c.experts.contains e = true → c.has e = true → exec .cbputDeposit s = .next (back s die stop d 2))
    ∧ (live → c.experts.contains e = true → c.has e = false → (∀ t, c.deadline = some t → s.cycle < t) →
      let y := { c with deposits := tins c.deposits e r.data }
      let t := s.setCslot die n y
      exec .cbputDeposit s = .next (back (if y.complete then t.combine die n else t) die stop d 0)))

/-- Combines and their releases (R398 to R400). Where a slot of that generation is open and its own deadline has come, the slot
combines: its 256 elements are weighted sums of the deposits, packed in the queue's format; it is ready 8 cycles for each
weight and 8 more later, and keeps its lines and its flags. A released line that has been performed is counted, and, of
releases with none left, in order, the message leaves for its slot 8 cycles later. -/
def Claims.Combines : Prop :=
  (∀ (s : State) (die n gen : Nat), s.arg = [die, n, gen] →
    let c := s.cslot die n
    let x := s.queue die c.q
    let w := c.weights x.renorm
    let es := (List.range 256).map (c.element x w.1)
    let out := packBits (tyBits x.outTy) (es.map (·.1))
    let ready := s.cycle + 8 * w.1.length + 8
    (c.st = 1 → c.gen = gen → (∃ d, c.deadline = some d ∧ d ≤ s.cycle) → exec .combineDeadline s = .next ((s.setCslot die n { c with
      st := 2, ready := ready, flags := es.foldl (fun f e => f ||| e.2) w.2
      out := (List.range (x.chunk / 64)).map (fun k => BitVec.ofNat 512 (out / 2 ^ (512 * k))) }).post ready 3 670 .combineRelease [die, n]))
    ∧ (c.st ≠ 1 ∨ c.gen ≠ gen ∨ (∀ d, c.deadline = some d → s.cycle < d) → exec .combineDeadline s = .next s))
  ∧ (∀ (s : State) (r : Nat), s.arg = [r] →
    let y : CRel := tget {} s.rels r
    let t := { s with rels := tins s.rels r { y with left := y.left - 1 } }
    let x := t.queue y.die y.q
    (∀ h rest, x.rels = h :: rest → (tget {} t.rels h : CRel).left ≠ 0 → exec .combineRelease s = .next t)
    ∧ (∀ h, x.rels = [h] → (tget {} t.rels h : CRel).left = 0 → exec .combineRelease s =
        .next (({ t with rels := tdel t.rels h }.setQueue y.die y.q { x with rels := [] }).sendAt (t.cycle + 8)
          { msg := (tget {} t.rels h : CRel).msg, dest := .slot (tget {} t.rels h : CRel).dest }))
    ∧ exec .combineRelease s = .next (t.sendRels y.die y.q 2048))
  ∧ (∀ (s : State) (die n : Nat), s.arg = [die, n] → exec .combineRelease s = .next (s.pumpQueue die (s.cslot die n).q 2048))

/-- Graphs and the starts of runs (R409, R410, R412 to R414). A loaded image that faults writes nothing and is a late fault;
one that finds a handle of the 64 free and room among the 4,096 nodes takes the lowest handle, and its status lands; else FULL
(2) lands. A run waits, a cycle at a time, for the accesses its thread had open; where 8 runs are in progress on the die it
is FULL; a handle of no graph lands a code of its own; an accepted run waits for its start time, and starts at the first
cycle at or after it, with credit posted, and the nodes fire that nothing holds. -/
def Claims.GraphStarts : Prop :=
  let lands := fun (s : State) (slot uid v : Nat) => (s.updEntry slot uid (fun e => e.orVal 0 (BitVec.ofNat 2048 v))).landAt slot uid s.cycle
  let faults := fun (s : State) (slot uid seq thread ctx : Nat) (f : Nat × Nat) =>
    ((s.updEntry slot uid (fun e => { e with writes := [] })).landAt slot uid s.cycle).post s.cycle 8 slot .lateFault [slot, f.1, seq, f.2, thread, ctx]
  (∀ (s : State) (slot uid seq thread va ctx word : Nat), s.arg = [slot, uid, seq, thread, va, ctx, word] →
    let gs := ((s.readGraph ctx va).2.die (slot / 32768)).graphs
    let used := gs.foldl (fun n kg => n + kg.2.room) 0
    let s' := (s.readGraph ctx va).2
    (∀ f, (s.readGraph ctx va).1 = .inr f → exec .graphImageLoaded s =
      .next (faults s' slot uid seq thread ctx (f.1, if f.1 = 0x01 then word else f.2)))
    ∧ (∀ g, (s.readGraph ctx va).1 = .inl g → (∀ h, h < 64 → gs.lookup h ≠ none) → exec .graphImageLoaded s = .next (lands s' slot uid 2))
    ∧ (∀ g h, (s.readGraph ctx va).1 = .inl g → h < 64 → gs.lookup h = none → (∀ j, j < h → gs.lookup j ≠ none) →
      exec .graphImageLoaded s = .next (if 4096 < used + g.room then lands s' slot uid 2
        else lands (s'.setGraph (slot / 32768) h g) slot uid (h * 65536))))
  ∧ (∀ (s : State) (id : Nat), s.arg = [id] → (s.runs.lookup id).isSome = true →
    let r := s.run id
    let open_ := ∃ u ∈ r.waits, ∃ p ∈ (s.slot (s.follow r.slot)).open_, p.uid = u
    let again := s.post (s.cycle + 1) 3 690 .runStartTime [id]
    let known := ((s.die r.die).graphs.lookup r.handle).isSome = true
    let full := 8 ≤ (s.runs.filter (fun kr => kr.2.die == r.die && kr.2.st != 0)).length
    let t := { s with runs := tdel s.runs id }
    (r.st = 0 → open_ → exec .runStartTime s = .next again)
    ∧ (r.st = 0 → ¬open_ → ¬known → exec .runStartTime s =
        .next (lands { t with free := t.free + 1 } r.slot r.uid (openCode (Config.openStatus t.free)).toNat))
    ∧ (r.st = 0 → ¬open_ → known → full → exec .runStartTime s = .next (lands t r.slot r.uid 2))
    ∧ (r.st = 0 → ¬open_ → known → ¬full → ∀ f, (t.runBases r).1 = .inr f →
        exec .runStartTime s = .next (faults (t.runBases r).2 r.slot r.uid r.seq r.thread r.ctx f))
    ∧ (r.st = 0 → ¬open_ → known → ¬full → ∀ bs, (t.runBases r).1 = .inl bs →
      let g := s.graph r.die r.handle
      let b := { r with k := g.runs % 65536, bases := bs }
      let u := (t.runBases r).2
      (∀ f, u.runPages b g = .inr f → exec .runStartTime s = .next (faults u r.slot r.uid r.seq r.thread r.ctx f))
      ∧ (∀ ts, u.runPages b g = .inl ts →
        let v := lands (u.setGraph r.die r.handle { g with runs := g.runs + 1 }) r.slot r.uid (b.k * 65536)
        let w := v.setRun id { b with st := 1, pages := ts, late := r.at_.any (fun t => decide (t < v.skyNow)) }
        exec .runStartTime s = .next (if r.at_.all (fun t => decide (t ≤ w.skyNow)) then w.startRun id
          else w.post (w.cycle + 1) 3 690 .runStartTime [id])))
    ∧ (r.st = 1 → r.at_.all (fun t => decide (t ≤ s.skyNow)) = false → exec .runStartTime s = .next again)
    ∧ (r.st = 1 → r.at_.all (fun t => decide (t ≤ s.skyNow)) = true →
      let g := s.graph r.die r.handle
      let timed := g.slotNs != 0 && r.at_.isSome
      let ok := !s.skyUnsync && decide (2 * s.skyErr ≤ g.slotNs)
      let v := s.setRun id { r with st := 2, start := s.skyNow, slotted := timed && ok, skew := timed && !ok }
      exec .runStartTime s = .next (((v.postCredits id).startNodes id ((List.range g.nodes.length).filter (fun i =>
        GNode.waitc (g.node i) == 255 || GNode.thresh (g.node i) == 0))).runCheck id)))

/-- Nodes, the ends of runs and in-switch merges (R405 to R408, R412, R414, R415). A node that is done or has failed acts no more; one whose ranges are not free at
home waits; a send and a receive act as such; a copy or a combine reads its elements, writes what they give, ORs its flags
into the run and is done. A run that ends posts its completion, with its outcome, flags, handle, number, mask and output,
for 8 cycles later, is kept among its graph's last eight, leaves the merges that it has contributed to, and lets its launch's crews look again at
their tasks. A merge waits for the
ranks it lacks, until its time has passed; it may fail, with a mask, else it adds, exactly, what the other members send, and its takers
are the group. A node whose writes to a fabric window are under way completes when they have been performed.
What peers send, the times of nodes, nodes at one cycle and groups are the model's (log 7, 8, 58). -/
def Claims.NodesAndMerges : Prop :=
  (∀ (s : State) (id i : Nat), s.arg = [id, i] → (i ∈ (s.run id).done ∨ i ∈ (s.run id).failed) → exec .nodeComplete s = .next s)
  ∧ (∀ (s : State) (id i : Nat), s.arg = [id, i] → (s.runs.lookup id).isSome = true → i ∉ (s.run id).done → i ∉ (s.run id).failed →
    let r := s.run id
    let g := s.graph r.die r.handle
    let n := g.node i
    let len := fun (acc : Bool) => g.count n * g.stride acc
    let wait := s.post (s.cycle + 1) 3 700 .nodeComplete [id, i]
    let busy := (GNode.reads n && s.rangeBusy r (GNode.sbase n) (GNode.soff n) (len (GNode.sx n)))
      || (GNode.writes n && s.rangeBusy r (GNode.dbase n) (GNode.doff n) (len (GNode.dx n)))
    (i ∈ r.writing → exec .nodeComplete s =
      .next (if s.nodeWrites id i then s else (s.setRun id { r with writing := r.writing.filter (· != i) }).nodeDone id i))
    ∧ (i ∉ r.writing → busy = true → exec .nodeComplete s = .next wait)
    ∧ (i ∉ r.writing → busy = false → GNode.op n = 0 → exec .nodeComplete s = .next (s.sendNode id i wait))
    ∧ (i ∉ r.writing → busy = false → GNode.op n = 1 → exec .nodeComplete s = .next (s.recvNode id i wait))
    ∧ (i ∉ r.writing → busy = false → 2 ≤ GNode.op n →
      let src := s.elemsOf r g n (GNode.sbase n) (GNode.soff n) (GNode.sx n)
      let dst := if GNode.op n = 2 then src.2.elemsOf r g n (GNode.dbase n) (GNode.doff n) (GNode.dx n) else ([], src.2)
      let w := localNode g n src.1 dst.1
      exec .nodeComplete s = .next (((dst.2.setRun id { r with flags := r.flags ||| w.2 }).setElems id i w.1).nodeWrote id i)))
  ∧ (∀ (s : State) (id st : Nat), s.arg = [id, st] → (s.runs.lookup id).isSome = true →
    let r := s.run id
    let g := s.graph r.die r.handle
    let pay := (if st = 3 then 0 else 6) + r.flags * 2 ^ 8 + (if r.late then 2 ^ 16 else 0) + (if r.skew then 2 ^ 17 else 0)
      + r.handle * 2 ^ 32 + r.k * 2 ^ 48 + r.mask * 2 ^ 64 + g.outLen * 2 ^ 128
      + r.addr (g.field 215 211) (g.field 255 216) % 2 ^ 64 * 2 ^ 192 + g.sig * 2 ^ 256
    let s1 := (s.sendAt (s.cycle + 8) { msg := { hdr := unitHdr 6 2 r.die r.tag 48, pay := BitVec.ofNat 960 pay }, dest := .slot r.dest }).setGraph
      r.die r.handle { g with ended := ((r.k, st, r.fired.length, r.done.length) :: g.ended).take 8 }
    let t := ({ s1 with runs := tdel s1.runs id }).leaveMerges id g.myRank
    (t.launches.lookup r.launch = none → exec .runEnd s = .next t)
    ∧ (∀ l, t.launches.lookup r.launch = some l → exec .runEnd s =
        .next ((List.range l.crews.length).foldl (fun u q => u.post (u.cycle + 1) 8 q .taskEnd [r.launch, q]) t)))
  ∧ (∀ (s : State) (m die h i : Nat), s.arg = [m, die, h, i] →
    let g := s.graph die h
    let n := g.node i
    let x : Merge := tget {} s.merges m
    let k := s.free
    let put := fun (y : Merge) => ({ s with free := k + 1, merges := tins s.merges m y } : State)
    let there := s.merges.lookup m ≠ none ∧ x.st = 0
    (¬there → exec .inSwitchMerge s = .next s)
    ∧ (there → s.groupOf g n = none → exec .inSwitchMerge s = .next (s.post (s.cycle + 1) 3 720 .inSwitchMerge [m, die, h, i]))
    ∧ (∀ rs, there → s.groupOf g n = some rs → (∃ r ∈ rs, r ∉ x.ranks) → exec .inSwitchMerge s = .next s)
    ∧ (∀ rs, there → s.groupOf g n = some rs → (∀ r ∈ rs, r ∈ x.ranks) →
      let others := (List.range (g.ranksM1 + 1)).filter (fun r => r != GNode.peer n && !s.rankHere g r && Config.peerMember k r)
      let sums := x.sums.zipIdx.map (fun p =>
        canonXa (others.foldl (fun a o => xaMerge false a (canonXa (Config.peerElement k (p.2 * 8192 + o)).toNat)) p.1))
      (Config.switchFails k = true → exec .inSwitchMerge s = .next (put { x with takers := rs, st := 2, mask := s.maskOf g n x.ranks k }))
      ∧ (Config.switchFails k = false → exec .inSwitchMerge s = .next (put { x with takers := rs, st := 1, sums := sums }))))
  ∧ (∀ (s : State) (m die h i : Nat), s.arg = [m, die, h, i, 1] →
    let g := s.graph die h
    let n := g.node i
    let x : Merge := tget {} s.merges m
    s.merges.lookup m ≠ none → x.st = 0 →
    (s.groupOf g n = none ∨ ∃ rs, s.groupOf g n = some rs ∧ ∃ r ∈ rs, r ∉ x.ranks) →
    exec .inSwitchMerge s = .next { s with
      free := s.free + 1
      merges := tins s.merges m { x with takers := (s.groupOf g n).getD ((s.ranksHere g n).filter (fun r => s.graphsOf g r != [])), st := 2, mask := s.maskOf g n x.ranks s.free } })

/-- Combine control and the windrose, as events.
Malformed graphs, the time of an image and the codes of an unknown handle are the model's (log 7, 10, 55, 56). -/
def Obligations.CombineAndWindroseEvents : Prop :=
  Claims.ControlAnswers ∧ Claims.Combines ∧ Claims.GraphStarts ∧ Claims.NodesAndMerges
end

