-- ==== Sys2Proof/Laws/Code.lean ====
section
/-! SUPPORT. What the view of code can do (R38): a store to lines of code is noted and nothing else, and where none is noted a fill
holds what its request brought and a straddling word is what the instruction cache holds. -/

namespace Sys2Proof.Machine

/-- A store to lines of code changes nothing but the list of such stores. -/
theorem State.codeStore_frame (s : State) (ls : List (Nat × Nat × BitVec 64)) :
    s.codeStore ls = { s with codeStores := (s.codeStore ls).codeStores } := by
  unfold State.codeStore
  dsimp only
  split <;> rfl

theorem State.settleCode_frame (s : State) : s.settleCode = { s with codeStores := s.settleCode.codeStores } := rfl

theorem State.settleCode_of_nil (s : State) (h : s.codeStores = []) : s.settleCode = s := by
  cases s; simp_all [State.settleCode]

theorem State.codeView_of_nil (s : State) (c line attr : Nat) (got : Line) (h : s.codeStores = []) :
    s.codeView c line attr got = got := by
  simp [State.codeView, h]

theorem State.straddle_of_nil (s : State) (c pa l2 at1 at2 : Nat) (d1 d2 : Line) (h : s.codeStores = []) :
    s.straddle c pa l2 at1 at2 d1 d2 = BitVec.ofNat 96 ((d2 ++ d1).toNat / 2 ^ (8 * (pa % 64))) := by
  simp [State.straddle, State.torn, h]

end Sys2Proof.Machine
end

