-- ==== Sys2Proof/Laws/Fabric.lean ====
section
/-! SUPPORT. What a flit that the part makes carries (R296): its fields, and a check that the receiving end accepts. -/

namespace Sys2Proof.Machine

open Sys2Proof

/-- A check stays below 2^16. -/
theorem crcByte_lt (c b : Nat) (h : c < 65536) : crcByte c b < 65536 := by
  unfold crcByte
  suffices ∀ (l : List Nat) (c : Nat), c < 65536 → l.foldl (fun c i =>
    let next := c * 2 % 65536
    if c.testBit 15 != b.testBit (7 - i) then next ^^^ 0x1021 else next) c < 65536 from this _ c h
  intro l
  induction l with
  | nil => intro c h; exact h
  | cons i l ih =>
    intro c h
    apply ih
    have h2 : c * 2 % 65536 < 2 ^ 16 := Nat.mod_lt _ (by decide)
    dsimp only
    split
    · exact Nat.xor_lt_two_pow h2 (by decide)
    · exact h2

theorem flitCrc_lt (d : Line) (s : Word) : flitCrc d s < 65536 := by
  unfold flitCrc
  suffices ∀ (l : List Nat) (c : Nat), c < 65536 → l.foldl crcByte c < 65536 from this _ _ (by decide)
  intro l
  induction l with
  | nil => intro c h; exact h
  | cons i l ih => intro c h; exact ih _ (crcByte_lt c i h)

/-- Bits at or above 16 do not depend on what is added below. -/
theorem bits_low (n c hi lo : Nat) (hn : n % 65536 = 0) (hc : c < 65536) (h : 16 ≤ lo) : bits (n + c) hi lo = bits n hi lo := by
  unfold bits
  have : (n + c) / 2 ^ lo = n / 2 ^ lo := by
    obtain ⟨k, rfl⟩ : ∃ k, lo = 16 + k := ⟨lo - 16, by omega⟩
    rw [Nat.pow_add, ← Nat.div_div_eq_div_mul, ← Nat.div_div_eq_div_mul]
    congr 1
    omega
  simp only [Nat.shiftRight_eq_div_pow, this]

/-- The check reads nothing of the check field. -/
theorem flitCrc_congr (d : Line) (s r : Word) (h : ∀ i, i < 6 → bits s.toNat (63 - 8 * i) (56 - 8 * i) = bits r.toNat (63 - 8 * i) (56 - 8 * i)) :
    flitCrc d s = flitCrc d r := by
  have : (List.range 6).map (fun i => bits s.toNat (63 - 8 * i) (56 - 8 * i)) = (List.range 6).map (fun i => bits r.toNat (63 - 8 * i) (56 - 8 * i)) :=
    List.map_congr_left (fun i hi => h i (List.mem_range.mp hi))
  unfold flitCrc
  rw [this]

theorem checks_of (f : FFlit) (c : Nat) (h : f.crc = c) (k : flitCrc f.data f.side = c) : f.checks = true := by
  unfold FFlit.checks; rw [h, k]; exact beq_self_eq_true c

theorem side_checks (n c : Nat) (h : n % 65536 = 0) (hn : n < 2 ^ 64) (d : Line) (hc : flitCrc d (BitVec.ofNat 64 n) = c) :
    ({ side := BitVec.ofNat 64 n + BitVec.ofNat 64 c, data := d } : FFlit).checks = true := by
  have hl : c < 65536 := hc ▸ flitCrc_lt d _
  have hm : (BitVec.ofNat 64 n).toNat = n := by simp; omega
  have ht : (BitVec.ofNat 64 n + BitVec.ofNat 64 c).toNat = n + c := by simp; omega
  apply checks_of _ c
  · show bits (BitVec.ofNat 64 n + BitVec.ofNat 64 c).toNat 15 0 = c
    rw [ht]; unfold bits; simp [Nat.shiftRight_eq_div_pow]; omega
  · rw [← hc]
    exact (flitCrc_congr d _ _ (fun i hi => by rw [hc, ht, hm]; exact bits_low n c _ _ h hl (by omega)))

/-- A flit that the part makes passes its check. -/
theorem mkFlit_checks (dst src cls len seq : Nat) (head : Bool) (d : Line) : (mkFlit dst src cls head len seq d).checks = true :=
  side_checks _ _ (by split <;> omega) (by split <;> omega) d rfl

/-- Adding a check leaves the bits above it. -/
theorem side_bits (n c : Nat) (h : n % 65536 = 0) (hn : n < 2 ^ 64) (hc : c < 65536) (hi lo : Nat) (hl : 16 ≤ lo) :
    bits (BitVec.ofNat 64 n + BitVec.ofNat 64 c).toNat hi lo = bits n hi lo := by
  rw [show (BitVec.ofNat 64 n + BitVec.ofNat 64 c).toNat = n + c by simp; omega]
  exact bits_low n c _ _ h hc hl

/-- The sideband of a flit above its check. -/
theorem mkFlit_bits (dst src cls len seq : Nat) (head : Bool) (d : Line) (hi lo : Nat) (h : 16 ≤ lo) :
    bits (mkFlit dst src cls head len seq d).side.toNat hi lo =
      bits (dst % 4096 * 2 ^ 52 + src % 4096 * 2 ^ 40 + cls % 8 * 2 ^ 37 + (if head then 2 ^ 36 else 0) + (if head then len % 8 * 2 ^ 33 else 0)
        + seq % 65536 * 2 ^ 16) hi lo :=
  side_bits _ _ (by split <;> omega) (by split <;> omega) (flitCrc_lt d _) hi lo h

/-- The destination, class and sequence number of a flit that the part makes (R296). -/
theorem mkFlit_fields (dst src cls len seq : Nat) (head : Bool) (d : Line) :
    (mkFlit dst src cls head len seq d).dst = dst % 4096 ∧ (mkFlit dst src cls head len seq d).cls = cls % 8
    ∧ (mkFlit dst src cls head len seq d).seq = seq % 65536 := by
  have h1 := mkFlit_bits dst src cls len seq head d 63 52 (by omega)
  have h2 := mkFlit_bits dst src cls len seq head d 39 37 (by omega)
  have h3 := mkFlit_bits dst src cls len seq head d 31 16 (by omega)
  refine ⟨h1.trans ?_, h2.trans ?_, h3.trans ?_⟩ <;> clear h1 h2 h3
  all_goals
    unfold bits
    simp only [Nat.shiftRight_eq_div_pow]
    split <;> omega

end Sys2Proof.Machine
end

