-- ==== Sys2Proof/Laws/State.lean ====
section
/-! SUPPORT. What each update of the state leaves alone: one lemma per update and field. -/

namespace Sys2Proof.Machine

open Sys2Proof

@[simp] theorem State.setSlot_cycle (s : State) (g : Nat) (x : Slot) : (s.setSlot g x).cycle = s.cycle := rfl
@[simp] theorem State.setSlot_cur (s : State) (g : Nat) (x : Slot) : (s.setSlot g x).cur = s.cur := rfl
@[simp] theorem State.setSlot_arg (s : State) (g : Nat) (x : Slot) : (s.setSlot g x).arg = s.arg := rfl
@[simp] theorem State.setSlot_agenda (s : State) (g : Nat) (x : Slot) : (s.setSlot g x).agenda = s.agenda := rfl
@[simp] theorem State.setSlot_frozen (s : State) (g : Nat) (x : Slot) : (s.setSlot g x).frozen = s.frozen := rfl
@[simp] theorem State.setSlot_uid (s : State) (g : Nat) (x : Slot) : (s.setSlot g x).uid = s.uid := rfl
@[simp] theorem State.setSlot_free (s : State) (g : Nat) (x : Slot) : (s.setSlot g x).free = s.free := rfl
@[simp] theorem State.setSlot_part (s : State) (g : Nat) (x : Slot) : (s.setSlot g x).part = s.part := rfl
@[simp] theorem State.setSlot_cores (s : State) (g : Nat) (x : Slot) : (s.setSlot g x).cores = s.cores := rfl
@[simp] theorem State.setSlot_clusters (s : State) (g : Nat) (x : Slot) : (s.setSlot g x).clusters = s.clusters := rfl
@[simp] theorem State.setSlot_mills (s : State) (g : Nat) (x : Slot) : (s.setSlot g x).mills = s.mills := rfl
@[simp] theorem State.setSlot_dies (s : State) (g : Nat) (x : Slot) : (s.setSlot g x).dies = s.dies := rfl
@[simp] theorem State.setSlot_slices (s : State) (g : Nat) (x : Slot) : (s.setSlot g x).slices = s.slices := rfl
@[simp] theorem State.setSlot_net (s : State) (g : Nat) (x : Slot) : (s.setSlot g x).net = s.net := rfl
@[simp] theorem State.setSlot_ports (s : State) (g : Nat) (x : Slot) : (s.setSlot g x).ports = s.ports := rfl
@[simp] theorem State.setSlot_metAt (s : State) (g : Nat) (x : Slot) : (s.setSlot g x).metAt = s.metAt := rfl
@[simp] theorem State.setSlot_reqs (s : State) (g : Nat) (x : Slot) : (s.setSlot g x).reqs = s.reqs := rfl
@[simp] theorem State.setSlot_sents (s : State) (g : Nat) (x : Slot) : (s.setSlot g x).sents = s.sents := rfl
@[simp] theorem State.setSlot_joins (s : State) (g : Nat) (x : Slot) : (s.setSlot g x).joins = s.joins := rfl
@[simp] theorem State.setSlot_walks (s : State) (g : Nat) (x : Slot) : (s.setSlot g x).walks = s.walks := rfl
@[simp] theorem State.setSlot_tiles (s : State) (g : Nat) (x : Slot) : (s.setSlot g x).tiles = s.tiles := rfl
@[simp] theorem State.setSlot_copies (s : State) (g : Nat) (x : Slot) : (s.setSlot g x).copies = s.copies := rfl
@[simp] theorem State.setSlot_controls (s : State) (g : Nat) (x : Slot) : (s.setSlot g x).controls = s.controls := rfl
@[simp] theorem State.setSlot_rels (s : State) (g : Nat) (x : Slot) : (s.setSlot g x).rels = s.rels := rfl
@[simp] theorem State.setSlot_runs (s : State) (g : Nat) (x : Slot) : (s.setSlot g x).runs = s.runs := rfl
@[simp] theorem State.setSlot_links (s : State) (g : Nat) (x : Slot) : (s.setSlot g x).links = s.links := rfl
@[simp] theorem State.setSlot_credits (s : State) (g : Nat) (x : Slot) : (s.setSlot g x).credits = s.credits := rfl
@[simp] theorem State.setSlot_merges (s : State) (g : Nat) (x : Slot) : (s.setSlot g x).merges = s.merges := rfl
@[simp] theorem State.setSlot_codeStores (s : State) (g : Nat) (x : Slot) : (s.setSlot g x).codeStores = s.codeStores := rfl
@[simp] theorem State.setSlot_launches (s : State) (g : Nat) (x : Slot) : (s.setSlot g x).launches = s.launches := rfl
@[simp] theorem State.setSlot_saves (s : State) (g : Nat) (x : Slot) : (s.setSlot g x).saves = s.saves := rfl
@[simp] theorem State.setSlot_savedSlots (s : State) (g : Nat) (x : Slot) : (s.setSlot g x).savedSlots = s.savedSlots := rfl
@[simp] theorem State.setSlot_vacates (s : State) (g : Nat) (x : Slot) : (s.setSlot g x).vacates = s.vacates := rfl
@[simp] theorem State.setSlot_saveAreas (s : State) (g : Nat) (x : Slot) : (s.setSlot g x).saveAreas = s.saveAreas := rfl
@[simp] theorem State.setSlot_barriers (s : State) (g : Nat) (x : Slot) : (s.setSlot g x).barriers = s.barriers := rfl
@[simp] theorem State.setSlot_arrivals (s : State) (g : Nat) (x : Slot) : (s.setSlot g x).arrivals = s.arrivals := rfl
@[simp] theorem State.setSlot_heldMsgs (s : State) (g : Nat) (x : Slot) : (s.setSlot g x).heldMsgs = s.heldMsgs := rfl
@[simp] theorem State.setSlot_contexts (s : State) (g : Nat) (x : Slot) : (s.setSlot g x).contexts = s.contexts := rfl
@[simp] theorem State.setSlot_sessions (s : State) (g : Nat) (x : Slot) : (s.setSlot g x).sessions = s.sessions := rfl
@[simp] theorem State.setSlot_gathers (s : State) (g : Nat) (x : Slot) : (s.setSlot g x).gathers = s.gathers := rfl
@[simp] theorem State.setSlot_mem (s : State) (g : Nat) (x : Slot) : (s.setSlot g x).mem = s.mem := rfl
@[simp] theorem State.setSlot_pond (s : State) (g : Nat) (x : Slot) : (s.setSlot g x).pond = s.pond := rfl
@[simp] theorem State.setSlot_llc (s : State) (g : Nat) (x : Slot) : (s.setSlot g x).llc = s.llc := rfl
@[simp] theorem State.setSlot_fills (s : State) (g : Nat) (x : Slot) : (s.setSlot g x).fills = s.fills := rfl
@[simp] theorem State.setSlot_hbmAttr (s : State) (g : Nat) (x : Slot) : (s.setSlot g x).hbmAttr = s.hbmAttr := rfl
@[simp] theorem State.setSlot_unitBusy (s : State) (g : Nat) (x : Slot) : (s.setSlot g x).unitBusy = s.unitBusy := rfl
@[simp] theorem State.setSlot_full (s : State) (g : Nat) (x : Slot) : (s.setSlot g x).full = s.full := rfl
@[simp] theorem State.setSlot_feWait (s : State) (g : Nat) (x : Slot) : (s.setSlot g x).feWait = s.feWait := rfl
@[simp] theorem State.setSlot_versions (s : State) (g : Nat) (x : Slot) : (s.setSlot g x).versions = s.versions := rfl
@[simp] theorem State.setSlot_windows (s : State) (g : Nat) (x : Slot) : (s.setSlot g x).windows = s.windows := rfl
@[simp] theorem State.setSlot_fabric (s : State) (g : Nat) (x : Slot) : (s.setSlot g x).fabric = s.fabric := rfl
@[simp] theorem State.setSlot_ports_ (s : State) (g : Nat) (x : Slot) : (s.setSlot g x).ports_ = s.ports_ := rfl
@[simp] theorem State.setSlot_poison (s : State) (g : Nat) (x : Slot) : (s.setSlot g x).poison = s.poison := rfl
@[simp] theorem State.setSlot_corrected (s : State) (g : Nat) (x : Slot) : (s.setSlot g x).corrected = s.corrected := rfl
@[simp] theorem State.setSlot_skyUnsync (s : State) (g : Nat) (x : Slot) : (s.setSlot g x).skyUnsync = s.skyUnsync := rfl
@[simp] theorem State.setSlot_skyTime (s : State) (g : Nat) (x : Slot) : (s.setSlot g x).skyTime = s.skyTime := rfl
@[simp] theorem State.setSlot_skyAt (s : State) (g : Nat) (x : Slot) : (s.setSlot g x).skyAt = s.skyAt := rfl
@[simp] theorem State.setSlot_skyPpm (s : State) (g : Nat) (x : Slot) : (s.setSlot g x).skyPpm = s.skyPpm := rfl
@[simp] theorem State.setSlot_skyErr (s : State) (g : Nat) (x : Slot) : (s.setSlot g x).skyErr = s.skyErr := rfl
@[simp] theorem State.setSlot_fwRel (s : State) (g : Nat) (x : Slot) : (s.setSlot g x).fwRel = s.fwRel := rfl
@[simp] theorem State.setSlot_tableGen (s : State) (g : Nat) (x : Slot) : (s.setSlot g x).tableGen = s.tableGen := rfl
@[simp] theorem State.setSlot_hostOut (s : State) (g : Nat) (x : Slot) : (s.setSlot g x).hostOut = s.hostOut := rfl
@[simp] theorem State.setSlot_answers (s : State) (g : Nat) (x : Slot) : (s.setSlot g x).answers = s.answers := rfl

@[simp] theorem State.setCore_cycle (s : State) (c : Nat) (x : Core) : (s.setCore c x).cycle = s.cycle := rfl
@[simp] theorem State.setCore_cur (s : State) (c : Nat) (x : Core) : (s.setCore c x).cur = s.cur := rfl
@[simp] theorem State.setCore_arg (s : State) (c : Nat) (x : Core) : (s.setCore c x).arg = s.arg := rfl
@[simp] theorem State.setCore_agenda (s : State) (c : Nat) (x : Core) : (s.setCore c x).agenda = s.agenda := rfl
@[simp] theorem State.setCore_frozen (s : State) (c : Nat) (x : Core) : (s.setCore c x).frozen = s.frozen := rfl
@[simp] theorem State.setCore_uid (s : State) (c : Nat) (x : Core) : (s.setCore c x).uid = s.uid := rfl
@[simp] theorem State.setCore_free (s : State) (c : Nat) (x : Core) : (s.setCore c x).free = s.free := rfl
@[simp] theorem State.setCore_part (s : State) (c : Nat) (x : Core) : (s.setCore c x).part = s.part := rfl
@[simp] theorem State.setCore_slots (s : State) (c : Nat) (x : Core) : (s.setCore c x).slots = s.slots := rfl
@[simp] theorem State.setCore_clusters (s : State) (c : Nat) (x : Core) : (s.setCore c x).clusters = s.clusters := rfl
@[simp] theorem State.setCore_mills (s : State) (c : Nat) (x : Core) : (s.setCore c x).mills = s.mills := rfl
@[simp] theorem State.setCore_dies (s : State) (c : Nat) (x : Core) : (s.setCore c x).dies = s.dies := rfl
@[simp] theorem State.setCore_slices (s : State) (c : Nat) (x : Core) : (s.setCore c x).slices = s.slices := rfl
@[simp] theorem State.setCore_net (s : State) (c : Nat) (x : Core) : (s.setCore c x).net = s.net := rfl
@[simp] theorem State.setCore_ports (s : State) (c : Nat) (x : Core) : (s.setCore c x).ports = s.ports := rfl
@[simp] theorem State.setCore_metAt (s : State) (c : Nat) (x : Core) : (s.setCore c x).metAt = s.metAt := rfl
@[simp] theorem State.setCore_reqs (s : State) (c : Nat) (x : Core) : (s.setCore c x).reqs = s.reqs := rfl
@[simp] theorem State.setCore_sents (s : State) (c : Nat) (x : Core) : (s.setCore c x).sents = s.sents := rfl
@[simp] theorem State.setCore_joins (s : State) (c : Nat) (x : Core) : (s.setCore c x).joins = s.joins := rfl
@[simp] theorem State.setCore_walks (s : State) (c : Nat) (x : Core) : (s.setCore c x).walks = s.walks := rfl
@[simp] theorem State.setCore_tiles (s : State) (c : Nat) (x : Core) : (s.setCore c x).tiles = s.tiles := rfl
@[simp] theorem State.setCore_copies (s : State) (c : Nat) (x : Core) : (s.setCore c x).copies = s.copies := rfl
@[simp] theorem State.setCore_controls (s : State) (c : Nat) (x : Core) : (s.setCore c x).controls = s.controls := rfl
@[simp] theorem State.setCore_rels (s : State) (c : Nat) (x : Core) : (s.setCore c x).rels = s.rels := rfl
@[simp] theorem State.setCore_runs (s : State) (c : Nat) (x : Core) : (s.setCore c x).runs = s.runs := rfl
@[simp] theorem State.setCore_links (s : State) (c : Nat) (x : Core) : (s.setCore c x).links = s.links := rfl
@[simp] theorem State.setCore_credits (s : State) (c : Nat) (x : Core) : (s.setCore c x).credits = s.credits := rfl
@[simp] theorem State.setCore_merges (s : State) (c : Nat) (x : Core) : (s.setCore c x).merges = s.merges := rfl
@[simp] theorem State.setCore_codeStores (s : State) (c : Nat) (x : Core) : (s.setCore c x).codeStores = s.codeStores := rfl
@[simp] theorem State.setCore_launches (s : State) (c : Nat) (x : Core) : (s.setCore c x).launches = s.launches := rfl
@[simp] theorem State.setCore_saves (s : State) (c : Nat) (x : Core) : (s.setCore c x).saves = s.saves := rfl
@[simp] theorem State.setCore_savedSlots (s : State) (c : Nat) (x : Core) : (s.setCore c x).savedSlots = s.savedSlots := rfl
@[simp] theorem State.setCore_vacates (s : State) (c : Nat) (x : Core) : (s.setCore c x).vacates = s.vacates := rfl
@[simp] theorem State.setCore_saveAreas (s : State) (c : Nat) (x : Core) : (s.setCore c x).saveAreas = s.saveAreas := rfl
@[simp] theorem State.setCore_barriers (s : State) (c : Nat) (x : Core) : (s.setCore c x).barriers = s.barriers := rfl
@[simp] theorem State.setCore_arrivals (s : State) (c : Nat) (x : Core) : (s.setCore c x).arrivals = s.arrivals := rfl
@[simp] theorem State.setCore_heldMsgs (s : State) (c : Nat) (x : Core) : (s.setCore c x).heldMsgs = s.heldMsgs := rfl
@[simp] theorem State.setCore_contexts (s : State) (c : Nat) (x : Core) : (s.setCore c x).contexts = s.contexts := rfl
@[simp] theorem State.setCore_sessions (s : State) (c : Nat) (x : Core) : (s.setCore c x).sessions = s.sessions := rfl
@[simp] theorem State.setCore_gathers (s : State) (c : Nat) (x : Core) : (s.setCore c x).gathers = s.gathers := rfl
@[simp] theorem State.setCore_mem (s : State) (c : Nat) (x : Core) : (s.setCore c x).mem = s.mem := rfl
@[simp] theorem State.setCore_pond (s : State) (c : Nat) (x : Core) : (s.setCore c x).pond = s.pond := rfl
@[simp] theorem State.setCore_llc (s : State) (c : Nat) (x : Core) : (s.setCore c x).llc = s.llc := rfl
@[simp] theorem State.setCore_fills (s : State) (c : Nat) (x : Core) : (s.setCore c x).fills = s.fills := rfl
@[simp] theorem State.setCore_hbmAttr (s : State) (c : Nat) (x : Core) : (s.setCore c x).hbmAttr = s.hbmAttr := rfl
@[simp] theorem State.setCore_unitBusy (s : State) (c : Nat) (x : Core) : (s.setCore c x).unitBusy = s.unitBusy := rfl
@[simp] theorem State.setCore_full (s : State) (c : Nat) (x : Core) : (s.setCore c x).full = s.full := rfl
@[simp] theorem State.setCore_feWait (s : State) (c : Nat) (x : Core) : (s.setCore c x).feWait = s.feWait := rfl
@[simp] theorem State.setCore_versions (s : State) (c : Nat) (x : Core) : (s.setCore c x).versions = s.versions := rfl
@[simp] theorem State.setCore_windows (s : State) (c : Nat) (x : Core) : (s.setCore c x).windows = s.windows := rfl
@[simp] theorem State.setCore_fabric (s : State) (c : Nat) (x : Core) : (s.setCore c x).fabric = s.fabric := rfl
@[simp] theorem State.setCore_ports_ (s : State) (c : Nat) (x : Core) : (s.setCore c x).ports_ = s.ports_ := rfl
@[simp] theorem State.setCore_poison (s : State) (c : Nat) (x : Core) : (s.setCore c x).poison = s.poison := rfl
@[simp] theorem State.setCore_corrected (s : State) (c : Nat) (x : Core) : (s.setCore c x).corrected = s.corrected := rfl
@[simp] theorem State.setCore_skyUnsync (s : State) (c : Nat) (x : Core) : (s.setCore c x).skyUnsync = s.skyUnsync := rfl
@[simp] theorem State.setCore_skyTime (s : State) (c : Nat) (x : Core) : (s.setCore c x).skyTime = s.skyTime := rfl
@[simp] theorem State.setCore_skyAt (s : State) (c : Nat) (x : Core) : (s.setCore c x).skyAt = s.skyAt := rfl
@[simp] theorem State.setCore_skyPpm (s : State) (c : Nat) (x : Core) : (s.setCore c x).skyPpm = s.skyPpm := rfl
@[simp] theorem State.setCore_skyErr (s : State) (c : Nat) (x : Core) : (s.setCore c x).skyErr = s.skyErr := rfl
@[simp] theorem State.setCore_fwRel (s : State) (c : Nat) (x : Core) : (s.setCore c x).fwRel = s.fwRel := rfl
@[simp] theorem State.setCore_tableGen (s : State) (c : Nat) (x : Core) : (s.setCore c x).tableGen = s.tableGen := rfl
@[simp] theorem State.setCore_hostOut (s : State) (c : Nat) (x : Core) : (s.setCore c x).hostOut = s.hostOut := rfl
@[simp] theorem State.setCore_answers (s : State) (c : Nat) (x : Core) : (s.setCore c x).answers = s.answers := rfl

@[simp] theorem State.setCluster_cycle (s : State) (c : Nat) (x : Cluster) : (s.setCluster c x).cycle = s.cycle := rfl
@[simp] theorem State.setCluster_cur (s : State) (c : Nat) (x : Cluster) : (s.setCluster c x).cur = s.cur := rfl
@[simp] theorem State.setCluster_arg (s : State) (c : Nat) (x : Cluster) : (s.setCluster c x).arg = s.arg := rfl
@[simp] theorem State.setCluster_agenda (s : State) (c : Nat) (x : Cluster) : (s.setCluster c x).agenda = s.agenda := rfl
@[simp] theorem State.setCluster_frozen (s : State) (c : Nat) (x : Cluster) : (s.setCluster c x).frozen = s.frozen := rfl
@[simp] theorem State.setCluster_uid (s : State) (c : Nat) (x : Cluster) : (s.setCluster c x).uid = s.uid := rfl
@[simp] theorem State.setCluster_free (s : State) (c : Nat) (x : Cluster) : (s.setCluster c x).free = s.free := rfl
@[simp] theorem State.setCluster_part (s : State) (c : Nat) (x : Cluster) : (s.setCluster c x).part = s.part := rfl
@[simp] theorem State.setCluster_slots (s : State) (c : Nat) (x : Cluster) : (s.setCluster c x).slots = s.slots := rfl
@[simp] theorem State.setCluster_cores (s : State) (c : Nat) (x : Cluster) : (s.setCluster c x).cores = s.cores := rfl
@[simp] theorem State.setCluster_mills (s : State) (c : Nat) (x : Cluster) : (s.setCluster c x).mills = s.mills := rfl
@[simp] theorem State.setCluster_dies (s : State) (c : Nat) (x : Cluster) : (s.setCluster c x).dies = s.dies := rfl
@[simp] theorem State.setCluster_slices (s : State) (c : Nat) (x : Cluster) : (s.setCluster c x).slices = s.slices := rfl
@[simp] theorem State.setCluster_net (s : State) (c : Nat) (x : Cluster) : (s.setCluster c x).net = s.net := rfl
@[simp] theorem State.setCluster_ports (s : State) (c : Nat) (x : Cluster) : (s.setCluster c x).ports = s.ports := rfl
@[simp] theorem State.setCluster_metAt (s : State) (c : Nat) (x : Cluster) : (s.setCluster c x).metAt = s.metAt := rfl
@[simp] theorem State.setCluster_reqs (s : State) (c : Nat) (x : Cluster) : (s.setCluster c x).reqs = s.reqs := rfl
@[simp] theorem State.setCluster_sents (s : State) (c : Nat) (x : Cluster) : (s.setCluster c x).sents = s.sents := rfl
@[simp] theorem State.setCluster_joins (s : State) (c : Nat) (x : Cluster) : (s.setCluster c x).joins = s.joins := rfl
@[simp] theorem State.setCluster_walks (s : State) (c : Nat) (x : Cluster) : (s.setCluster c x).walks = s.walks := rfl
@[simp] theorem State.setCluster_tiles (s : State) (c : Nat) (x : Cluster) : (s.setCluster c x).tiles = s.tiles := rfl
@[simp] theorem State.setCluster_copies (s : State) (c : Nat) (x : Cluster) : (s.setCluster c x).copies = s.copies := rfl
@[simp] theorem State.setCluster_controls (s : State) (c : Nat) (x : Cluster) : (s.setCluster c x).controls = s.controls := rfl
@[simp] theorem State.setCluster_rels (s : State) (c : Nat) (x : Cluster) : (s.setCluster c x).rels = s.rels := rfl
@[simp] theorem State.setCluster_runs (s : State) (c : Nat) (x : Cluster) : (s.setCluster c x).runs = s.runs := rfl
@[simp] theorem State.setCluster_links (s : State) (c : Nat) (x : Cluster) : (s.setCluster c x).links = s.links := rfl
@[simp] theorem State.setCluster_credits (s : State) (c : Nat) (x : Cluster) : (s.setCluster c x).credits = s.credits := rfl
@[simp] theorem State.setCluster_merges (s : State) (c : Nat) (x : Cluster) : (s.setCluster c x).merges = s.merges := rfl
@[simp] theorem State.setCluster_codeStores (s : State) (c : Nat) (x : Cluster) : (s.setCluster c x).codeStores = s.codeStores := rfl
@[simp] theorem State.setCluster_launches (s : State) (c : Nat) (x : Cluster) : (s.setCluster c x).launches = s.launches := rfl
@[simp] theorem State.setCluster_saves (s : State) (c : Nat) (x : Cluster) : (s.setCluster c x).saves = s.saves := rfl
@[simp] theorem State.setCluster_savedSlots (s : State) (c : Nat) (x : Cluster) : (s.setCluster c x).savedSlots = s.savedSlots := rfl
@[simp] theorem State.setCluster_vacates (s : State) (c : Nat) (x : Cluster) : (s.setCluster c x).vacates = s.vacates := rfl
@[simp] theorem State.setCluster_saveAreas (s : State) (c : Nat) (x : Cluster) : (s.setCluster c x).saveAreas = s.saveAreas := rfl
@[simp] theorem State.setCluster_barriers (s : State) (c : Nat) (x : Cluster) : (s.setCluster c x).barriers = s.barriers := rfl
@[simp] theorem State.setCluster_arrivals (s : State) (c : Nat) (x : Cluster) : (s.setCluster c x).arrivals = s.arrivals := rfl
@[simp] theorem State.setCluster_heldMsgs (s : State) (c : Nat) (x : Cluster) : (s.setCluster c x).heldMsgs = s.heldMsgs := rfl
@[simp] theorem State.setCluster_contexts (s : State) (c : Nat) (x : Cluster) : (s.setCluster c x).contexts = s.contexts := rfl
@[simp] theorem State.setCluster_sessions (s : State) (c : Nat) (x : Cluster) : (s.setCluster c x).sessions = s.sessions := rfl
@[simp] theorem State.setCluster_gathers (s : State) (c : Nat) (x : Cluster) : (s.setCluster c x).gathers = s.gathers := rfl
@[simp] theorem State.setCluster_mem (s : State) (c : Nat) (x : Cluster) : (s.setCluster c x).mem = s.mem := rfl
@[simp] theorem State.setCluster_pond (s : State) (c : Nat) (x : Cluster) : (s.setCluster c x).pond = s.pond := rfl
@[simp] theorem State.setCluster_llc (s : State) (c : Nat) (x : Cluster) : (s.setCluster c x).llc = s.llc := rfl
@[simp] theorem State.setCluster_fills (s : State) (c : Nat) (x : Cluster) : (s.setCluster c x).fills = s.fills := rfl
@[simp] theorem State.setCluster_hbmAttr (s : State) (c : Nat) (x : Cluster) : (s.setCluster c x).hbmAttr = s.hbmAttr := rfl
@[simp] theorem State.setCluster_unitBusy (s : State) (c : Nat) (x : Cluster) : (s.setCluster c x).unitBusy = s.unitBusy := rfl
@[simp] theorem State.setCluster_full (s : State) (c : Nat) (x : Cluster) : (s.setCluster c x).full = s.full := rfl
@[simp] theorem State.setCluster_feWait (s : State) (c : Nat) (x : Cluster) : (s.setCluster c x).feWait = s.feWait := rfl
@[simp] theorem State.setCluster_versions (s : State) (c : Nat) (x : Cluster) : (s.setCluster c x).versions = s.versions := rfl
@[simp] theorem State.setCluster_windows (s : State) (c : Nat) (x : Cluster) : (s.setCluster c x).windows = s.windows := rfl
@[simp] theorem State.setCluster_fabric (s : State) (c : Nat) (x : Cluster) : (s.setCluster c x).fabric = s.fabric := rfl
@[simp] theorem State.setCluster_ports_ (s : State) (c : Nat) (x : Cluster) : (s.setCluster c x).ports_ = s.ports_ := rfl
@[simp] theorem State.setCluster_poison (s : State) (c : Nat) (x : Cluster) : (s.setCluster c x).poison = s.poison := rfl
@[simp] theorem State.setCluster_corrected (s : State) (c : Nat) (x : Cluster) : (s.setCluster c x).corrected = s.corrected := rfl
@[simp] theorem State.setCluster_skyUnsync (s : State) (c : Nat) (x : Cluster) : (s.setCluster c x).skyUnsync = s.skyUnsync := rfl
@[simp] theorem State.setCluster_skyTime (s : State) (c : Nat) (x : Cluster) : (s.setCluster c x).skyTime = s.skyTime := rfl
@[simp] theorem State.setCluster_skyAt (s : State) (c : Nat) (x : Cluster) : (s.setCluster c x).skyAt = s.skyAt := rfl
@[simp] theorem State.setCluster_skyPpm (s : State) (c : Nat) (x : Cluster) : (s.setCluster c x).skyPpm = s.skyPpm := rfl
@[simp] theorem State.setCluster_skyErr (s : State) (c : Nat) (x : Cluster) : (s.setCluster c x).skyErr = s.skyErr := rfl
@[simp] theorem State.setCluster_fwRel (s : State) (c : Nat) (x : Cluster) : (s.setCluster c x).fwRel = s.fwRel := rfl
@[simp] theorem State.setCluster_tableGen (s : State) (c : Nat) (x : Cluster) : (s.setCluster c x).tableGen = s.tableGen := rfl
@[simp] theorem State.setCluster_hostOut (s : State) (c : Nat) (x : Cluster) : (s.setCluster c x).hostOut = s.hostOut := rfl
@[simp] theorem State.setCluster_answers (s : State) (c : Nat) (x : Cluster) : (s.setCluster c x).answers = s.answers := rfl

@[simp] theorem State.setMill_cycle (s : State) (m : Nat) (x : Mill) : (s.setMill m x).cycle = s.cycle := rfl
@[simp] theorem State.setMill_cur (s : State) (m : Nat) (x : Mill) : (s.setMill m x).cur = s.cur := rfl
@[simp] theorem State.setMill_arg (s : State) (m : Nat) (x : Mill) : (s.setMill m x).arg = s.arg := rfl
@[simp] theorem State.setMill_agenda (s : State) (m : Nat) (x : Mill) : (s.setMill m x).agenda = s.agenda := rfl
@[simp] theorem State.setMill_frozen (s : State) (m : Nat) (x : Mill) : (s.setMill m x).frozen = s.frozen := rfl
@[simp] theorem State.setMill_uid (s : State) (m : Nat) (x : Mill) : (s.setMill m x).uid = s.uid := rfl
@[simp] theorem State.setMill_free (s : State) (m : Nat) (x : Mill) : (s.setMill m x).free = s.free := rfl
@[simp] theorem State.setMill_part (s : State) (m : Nat) (x : Mill) : (s.setMill m x).part = s.part := rfl
@[simp] theorem State.setMill_slots (s : State) (m : Nat) (x : Mill) : (s.setMill m x).slots = s.slots := rfl
@[simp] theorem State.setMill_cores (s : State) (m : Nat) (x : Mill) : (s.setMill m x).cores = s.cores := rfl
@[simp] theorem State.setMill_clusters (s : State) (m : Nat) (x : Mill) : (s.setMill m x).clusters = s.clusters := rfl
@[simp] theorem State.setMill_dies (s : State) (m : Nat) (x : Mill) : (s.setMill m x).dies = s.dies := rfl
@[simp] theorem State.setMill_slices (s : State) (m : Nat) (x : Mill) : (s.setMill m x).slices = s.slices := rfl
@[simp] theorem State.setMill_net (s : State) (m : Nat) (x : Mill) : (s.setMill m x).net = s.net := rfl
@[simp] theorem State.setMill_ports (s : State) (m : Nat) (x : Mill) : (s.setMill m x).ports = s.ports := rfl
@[simp] theorem State.setMill_metAt (s : State) (m : Nat) (x : Mill) : (s.setMill m x).metAt = s.metAt := rfl
@[simp] theorem State.setMill_reqs (s : State) (m : Nat) (x : Mill) : (s.setMill m x).reqs = s.reqs := rfl
@[simp] theorem State.setMill_sents (s : State) (m : Nat) (x : Mill) : (s.setMill m x).sents = s.sents := rfl
@[simp] theorem State.setMill_joins (s : State) (m : Nat) (x : Mill) : (s.setMill m x).joins = s.joins := rfl
@[simp] theorem State.setMill_walks (s : State) (m : Nat) (x : Mill) : (s.setMill m x).walks = s.walks := rfl
@[simp] theorem State.setMill_tiles (s : State) (m : Nat) (x : Mill) : (s.setMill m x).tiles = s.tiles := rfl
@[simp] theorem State.setMill_copies (s : State) (m : Nat) (x : Mill) : (s.setMill m x).copies = s.copies := rfl
@[simp] theorem State.setMill_controls (s : State) (m : Nat) (x : Mill) : (s.setMill m x).controls = s.controls := rfl
@[simp] theorem State.setMill_rels (s : State) (m : Nat) (x : Mill) : (s.setMill m x).rels = s.rels := rfl
@[simp] theorem State.setMill_runs (s : State) (m : Nat) (x : Mill) : (s.setMill m x).runs = s.runs := rfl
@[simp] theorem State.setMill_links (s : State) (m : Nat) (x : Mill) : (s.setMill m x).links = s.links := rfl
@[simp] theorem State.setMill_credits (s : State) (m : Nat) (x : Mill) : (s.setMill m x).credits = s.credits := rfl
@[simp] theorem State.setMill_merges (s : State) (m : Nat) (x : Mill) : (s.setMill m x).merges = s.merges := rfl
@[simp] theorem State.setMill_codeStores (s : State) (m : Nat) (x : Mill) : (s.setMill m x).codeStores = s.codeStores := rfl
@[simp] theorem State.setMill_launches (s : State) (m : Nat) (x : Mill) : (s.setMill m x).launches = s.launches := rfl
@[simp] theorem State.setMill_saves (s : State) (m : Nat) (x : Mill) : (s.setMill m x).saves = s.saves := rfl
@[simp] theorem State.setMill_savedSlots (s : State) (m : Nat) (x : Mill) : (s.setMill m x).savedSlots = s.savedSlots := rfl
@[simp] theorem State.setMill_vacates (s : State) (m : Nat) (x : Mill) : (s.setMill m x).vacates = s.vacates := rfl
@[simp] theorem State.setMill_saveAreas (s : State) (m : Nat) (x : Mill) : (s.setMill m x).saveAreas = s.saveAreas := rfl
@[simp] theorem State.setMill_barriers (s : State) (m : Nat) (x : Mill) : (s.setMill m x).barriers = s.barriers := rfl
@[simp] theorem State.setMill_arrivals (s : State) (m : Nat) (x : Mill) : (s.setMill m x).arrivals = s.arrivals := rfl
@[simp] theorem State.setMill_heldMsgs (s : State) (m : Nat) (x : Mill) : (s.setMill m x).heldMsgs = s.heldMsgs := rfl
@[simp] theorem State.setMill_contexts (s : State) (m : Nat) (x : Mill) : (s.setMill m x).contexts = s.contexts := rfl
@[simp] theorem State.setMill_sessions (s : State) (m : Nat) (x : Mill) : (s.setMill m x).sessions = s.sessions := rfl
@[simp] theorem State.setMill_gathers (s : State) (m : Nat) (x : Mill) : (s.setMill m x).gathers = s.gathers := rfl
@[simp] theorem State.setMill_mem (s : State) (m : Nat) (x : Mill) : (s.setMill m x).mem = s.mem := rfl
@[simp] theorem State.setMill_pond (s : State) (m : Nat) (x : Mill) : (s.setMill m x).pond = s.pond := rfl
@[simp] theorem State.setMill_llc (s : State) (m : Nat) (x : Mill) : (s.setMill m x).llc = s.llc := rfl
@[simp] theorem State.setMill_fills (s : State) (m : Nat) (x : Mill) : (s.setMill m x).fills = s.fills := rfl
@[simp] theorem State.setMill_hbmAttr (s : State) (m : Nat) (x : Mill) : (s.setMill m x).hbmAttr = s.hbmAttr := rfl
@[simp] theorem State.setMill_unitBusy (s : State) (m : Nat) (x : Mill) : (s.setMill m x).unitBusy = s.unitBusy := rfl
@[simp] theorem State.setMill_full (s : State) (m : Nat) (x : Mill) : (s.setMill m x).full = s.full := rfl
@[simp] theorem State.setMill_feWait (s : State) (m : Nat) (x : Mill) : (s.setMill m x).feWait = s.feWait := rfl
@[simp] theorem State.setMill_versions (s : State) (m : Nat) (x : Mill) : (s.setMill m x).versions = s.versions := rfl
@[simp] theorem State.setMill_windows (s : State) (m : Nat) (x : Mill) : (s.setMill m x).windows = s.windows := rfl
@[simp] theorem State.setMill_fabric (s : State) (m : Nat) (x : Mill) : (s.setMill m x).fabric = s.fabric := rfl
@[simp] theorem State.setMill_ports_ (s : State) (m : Nat) (x : Mill) : (s.setMill m x).ports_ = s.ports_ := rfl
@[simp] theorem State.setMill_poison (s : State) (m : Nat) (x : Mill) : (s.setMill m x).poison = s.poison := rfl
@[simp] theorem State.setMill_corrected (s : State) (m : Nat) (x : Mill) : (s.setMill m x).corrected = s.corrected := rfl
@[simp] theorem State.setMill_skyUnsync (s : State) (m : Nat) (x : Mill) : (s.setMill m x).skyUnsync = s.skyUnsync := rfl
@[simp] theorem State.setMill_skyTime (s : State) (m : Nat) (x : Mill) : (s.setMill m x).skyTime = s.skyTime := rfl
@[simp] theorem State.setMill_skyAt (s : State) (m : Nat) (x : Mill) : (s.setMill m x).skyAt = s.skyAt := rfl
@[simp] theorem State.setMill_skyPpm (s : State) (m : Nat) (x : Mill) : (s.setMill m x).skyPpm = s.skyPpm := rfl
@[simp] theorem State.setMill_skyErr (s : State) (m : Nat) (x : Mill) : (s.setMill m x).skyErr = s.skyErr := rfl
@[simp] theorem State.setMill_fwRel (s : State) (m : Nat) (x : Mill) : (s.setMill m x).fwRel = s.fwRel := rfl
@[simp] theorem State.setMill_tableGen (s : State) (m : Nat) (x : Mill) : (s.setMill m x).tableGen = s.tableGen := rfl
@[simp] theorem State.setMill_hostOut (s : State) (m : Nat) (x : Mill) : (s.setMill m x).hostOut = s.hostOut := rfl
@[simp] theorem State.setMill_answers (s : State) (m : Nat) (x : Mill) : (s.setMill m x).answers = s.answers := rfl

@[simp] theorem State.setDie_cycle (s : State) (d : Nat) (x : Die) : (s.setDie d x).cycle = s.cycle := rfl
@[simp] theorem State.setDie_cur (s : State) (d : Nat) (x : Die) : (s.setDie d x).cur = s.cur := rfl
@[simp] theorem State.setDie_arg (s : State) (d : Nat) (x : Die) : (s.setDie d x).arg = s.arg := rfl
@[simp] theorem State.setDie_agenda (s : State) (d : Nat) (x : Die) : (s.setDie d x).agenda = s.agenda := rfl
@[simp] theorem State.setDie_frozen (s : State) (d : Nat) (x : Die) : (s.setDie d x).frozen = s.frozen := rfl
@[simp] theorem State.setDie_uid (s : State) (d : Nat) (x : Die) : (s.setDie d x).uid = s.uid := rfl
@[simp] theorem State.setDie_free (s : State) (d : Nat) (x : Die) : (s.setDie d x).free = s.free := rfl
@[simp] theorem State.setDie_part (s : State) (d : Nat) (x : Die) : (s.setDie d x).part = s.part := rfl
@[simp] theorem State.setDie_slots (s : State) (d : Nat) (x : Die) : (s.setDie d x).slots = s.slots := rfl
@[simp] theorem State.setDie_cores (s : State) (d : Nat) (x : Die) : (s.setDie d x).cores = s.cores := rfl
@[simp] theorem State.setDie_clusters (s : State) (d : Nat) (x : Die) : (s.setDie d x).clusters = s.clusters := rfl
@[simp] theorem State.setDie_mills (s : State) (d : Nat) (x : Die) : (s.setDie d x).mills = s.mills := rfl
@[simp] theorem State.setDie_slices (s : State) (d : Nat) (x : Die) : (s.setDie d x).slices = s.slices := rfl
@[simp] theorem State.setDie_net (s : State) (d : Nat) (x : Die) : (s.setDie d x).net = s.net := rfl
@[simp] theorem State.setDie_ports (s : State) (d : Nat) (x : Die) : (s.setDie d x).ports = s.ports := rfl
@[simp] theorem State.setDie_metAt (s : State) (d : Nat) (x : Die) : (s.setDie d x).metAt = s.metAt := rfl
@[simp] theorem State.setDie_reqs (s : State) (d : Nat) (x : Die) : (s.setDie d x).reqs = s.reqs := rfl
@[simp] theorem State.setDie_sents (s : State) (d : Nat) (x : Die) : (s.setDie d x).sents = s.sents := rfl
@[simp] theorem State.setDie_joins (s : State) (d : Nat) (x : Die) : (s.setDie d x).joins = s.joins := rfl
@[simp] theorem State.setDie_walks (s : State) (d : Nat) (x : Die) : (s.setDie d x).walks = s.walks := rfl
@[simp] theorem State.setDie_tiles (s : State) (d : Nat) (x : Die) : (s.setDie d x).tiles = s.tiles := rfl
@[simp] theorem State.setDie_copies (s : State) (d : Nat) (x : Die) : (s.setDie d x).copies = s.copies := rfl
@[simp] theorem State.setDie_controls (s : State) (d : Nat) (x : Die) : (s.setDie d x).controls = s.controls := rfl
@[simp] theorem State.setDie_rels (s : State) (d : Nat) (x : Die) : (s.setDie d x).rels = s.rels := rfl
@[simp] theorem State.setDie_runs (s : State) (d : Nat) (x : Die) : (s.setDie d x).runs = s.runs := rfl
@[simp] theorem State.setDie_links (s : State) (d : Nat) (x : Die) : (s.setDie d x).links = s.links := rfl
@[simp] theorem State.setDie_credits (s : State) (d : Nat) (x : Die) : (s.setDie d x).credits = s.credits := rfl
@[simp] theorem State.setDie_merges (s : State) (d : Nat) (x : Die) : (s.setDie d x).merges = s.merges := rfl
@[simp] theorem State.setDie_codeStores (s : State) (d : Nat) (x : Die) : (s.setDie d x).codeStores = s.codeStores := rfl
@[simp] theorem State.setDie_launches (s : State) (d : Nat) (x : Die) : (s.setDie d x).launches = s.launches := rfl
@[simp] theorem State.setDie_saves (s : State) (d : Nat) (x : Die) : (s.setDie d x).saves = s.saves := rfl
@[simp] theorem State.setDie_savedSlots (s : State) (d : Nat) (x : Die) : (s.setDie d x).savedSlots = s.savedSlots := rfl
@[simp] theorem State.setDie_vacates (s : State) (d : Nat) (x : Die) : (s.setDie d x).vacates = s.vacates := rfl
@[simp] theorem State.setDie_saveAreas (s : State) (d : Nat) (x : Die) : (s.setDie d x).saveAreas = s.saveAreas := rfl
@[simp] theorem State.setDie_barriers (s : State) (d : Nat) (x : Die) : (s.setDie d x).barriers = s.barriers := rfl
@[simp] theorem State.setDie_arrivals (s : State) (d : Nat) (x : Die) : (s.setDie d x).arrivals = s.arrivals := rfl
@[simp] theorem State.setDie_heldMsgs (s : State) (d : Nat) (x : Die) : (s.setDie d x).heldMsgs = s.heldMsgs := rfl
@[simp] theorem State.setDie_contexts (s : State) (d : Nat) (x : Die) : (s.setDie d x).contexts = s.contexts := rfl
@[simp] theorem State.setDie_sessions (s : State) (d : Nat) (x : Die) : (s.setDie d x).sessions = s.sessions := rfl
@[simp] theorem State.setDie_gathers (s : State) (d : Nat) (x : Die) : (s.setDie d x).gathers = s.gathers := rfl
@[simp] theorem State.setDie_mem (s : State) (d : Nat) (x : Die) : (s.setDie d x).mem = s.mem := rfl
@[simp] theorem State.setDie_pond (s : State) (d : Nat) (x : Die) : (s.setDie d x).pond = s.pond := rfl
@[simp] theorem State.setDie_llc (s : State) (d : Nat) (x : Die) : (s.setDie d x).llc = s.llc := rfl
@[simp] theorem State.setDie_fills (s : State) (d : Nat) (x : Die) : (s.setDie d x).fills = s.fills := rfl
@[simp] theorem State.setDie_hbmAttr (s : State) (d : Nat) (x : Die) : (s.setDie d x).hbmAttr = s.hbmAttr := rfl
@[simp] theorem State.setDie_unitBusy (s : State) (d : Nat) (x : Die) : (s.setDie d x).unitBusy = s.unitBusy := rfl
@[simp] theorem State.setDie_full (s : State) (d : Nat) (x : Die) : (s.setDie d x).full = s.full := rfl
@[simp] theorem State.setDie_feWait (s : State) (d : Nat) (x : Die) : (s.setDie d x).feWait = s.feWait := rfl
@[simp] theorem State.setDie_versions (s : State) (d : Nat) (x : Die) : (s.setDie d x).versions = s.versions := rfl
@[simp] theorem State.setDie_windows (s : State) (d : Nat) (x : Die) : (s.setDie d x).windows = s.windows := rfl
@[simp] theorem State.setDie_fabric (s : State) (d : Nat) (x : Die) : (s.setDie d x).fabric = s.fabric := rfl
@[simp] theorem State.setDie_ports_ (s : State) (d : Nat) (x : Die) : (s.setDie d x).ports_ = s.ports_ := rfl
@[simp] theorem State.setDie_poison (s : State) (d : Nat) (x : Die) : (s.setDie d x).poison = s.poison := rfl
@[simp] theorem State.setDie_corrected (s : State) (d : Nat) (x : Die) : (s.setDie d x).corrected = s.corrected := rfl
@[simp] theorem State.setDie_skyUnsync (s : State) (d : Nat) (x : Die) : (s.setDie d x).skyUnsync = s.skyUnsync := rfl
@[simp] theorem State.setDie_skyTime (s : State) (d : Nat) (x : Die) : (s.setDie d x).skyTime = s.skyTime := rfl
@[simp] theorem State.setDie_skyAt (s : State) (d : Nat) (x : Die) : (s.setDie d x).skyAt = s.skyAt := rfl
@[simp] theorem State.setDie_skyPpm (s : State) (d : Nat) (x : Die) : (s.setDie d x).skyPpm = s.skyPpm := rfl
@[simp] theorem State.setDie_skyErr (s : State) (d : Nat) (x : Die) : (s.setDie d x).skyErr = s.skyErr := rfl
@[simp] theorem State.setDie_fwRel (s : State) (d : Nat) (x : Die) : (s.setDie d x).fwRel = s.fwRel := rfl
@[simp] theorem State.setDie_tableGen (s : State) (d : Nat) (x : Die) : (s.setDie d x).tableGen = s.tableGen := rfl
@[simp] theorem State.setDie_hostOut (s : State) (d : Nat) (x : Die) : (s.setDie d x).hostOut = s.hostOut := rfl
@[simp] theorem State.setDie_answers (s : State) (d : Nat) (x : Die) : (s.setDie d x).answers = s.answers := rfl

@[simp] theorem State.setSlice_cycle (s : State) (l : Nat) (x : Slice) : (s.setSlice l x).cycle = s.cycle := rfl
@[simp] theorem State.setSlice_cur (s : State) (l : Nat) (x : Slice) : (s.setSlice l x).cur = s.cur := rfl
@[simp] theorem State.setSlice_arg (s : State) (l : Nat) (x : Slice) : (s.setSlice l x).arg = s.arg := rfl
@[simp] theorem State.setSlice_agenda (s : State) (l : Nat) (x : Slice) : (s.setSlice l x).agenda = s.agenda := rfl
@[simp] theorem State.setSlice_frozen (s : State) (l : Nat) (x : Slice) : (s.setSlice l x).frozen = s.frozen := rfl
@[simp] theorem State.setSlice_uid (s : State) (l : Nat) (x : Slice) : (s.setSlice l x).uid = s.uid := rfl
@[simp] theorem State.setSlice_free (s : State) (l : Nat) (x : Slice) : (s.setSlice l x).free = s.free := rfl
@[simp] theorem State.setSlice_part (s : State) (l : Nat) (x : Slice) : (s.setSlice l x).part = s.part := rfl
@[simp] theorem State.setSlice_slots (s : State) (l : Nat) (x : Slice) : (s.setSlice l x).slots = s.slots := rfl
@[simp] theorem State.setSlice_cores (s : State) (l : Nat) (x : Slice) : (s.setSlice l x).cores = s.cores := rfl
@[simp] theorem State.setSlice_clusters (s : State) (l : Nat) (x : Slice) : (s.setSlice l x).clusters = s.clusters := rfl
@[simp] theorem State.setSlice_mills (s : State) (l : Nat) (x : Slice) : (s.setSlice l x).mills = s.mills := rfl
@[simp] theorem State.setSlice_dies (s : State) (l : Nat) (x : Slice) : (s.setSlice l x).dies = s.dies := rfl
@[simp] theorem State.setSlice_net (s : State) (l : Nat) (x : Slice) : (s.setSlice l x).net = s.net := rfl
@[simp] theorem State.setSlice_ports (s : State) (l : Nat) (x : Slice) : (s.setSlice l x).ports = s.ports := rfl
@[simp] theorem State.setSlice_metAt (s : State) (l : Nat) (x : Slice) : (s.setSlice l x).metAt = s.metAt := rfl
@[simp] theorem State.setSlice_reqs (s : State) (l : Nat) (x : Slice) : (s.setSlice l x).reqs = s.reqs := rfl
@[simp] theorem State.setSlice_sents (s : State) (l : Nat) (x : Slice) : (s.setSlice l x).sents = s.sents := rfl
@[simp] theorem State.setSlice_joins (s : State) (l : Nat) (x : Slice) : (s.setSlice l x).joins = s.joins := rfl
@[simp] theorem State.setSlice_walks (s : State) (l : Nat) (x : Slice) : (s.setSlice l x).walks = s.walks := rfl
@[simp] theorem State.setSlice_tiles (s : State) (l : Nat) (x : Slice) : (s.setSlice l x).tiles = s.tiles := rfl
@[simp] theorem State.setSlice_copies (s : State) (l : Nat) (x : Slice) : (s.setSlice l x).copies = s.copies := rfl
@[simp] theorem State.setSlice_controls (s : State) (l : Nat) (x : Slice) : (s.setSlice l x).controls = s.controls := rfl
@[simp] theorem State.setSlice_rels (s : State) (l : Nat) (x : Slice) : (s.setSlice l x).rels = s.rels := rfl
@[simp] theorem State.setSlice_runs (s : State) (l : Nat) (x : Slice) : (s.setSlice l x).runs = s.runs := rfl
@[simp] theorem State.setSlice_links (s : State) (l : Nat) (x : Slice) : (s.setSlice l x).links = s.links := rfl
@[simp] theorem State.setSlice_credits (s : State) (l : Nat) (x : Slice) : (s.setSlice l x).credits = s.credits := rfl
@[simp] theorem State.setSlice_merges (s : State) (l : Nat) (x : Slice) : (s.setSlice l x).merges = s.merges := rfl
@[simp] theorem State.setSlice_codeStores (s : State) (l : Nat) (x : Slice) : (s.setSlice l x).codeStores = s.codeStores := rfl
@[simp] theorem State.setSlice_launches (s : State) (l : Nat) (x : Slice) : (s.setSlice l x).launches = s.launches := rfl
@[simp] theorem State.setSlice_saves (s : State) (l : Nat) (x : Slice) : (s.setSlice l x).saves = s.saves := rfl
@[simp] theorem State.setSlice_savedSlots (s : State) (l : Nat) (x : Slice) : (s.setSlice l x).savedSlots = s.savedSlots := rfl
@[simp] theorem State.setSlice_vacates (s : State) (l : Nat) (x : Slice) : (s.setSlice l x).vacates = s.vacates := rfl
@[simp] theorem State.setSlice_saveAreas (s : State) (l : Nat) (x : Slice) : (s.setSlice l x).saveAreas = s.saveAreas := rfl
@[simp] theorem State.setSlice_barriers (s : State) (l : Nat) (x : Slice) : (s.setSlice l x).barriers = s.barriers := rfl
@[simp] theorem State.setSlice_arrivals (s : State) (l : Nat) (x : Slice) : (s.setSlice l x).arrivals = s.arrivals := rfl
@[simp] theorem State.setSlice_heldMsgs (s : State) (l : Nat) (x : Slice) : (s.setSlice l x).heldMsgs = s.heldMsgs := rfl
@[simp] theorem State.setSlice_contexts (s : State) (l : Nat) (x : Slice) : (s.setSlice l x).contexts = s.contexts := rfl
@[simp] theorem State.setSlice_sessions (s : State) (l : Nat) (x : Slice) : (s.setSlice l x).sessions = s.sessions := rfl
@[simp] theorem State.setSlice_gathers (s : State) (l : Nat) (x : Slice) : (s.setSlice l x).gathers = s.gathers := rfl
@[simp] theorem State.setSlice_mem (s : State) (l : Nat) (x : Slice) : (s.setSlice l x).mem = s.mem := rfl
@[simp] theorem State.setSlice_pond (s : State) (l : Nat) (x : Slice) : (s.setSlice l x).pond = s.pond := rfl
@[simp] theorem State.setSlice_llc (s : State) (l : Nat) (x : Slice) : (s.setSlice l x).llc = s.llc := rfl
@[simp] theorem State.setSlice_fills (s : State) (l : Nat) (x : Slice) : (s.setSlice l x).fills = s.fills := rfl
@[simp] theorem State.setSlice_hbmAttr (s : State) (l : Nat) (x : Slice) : (s.setSlice l x).hbmAttr = s.hbmAttr := rfl
@[simp] theorem State.setSlice_unitBusy (s : State) (l : Nat) (x : Slice) : (s.setSlice l x).unitBusy = s.unitBusy := rfl
@[simp] theorem State.setSlice_full (s : State) (l : Nat) (x : Slice) : (s.setSlice l x).full = s.full := rfl
@[simp] theorem State.setSlice_feWait (s : State) (l : Nat) (x : Slice) : (s.setSlice l x).feWait = s.feWait := rfl
@[simp] theorem State.setSlice_versions (s : State) (l : Nat) (x : Slice) : (s.setSlice l x).versions = s.versions := rfl
@[simp] theorem State.setSlice_windows (s : State) (l : Nat) (x : Slice) : (s.setSlice l x).windows = s.windows := rfl
@[simp] theorem State.setSlice_fabric (s : State) (l : Nat) (x : Slice) : (s.setSlice l x).fabric = s.fabric := rfl
@[simp] theorem State.setSlice_ports_ (s : State) (l : Nat) (x : Slice) : (s.setSlice l x).ports_ = s.ports_ := rfl
@[simp] theorem State.setSlice_poison (s : State) (l : Nat) (x : Slice) : (s.setSlice l x).poison = s.poison := rfl
@[simp] theorem State.setSlice_corrected (s : State) (l : Nat) (x : Slice) : (s.setSlice l x).corrected = s.corrected := rfl
@[simp] theorem State.setSlice_skyUnsync (s : State) (l : Nat) (x : Slice) : (s.setSlice l x).skyUnsync = s.skyUnsync := rfl
@[simp] theorem State.setSlice_skyTime (s : State) (l : Nat) (x : Slice) : (s.setSlice l x).skyTime = s.skyTime := rfl
@[simp] theorem State.setSlice_skyAt (s : State) (l : Nat) (x : Slice) : (s.setSlice l x).skyAt = s.skyAt := rfl
@[simp] theorem State.setSlice_skyPpm (s : State) (l : Nat) (x : Slice) : (s.setSlice l x).skyPpm = s.skyPpm := rfl
@[simp] theorem State.setSlice_skyErr (s : State) (l : Nat) (x : Slice) : (s.setSlice l x).skyErr = s.skyErr := rfl
@[simp] theorem State.setSlice_fwRel (s : State) (l : Nat) (x : Slice) : (s.setSlice l x).fwRel = s.fwRel := rfl
@[simp] theorem State.setSlice_tableGen (s : State) (l : Nat) (x : Slice) : (s.setSlice l x).tableGen = s.tableGen := rfl
@[simp] theorem State.setSlice_hostOut (s : State) (l : Nat) (x : Slice) : (s.setSlice l x).hostOut = s.hostOut := rfl
@[simp] theorem State.setSlice_answers (s : State) (l : Nat) (x : Slice) : (s.setSlice l x).answers = s.answers := rfl

@[simp] theorem State.setLaunch_cycle (s : State) (l : Nat) (x : Launch) : (s.setLaunch l x).cycle = s.cycle := rfl
@[simp] theorem State.setLaunch_cur (s : State) (l : Nat) (x : Launch) : (s.setLaunch l x).cur = s.cur := rfl
@[simp] theorem State.setLaunch_arg (s : State) (l : Nat) (x : Launch) : (s.setLaunch l x).arg = s.arg := rfl
@[simp] theorem State.setLaunch_agenda (s : State) (l : Nat) (x : Launch) : (s.setLaunch l x).agenda = s.agenda := rfl
@[simp] theorem State.setLaunch_frozen (s : State) (l : Nat) (x : Launch) : (s.setLaunch l x).frozen = s.frozen := rfl
@[simp] theorem State.setLaunch_uid (s : State) (l : Nat) (x : Launch) : (s.setLaunch l x).uid = s.uid := rfl
@[simp] theorem State.setLaunch_free (s : State) (l : Nat) (x : Launch) : (s.setLaunch l x).free = s.free := rfl
@[simp] theorem State.setLaunch_part (s : State) (l : Nat) (x : Launch) : (s.setLaunch l x).part = s.part := rfl
@[simp] theorem State.setLaunch_slots (s : State) (l : Nat) (x : Launch) : (s.setLaunch l x).slots = s.slots := rfl
@[simp] theorem State.setLaunch_cores (s : State) (l : Nat) (x : Launch) : (s.setLaunch l x).cores = s.cores := rfl
@[simp] theorem State.setLaunch_clusters (s : State) (l : Nat) (x : Launch) : (s.setLaunch l x).clusters = s.clusters := rfl
@[simp] theorem State.setLaunch_mills (s : State) (l : Nat) (x : Launch) : (s.setLaunch l x).mills = s.mills := rfl
@[simp] theorem State.setLaunch_dies (s : State) (l : Nat) (x : Launch) : (s.setLaunch l x).dies = s.dies := rfl
@[simp] theorem State.setLaunch_slices (s : State) (l : Nat) (x : Launch) : (s.setLaunch l x).slices = s.slices := rfl
@[simp] theorem State.setLaunch_net (s : State) (l : Nat) (x : Launch) : (s.setLaunch l x).net = s.net := rfl
@[simp] theorem State.setLaunch_ports (s : State) (l : Nat) (x : Launch) : (s.setLaunch l x).ports = s.ports := rfl
@[simp] theorem State.setLaunch_metAt (s : State) (l : Nat) (x : Launch) : (s.setLaunch l x).metAt = s.metAt := rfl
@[simp] theorem State.setLaunch_reqs (s : State) (l : Nat) (x : Launch) : (s.setLaunch l x).reqs = s.reqs := rfl
@[simp] theorem State.setLaunch_sents (s : State) (l : Nat) (x : Launch) : (s.setLaunch l x).sents = s.sents := rfl
@[simp] theorem State.setLaunch_joins (s : State) (l : Nat) (x : Launch) : (s.setLaunch l x).joins = s.joins := rfl
@[simp] theorem State.setLaunch_walks (s : State) (l : Nat) (x : Launch) : (s.setLaunch l x).walks = s.walks := rfl
@[simp] theorem State.setLaunch_tiles (s : State) (l : Nat) (x : Launch) : (s.setLaunch l x).tiles = s.tiles := rfl
@[simp] theorem State.setLaunch_copies (s : State) (l : Nat) (x : Launch) : (s.setLaunch l x).copies = s.copies := rfl
@[simp] theorem State.setLaunch_controls (s : State) (l : Nat) (x : Launch) : (s.setLaunch l x).controls = s.controls := rfl
@[simp] theorem State.setLaunch_rels (s : State) (l : Nat) (x : Launch) : (s.setLaunch l x).rels = s.rels := rfl
@[simp] theorem State.setLaunch_runs (s : State) (l : Nat) (x : Launch) : (s.setLaunch l x).runs = s.runs := rfl
@[simp] theorem State.setLaunch_links (s : State) (l : Nat) (x : Launch) : (s.setLaunch l x).links = s.links := rfl
@[simp] theorem State.setLaunch_credits (s : State) (l : Nat) (x : Launch) : (s.setLaunch l x).credits = s.credits := rfl
@[simp] theorem State.setLaunch_merges (s : State) (l : Nat) (x : Launch) : (s.setLaunch l x).merges = s.merges := rfl
@[simp] theorem State.setLaunch_codeStores (s : State) (l : Nat) (x : Launch) : (s.setLaunch l x).codeStores = s.codeStores := rfl
@[simp] theorem State.setLaunch_saves (s : State) (l : Nat) (x : Launch) : (s.setLaunch l x).saves = s.saves := rfl
@[simp] theorem State.setLaunch_savedSlots (s : State) (l : Nat) (x : Launch) : (s.setLaunch l x).savedSlots = s.savedSlots := rfl
@[simp] theorem State.setLaunch_vacates (s : State) (l : Nat) (x : Launch) : (s.setLaunch l x).vacates = s.vacates := rfl
@[simp] theorem State.setLaunch_saveAreas (s : State) (l : Nat) (x : Launch) : (s.setLaunch l x).saveAreas = s.saveAreas := rfl
@[simp] theorem State.setLaunch_barriers (s : State) (l : Nat) (x : Launch) : (s.setLaunch l x).barriers = s.barriers := rfl
@[simp] theorem State.setLaunch_arrivals (s : State) (l : Nat) (x : Launch) : (s.setLaunch l x).arrivals = s.arrivals := rfl
@[simp] theorem State.setLaunch_heldMsgs (s : State) (l : Nat) (x : Launch) : (s.setLaunch l x).heldMsgs = s.heldMsgs := rfl
@[simp] theorem State.setLaunch_contexts (s : State) (l : Nat) (x : Launch) : (s.setLaunch l x).contexts = s.contexts := rfl
@[simp] theorem State.setLaunch_sessions (s : State) (l : Nat) (x : Launch) : (s.setLaunch l x).sessions = s.sessions := rfl
@[simp] theorem State.setLaunch_gathers (s : State) (l : Nat) (x : Launch) : (s.setLaunch l x).gathers = s.gathers := rfl
@[simp] theorem State.setLaunch_mem (s : State) (l : Nat) (x : Launch) : (s.setLaunch l x).mem = s.mem := rfl
@[simp] theorem State.setLaunch_pond (s : State) (l : Nat) (x : Launch) : (s.setLaunch l x).pond = s.pond := rfl
@[simp] theorem State.setLaunch_llc (s : State) (l : Nat) (x : Launch) : (s.setLaunch l x).llc = s.llc := rfl
@[simp] theorem State.setLaunch_fills (s : State) (l : Nat) (x : Launch) : (s.setLaunch l x).fills = s.fills := rfl
@[simp] theorem State.setLaunch_hbmAttr (s : State) (l : Nat) (x : Launch) : (s.setLaunch l x).hbmAttr = s.hbmAttr := rfl
@[simp] theorem State.setLaunch_unitBusy (s : State) (l : Nat) (x : Launch) : (s.setLaunch l x).unitBusy = s.unitBusy := rfl
@[simp] theorem State.setLaunch_full (s : State) (l : Nat) (x : Launch) : (s.setLaunch l x).full = s.full := rfl
@[simp] theorem State.setLaunch_feWait (s : State) (l : Nat) (x : Launch) : (s.setLaunch l x).feWait = s.feWait := rfl
@[simp] theorem State.setLaunch_versions (s : State) (l : Nat) (x : Launch) : (s.setLaunch l x).versions = s.versions := rfl
@[simp] theorem State.setLaunch_windows (s : State) (l : Nat) (x : Launch) : (s.setLaunch l x).windows = s.windows := rfl
@[simp] theorem State.setLaunch_fabric (s : State) (l : Nat) (x : Launch) : (s.setLaunch l x).fabric = s.fabric := rfl
@[simp] theorem State.setLaunch_ports_ (s : State) (l : Nat) (x : Launch) : (s.setLaunch l x).ports_ = s.ports_ := rfl
@[simp] theorem State.setLaunch_poison (s : State) (l : Nat) (x : Launch) : (s.setLaunch l x).poison = s.poison := rfl
@[simp] theorem State.setLaunch_corrected (s : State) (l : Nat) (x : Launch) : (s.setLaunch l x).corrected = s.corrected := rfl
@[simp] theorem State.setLaunch_skyUnsync (s : State) (l : Nat) (x : Launch) : (s.setLaunch l x).skyUnsync = s.skyUnsync := rfl
@[simp] theorem State.setLaunch_skyTime (s : State) (l : Nat) (x : Launch) : (s.setLaunch l x).skyTime = s.skyTime := rfl
@[simp] theorem State.setLaunch_skyAt (s : State) (l : Nat) (x : Launch) : (s.setLaunch l x).skyAt = s.skyAt := rfl
@[simp] theorem State.setLaunch_skyPpm (s : State) (l : Nat) (x : Launch) : (s.setLaunch l x).skyPpm = s.skyPpm := rfl
@[simp] theorem State.setLaunch_skyErr (s : State) (l : Nat) (x : Launch) : (s.setLaunch l x).skyErr = s.skyErr := rfl
@[simp] theorem State.setLaunch_fwRel (s : State) (l : Nat) (x : Launch) : (s.setLaunch l x).fwRel = s.fwRel := rfl
@[simp] theorem State.setLaunch_tableGen (s : State) (l : Nat) (x : Launch) : (s.setLaunch l x).tableGen = s.tableGen := rfl
@[simp] theorem State.setLaunch_hostOut (s : State) (l : Nat) (x : Launch) : (s.setLaunch l x).hostOut = s.hostOut := rfl
@[simp] theorem State.setLaunch_answers (s : State) (l : Nat) (x : Launch) : (s.setLaunch l x).answers = s.answers := rfl

@[simp] theorem State.setReq_cycle (s : State) (r : Nat) (x : GReq) : (s.setReq r x).cycle = s.cycle := rfl
@[simp] theorem State.setReq_cur (s : State) (r : Nat) (x : GReq) : (s.setReq r x).cur = s.cur := rfl
@[simp] theorem State.setReq_arg (s : State) (r : Nat) (x : GReq) : (s.setReq r x).arg = s.arg := rfl
@[simp] theorem State.setReq_agenda (s : State) (r : Nat) (x : GReq) : (s.setReq r x).agenda = s.agenda := rfl
@[simp] theorem State.setReq_frozen (s : State) (r : Nat) (x : GReq) : (s.setReq r x).frozen = s.frozen := rfl
@[simp] theorem State.setReq_uid (s : State) (r : Nat) (x : GReq) : (s.setReq r x).uid = s.uid := rfl
@[simp] theorem State.setReq_free (s : State) (r : Nat) (x : GReq) : (s.setReq r x).free = s.free := rfl
@[simp] theorem State.setReq_part (s : State) (r : Nat) (x : GReq) : (s.setReq r x).part = s.part := rfl
@[simp] theorem State.setReq_slots (s : State) (r : Nat) (x : GReq) : (s.setReq r x).slots = s.slots := rfl
@[simp] theorem State.setReq_cores (s : State) (r : Nat) (x : GReq) : (s.setReq r x).cores = s.cores := rfl
@[simp] theorem State.setReq_clusters (s : State) (r : Nat) (x : GReq) : (s.setReq r x).clusters = s.clusters := rfl
@[simp] theorem State.setReq_mills (s : State) (r : Nat) (x : GReq) : (s.setReq r x).mills = s.mills := rfl
@[simp] theorem State.setReq_dies (s : State) (r : Nat) (x : GReq) : (s.setReq r x).dies = s.dies := rfl
@[simp] theorem State.setReq_slices (s : State) (r : Nat) (x : GReq) : (s.setReq r x).slices = s.slices := rfl
@[simp] theorem State.setReq_net (s : State) (r : Nat) (x : GReq) : (s.setReq r x).net = s.net := rfl
@[simp] theorem State.setReq_ports (s : State) (r : Nat) (x : GReq) : (s.setReq r x).ports = s.ports := rfl
@[simp] theorem State.setReq_metAt (s : State) (r : Nat) (x : GReq) : (s.setReq r x).metAt = s.metAt := rfl
@[simp] theorem State.setReq_sents (s : State) (r : Nat) (x : GReq) : (s.setReq r x).sents = s.sents := rfl
@[simp] theorem State.setReq_joins (s : State) (r : Nat) (x : GReq) : (s.setReq r x).joins = s.joins := rfl
@[simp] theorem State.setReq_walks (s : State) (r : Nat) (x : GReq) : (s.setReq r x).walks = s.walks := rfl
@[simp] theorem State.setReq_tiles (s : State) (r : Nat) (x : GReq) : (s.setReq r x).tiles = s.tiles := rfl
@[simp] theorem State.setReq_copies (s : State) (r : Nat) (x : GReq) : (s.setReq r x).copies = s.copies := rfl
@[simp] theorem State.setReq_controls (s : State) (r : Nat) (x : GReq) : (s.setReq r x).controls = s.controls := rfl
@[simp] theorem State.setReq_rels (s : State) (r : Nat) (x : GReq) : (s.setReq r x).rels = s.rels := rfl
@[simp] theorem State.setReq_runs (s : State) (r : Nat) (x : GReq) : (s.setReq r x).runs = s.runs := rfl
@[simp] theorem State.setReq_links (s : State) (r : Nat) (x : GReq) : (s.setReq r x).links = s.links := rfl
@[simp] theorem State.setReq_credits (s : State) (r : Nat) (x : GReq) : (s.setReq r x).credits = s.credits := rfl
@[simp] theorem State.setReq_merges (s : State) (r : Nat) (x : GReq) : (s.setReq r x).merges = s.merges := rfl
@[simp] theorem State.setReq_codeStores (s : State) (r : Nat) (x : GReq) : (s.setReq r x).codeStores = s.codeStores := rfl
@[simp] theorem State.setReq_launches (s : State) (r : Nat) (x : GReq) : (s.setReq r x).launches = s.launches := rfl
@[simp] theorem State.setReq_saves (s : State) (r : Nat) (x : GReq) : (s.setReq r x).saves = s.saves := rfl
@[simp] theorem State.setReq_savedSlots (s : State) (r : Nat) (x : GReq) : (s.setReq r x).savedSlots = s.savedSlots := rfl
@[simp] theorem State.setReq_vacates (s : State) (r : Nat) (x : GReq) : (s.setReq r x).vacates = s.vacates := rfl
@[simp] theorem State.setReq_saveAreas (s : State) (r : Nat) (x : GReq) : (s.setReq r x).saveAreas = s.saveAreas := rfl
@[simp] theorem State.setReq_barriers (s : State) (r : Nat) (x : GReq) : (s.setReq r x).barriers = s.barriers := rfl
@[simp] theorem State.setReq_arrivals (s : State) (r : Nat) (x : GReq) : (s.setReq r x).arrivals = s.arrivals := rfl
@[simp] theorem State.setReq_heldMsgs (s : State) (r : Nat) (x : GReq) : (s.setReq r x).heldMsgs = s.heldMsgs := rfl
@[simp] theorem State.setReq_contexts (s : State) (r : Nat) (x : GReq) : (s.setReq r x).contexts = s.contexts := rfl
@[simp] theorem State.setReq_sessions (s : State) (r : Nat) (x : GReq) : (s.setReq r x).sessions = s.sessions := rfl
@[simp] theorem State.setReq_gathers (s : State) (r : Nat) (x : GReq) : (s.setReq r x).gathers = s.gathers := rfl
@[simp] theorem State.setReq_mem (s : State) (r : Nat) (x : GReq) : (s.setReq r x).mem = s.mem := rfl
@[simp] theorem State.setReq_pond (s : State) (r : Nat) (x : GReq) : (s.setReq r x).pond = s.pond := rfl
@[simp] theorem State.setReq_llc (s : State) (r : Nat) (x : GReq) : (s.setReq r x).llc = s.llc := rfl
@[simp] theorem State.setReq_fills (s : State) (r : Nat) (x : GReq) : (s.setReq r x).fills = s.fills := rfl
@[simp] theorem State.setReq_hbmAttr (s : State) (r : Nat) (x : GReq) : (s.setReq r x).hbmAttr = s.hbmAttr := rfl
@[simp] theorem State.setReq_unitBusy (s : State) (r : Nat) (x : GReq) : (s.setReq r x).unitBusy = s.unitBusy := rfl
@[simp] theorem State.setReq_full (s : State) (r : Nat) (x : GReq) : (s.setReq r x).full = s.full := rfl
@[simp] theorem State.setReq_feWait (s : State) (r : Nat) (x : GReq) : (s.setReq r x).feWait = s.feWait := rfl
@[simp] theorem State.setReq_versions (s : State) (r : Nat) (x : GReq) : (s.setReq r x).versions = s.versions := rfl
@[simp] theorem State.setReq_windows (s : State) (r : Nat) (x : GReq) : (s.setReq r x).windows = s.windows := rfl
@[simp] theorem State.setReq_fabric (s : State) (r : Nat) (x : GReq) : (s.setReq r x).fabric = s.fabric := rfl
@[simp] theorem State.setReq_ports_ (s : State) (r : Nat) (x : GReq) : (s.setReq r x).ports_ = s.ports_ := rfl
@[simp] theorem State.setReq_poison (s : State) (r : Nat) (x : GReq) : (s.setReq r x).poison = s.poison := rfl
@[simp] theorem State.setReq_corrected (s : State) (r : Nat) (x : GReq) : (s.setReq r x).corrected = s.corrected := rfl
@[simp] theorem State.setReq_skyUnsync (s : State) (r : Nat) (x : GReq) : (s.setReq r x).skyUnsync = s.skyUnsync := rfl
@[simp] theorem State.setReq_skyTime (s : State) (r : Nat) (x : GReq) : (s.setReq r x).skyTime = s.skyTime := rfl
@[simp] theorem State.setReq_skyAt (s : State) (r : Nat) (x : GReq) : (s.setReq r x).skyAt = s.skyAt := rfl
@[simp] theorem State.setReq_skyPpm (s : State) (r : Nat) (x : GReq) : (s.setReq r x).skyPpm = s.skyPpm := rfl
@[simp] theorem State.setReq_skyErr (s : State) (r : Nat) (x : GReq) : (s.setReq r x).skyErr = s.skyErr := rfl
@[simp] theorem State.setReq_fwRel (s : State) (r : Nat) (x : GReq) : (s.setReq r x).fwRel = s.fwRel := rfl
@[simp] theorem State.setReq_tableGen (s : State) (r : Nat) (x : GReq) : (s.setReq r x).tableGen = s.tableGen := rfl
@[simp] theorem State.setReq_hostOut (s : State) (r : Nat) (x : GReq) : (s.setReq r x).hostOut = s.hostOut := rfl
@[simp] theorem State.setReq_answers (s : State) (r : Nat) (x : GReq) : (s.setReq r x).answers = s.answers := rfl

@[simp] theorem State.setSent_cycle (s : State) (m : Nat) (x : Sent) : (s.setSent m x).cycle = s.cycle := rfl
@[simp] theorem State.setSent_cur (s : State) (m : Nat) (x : Sent) : (s.setSent m x).cur = s.cur := rfl
@[simp] theorem State.setSent_arg (s : State) (m : Nat) (x : Sent) : (s.setSent m x).arg = s.arg := rfl
@[simp] theorem State.setSent_agenda (s : State) (m : Nat) (x : Sent) : (s.setSent m x).agenda = s.agenda := rfl
@[simp] theorem State.setSent_frozen (s : State) (m : Nat) (x : Sent) : (s.setSent m x).frozen = s.frozen := rfl
@[simp] theorem State.setSent_uid (s : State) (m : Nat) (x : Sent) : (s.setSent m x).uid = s.uid := rfl
@[simp] theorem State.setSent_free (s : State) (m : Nat) (x : Sent) : (s.setSent m x).free = s.free := rfl
@[simp] theorem State.setSent_part (s : State) (m : Nat) (x : Sent) : (s.setSent m x).part = s.part := rfl
@[simp] theorem State.setSent_slots (s : State) (m : Nat) (x : Sent) : (s.setSent m x).slots = s.slots := rfl
@[simp] theorem State.setSent_cores (s : State) (m : Nat) (x : Sent) : (s.setSent m x).cores = s.cores := rfl
@[simp] theorem State.setSent_clusters (s : State) (m : Nat) (x : Sent) : (s.setSent m x).clusters = s.clusters := rfl
@[simp] theorem State.setSent_mills (s : State) (m : Nat) (x : Sent) : (s.setSent m x).mills = s.mills := rfl
@[simp] theorem State.setSent_dies (s : State) (m : Nat) (x : Sent) : (s.setSent m x).dies = s.dies := rfl
@[simp] theorem State.setSent_slices (s : State) (m : Nat) (x : Sent) : (s.setSent m x).slices = s.slices := rfl
@[simp] theorem State.setSent_net (s : State) (m : Nat) (x : Sent) : (s.setSent m x).net = s.net := rfl
@[simp] theorem State.setSent_ports (s : State) (m : Nat) (x : Sent) : (s.setSent m x).ports = s.ports := rfl
@[simp] theorem State.setSent_metAt (s : State) (m : Nat) (x : Sent) : (s.setSent m x).metAt = s.metAt := rfl
@[simp] theorem State.setSent_reqs (s : State) (m : Nat) (x : Sent) : (s.setSent m x).reqs = s.reqs := rfl
@[simp] theorem State.setSent_joins (s : State) (m : Nat) (x : Sent) : (s.setSent m x).joins = s.joins := rfl
@[simp] theorem State.setSent_walks (s : State) (m : Nat) (x : Sent) : (s.setSent m x).walks = s.walks := rfl
@[simp] theorem State.setSent_tiles (s : State) (m : Nat) (x : Sent) : (s.setSent m x).tiles = s.tiles := rfl
@[simp] theorem State.setSent_copies (s : State) (m : Nat) (x : Sent) : (s.setSent m x).copies = s.copies := rfl
@[simp] theorem State.setSent_controls (s : State) (m : Nat) (x : Sent) : (s.setSent m x).controls = s.controls := rfl
@[simp] theorem State.setSent_rels (s : State) (m : Nat) (x : Sent) : (s.setSent m x).rels = s.rels := rfl
@[simp] theorem State.setSent_runs (s : State) (m : Nat) (x : Sent) : (s.setSent m x).runs = s.runs := rfl
@[simp] theorem State.setSent_links (s : State) (m : Nat) (x : Sent) : (s.setSent m x).links = s.links := rfl
@[simp] theorem State.setSent_credits (s : State) (m : Nat) (x : Sent) : (s.setSent m x).credits = s.credits := rfl
@[simp] theorem State.setSent_merges (s : State) (m : Nat) (x : Sent) : (s.setSent m x).merges = s.merges := rfl
@[simp] theorem State.setSent_codeStores (s : State) (m : Nat) (x : Sent) : (s.setSent m x).codeStores = s.codeStores := rfl
@[simp] theorem State.setSent_launches (s : State) (m : Nat) (x : Sent) : (s.setSent m x).launches = s.launches := rfl
@[simp] theorem State.setSent_saves (s : State) (m : Nat) (x : Sent) : (s.setSent m x).saves = s.saves := rfl
@[simp] theorem State.setSent_savedSlots (s : State) (m : Nat) (x : Sent) : (s.setSent m x).savedSlots = s.savedSlots := rfl
@[simp] theorem State.setSent_vacates (s : State) (m : Nat) (x : Sent) : (s.setSent m x).vacates = s.vacates := rfl
@[simp] theorem State.setSent_saveAreas (s : State) (m : Nat) (x : Sent) : (s.setSent m x).saveAreas = s.saveAreas := rfl
@[simp] theorem State.setSent_barriers (s : State) (m : Nat) (x : Sent) : (s.setSent m x).barriers = s.barriers := rfl
@[simp] theorem State.setSent_arrivals (s : State) (m : Nat) (x : Sent) : (s.setSent m x).arrivals = s.arrivals := rfl
@[simp] theorem State.setSent_heldMsgs (s : State) (m : Nat) (x : Sent) : (s.setSent m x).heldMsgs = s.heldMsgs := rfl
@[simp] theorem State.setSent_contexts (s : State) (m : Nat) (x : Sent) : (s.setSent m x).contexts = s.contexts := rfl
@[simp] theorem State.setSent_sessions (s : State) (m : Nat) (x : Sent) : (s.setSent m x).sessions = s.sessions := rfl
@[simp] theorem State.setSent_gathers (s : State) (m : Nat) (x : Sent) : (s.setSent m x).gathers = s.gathers := rfl
@[simp] theorem State.setSent_mem (s : State) (m : Nat) (x : Sent) : (s.setSent m x).mem = s.mem := rfl
@[simp] theorem State.setSent_pond (s : State) (m : Nat) (x : Sent) : (s.setSent m x).pond = s.pond := rfl
@[simp] theorem State.setSent_llc (s : State) (m : Nat) (x : Sent) : (s.setSent m x).llc = s.llc := rfl
@[simp] theorem State.setSent_fills (s : State) (m : Nat) (x : Sent) : (s.setSent m x).fills = s.fills := rfl
@[simp] theorem State.setSent_hbmAttr (s : State) (m : Nat) (x : Sent) : (s.setSent m x).hbmAttr = s.hbmAttr := rfl
@[simp] theorem State.setSent_unitBusy (s : State) (m : Nat) (x : Sent) : (s.setSent m x).unitBusy = s.unitBusy := rfl
@[simp] theorem State.setSent_full (s : State) (m : Nat) (x : Sent) : (s.setSent m x).full = s.full := rfl
@[simp] theorem State.setSent_feWait (s : State) (m : Nat) (x : Sent) : (s.setSent m x).feWait = s.feWait := rfl
@[simp] theorem State.setSent_versions (s : State) (m : Nat) (x : Sent) : (s.setSent m x).versions = s.versions := rfl
@[simp] theorem State.setSent_windows (s : State) (m : Nat) (x : Sent) : (s.setSent m x).windows = s.windows := rfl
@[simp] theorem State.setSent_fabric (s : State) (m : Nat) (x : Sent) : (s.setSent m x).fabric = s.fabric := rfl
@[simp] theorem State.setSent_ports_ (s : State) (m : Nat) (x : Sent) : (s.setSent m x).ports_ = s.ports_ := rfl
@[simp] theorem State.setSent_poison (s : State) (m : Nat) (x : Sent) : (s.setSent m x).poison = s.poison := rfl
@[simp] theorem State.setSent_corrected (s : State) (m : Nat) (x : Sent) : (s.setSent m x).corrected = s.corrected := rfl
@[simp] theorem State.setSent_skyUnsync (s : State) (m : Nat) (x : Sent) : (s.setSent m x).skyUnsync = s.skyUnsync := rfl
@[simp] theorem State.setSent_skyTime (s : State) (m : Nat) (x : Sent) : (s.setSent m x).skyTime = s.skyTime := rfl
@[simp] theorem State.setSent_skyAt (s : State) (m : Nat) (x : Sent) : (s.setSent m x).skyAt = s.skyAt := rfl
@[simp] theorem State.setSent_skyPpm (s : State) (m : Nat) (x : Sent) : (s.setSent m x).skyPpm = s.skyPpm := rfl
@[simp] theorem State.setSent_skyErr (s : State) (m : Nat) (x : Sent) : (s.setSent m x).skyErr = s.skyErr := rfl
@[simp] theorem State.setSent_fwRel (s : State) (m : Nat) (x : Sent) : (s.setSent m x).fwRel = s.fwRel := rfl
@[simp] theorem State.setSent_tableGen (s : State) (m : Nat) (x : Sent) : (s.setSent m x).tableGen = s.tableGen := rfl
@[simp] theorem State.setSent_hostOut (s : State) (m : Nat) (x : Sent) : (s.setSent m x).hostOut = s.hostOut := rfl
@[simp] theorem State.setSent_answers (s : State) (m : Nat) (x : Sent) : (s.setSent m x).answers = s.answers := rfl

@[simp] theorem State.setCopy_cycle (s : State) (c : Nat) (x : Copy) : (s.setCopy c x).cycle = s.cycle := rfl
@[simp] theorem State.setCopy_cur (s : State) (c : Nat) (x : Copy) : (s.setCopy c x).cur = s.cur := rfl
@[simp] theorem State.setCopy_arg (s : State) (c : Nat) (x : Copy) : (s.setCopy c x).arg = s.arg := rfl
@[simp] theorem State.setCopy_agenda (s : State) (c : Nat) (x : Copy) : (s.setCopy c x).agenda = s.agenda := rfl
@[simp] theorem State.setCopy_frozen (s : State) (c : Nat) (x : Copy) : (s.setCopy c x).frozen = s.frozen := rfl
@[simp] theorem State.setCopy_uid (s : State) (c : Nat) (x : Copy) : (s.setCopy c x).uid = s.uid := rfl
@[simp] theorem State.setCopy_free (s : State) (c : Nat) (x : Copy) : (s.setCopy c x).free = s.free := rfl
@[simp] theorem State.setCopy_part (s : State) (c : Nat) (x : Copy) : (s.setCopy c x).part = s.part := rfl
@[simp] theorem State.setCopy_slots (s : State) (c : Nat) (x : Copy) : (s.setCopy c x).slots = s.slots := rfl
@[simp] theorem State.setCopy_cores (s : State) (c : Nat) (x : Copy) : (s.setCopy c x).cores = s.cores := rfl
@[simp] theorem State.setCopy_clusters (s : State) (c : Nat) (x : Copy) : (s.setCopy c x).clusters = s.clusters := rfl
@[simp] theorem State.setCopy_mills (s : State) (c : Nat) (x : Copy) : (s.setCopy c x).mills = s.mills := rfl
@[simp] theorem State.setCopy_dies (s : State) (c : Nat) (x : Copy) : (s.setCopy c x).dies = s.dies := rfl
@[simp] theorem State.setCopy_slices (s : State) (c : Nat) (x : Copy) : (s.setCopy c x).slices = s.slices := rfl
@[simp] theorem State.setCopy_net (s : State) (c : Nat) (x : Copy) : (s.setCopy c x).net = s.net := rfl
@[simp] theorem State.setCopy_ports (s : State) (c : Nat) (x : Copy) : (s.setCopy c x).ports = s.ports := rfl
@[simp] theorem State.setCopy_metAt (s : State) (c : Nat) (x : Copy) : (s.setCopy c x).metAt = s.metAt := rfl
@[simp] theorem State.setCopy_reqs (s : State) (c : Nat) (x : Copy) : (s.setCopy c x).reqs = s.reqs := rfl
@[simp] theorem State.setCopy_sents (s : State) (c : Nat) (x : Copy) : (s.setCopy c x).sents = s.sents := rfl
@[simp] theorem State.setCopy_joins (s : State) (c : Nat) (x : Copy) : (s.setCopy c x).joins = s.joins := rfl
@[simp] theorem State.setCopy_walks (s : State) (c : Nat) (x : Copy) : (s.setCopy c x).walks = s.walks := rfl
@[simp] theorem State.setCopy_tiles (s : State) (c : Nat) (x : Copy) : (s.setCopy c x).tiles = s.tiles := rfl
@[simp] theorem State.setCopy_controls (s : State) (c : Nat) (x : Copy) : (s.setCopy c x).controls = s.controls := rfl
@[simp] theorem State.setCopy_rels (s : State) (c : Nat) (x : Copy) : (s.setCopy c x).rels = s.rels := rfl
@[simp] theorem State.setCopy_runs (s : State) (c : Nat) (x : Copy) : (s.setCopy c x).runs = s.runs := rfl
@[simp] theorem State.setCopy_links (s : State) (c : Nat) (x : Copy) : (s.setCopy c x).links = s.links := rfl
@[simp] theorem State.setCopy_credits (s : State) (c : Nat) (x : Copy) : (s.setCopy c x).credits = s.credits := rfl
@[simp] theorem State.setCopy_merges (s : State) (c : Nat) (x : Copy) : (s.setCopy c x).merges = s.merges := rfl
@[simp] theorem State.setCopy_codeStores (s : State) (c : Nat) (x : Copy) : (s.setCopy c x).codeStores = s.codeStores := rfl
@[simp] theorem State.setCopy_launches (s : State) (c : Nat) (x : Copy) : (s.setCopy c x).launches = s.launches := rfl
@[simp] theorem State.setCopy_saves (s : State) (c : Nat) (x : Copy) : (s.setCopy c x).saves = s.saves := rfl
@[simp] theorem State.setCopy_savedSlots (s : State) (c : Nat) (x : Copy) : (s.setCopy c x).savedSlots = s.savedSlots := rfl
@[simp] theorem State.setCopy_vacates (s : State) (c : Nat) (x : Copy) : (s.setCopy c x).vacates = s.vacates := rfl
@[simp] theorem State.setCopy_saveAreas (s : State) (c : Nat) (x : Copy) : (s.setCopy c x).saveAreas = s.saveAreas := rfl
@[simp] theorem State.setCopy_barriers (s : State) (c : Nat) (x : Copy) : (s.setCopy c x).barriers = s.barriers := rfl
@[simp] theorem State.setCopy_arrivals (s : State) (c : Nat) (x : Copy) : (s.setCopy c x).arrivals = s.arrivals := rfl
@[simp] theorem State.setCopy_heldMsgs (s : State) (c : Nat) (x : Copy) : (s.setCopy c x).heldMsgs = s.heldMsgs := rfl
@[simp] theorem State.setCopy_contexts (s : State) (c : Nat) (x : Copy) : (s.setCopy c x).contexts = s.contexts := rfl
@[simp] theorem State.setCopy_sessions (s : State) (c : Nat) (x : Copy) : (s.setCopy c x).sessions = s.sessions := rfl
@[simp] theorem State.setCopy_gathers (s : State) (c : Nat) (x : Copy) : (s.setCopy c x).gathers = s.gathers := rfl
@[simp] theorem State.setCopy_mem (s : State) (c : Nat) (x : Copy) : (s.setCopy c x).mem = s.mem := rfl
@[simp] theorem State.setCopy_pond (s : State) (c : Nat) (x : Copy) : (s.setCopy c x).pond = s.pond := rfl
@[simp] theorem State.setCopy_llc (s : State) (c : Nat) (x : Copy) : (s.setCopy c x).llc = s.llc := rfl
@[simp] theorem State.setCopy_fills (s : State) (c : Nat) (x : Copy) : (s.setCopy c x).fills = s.fills := rfl
@[simp] theorem State.setCopy_hbmAttr (s : State) (c : Nat) (x : Copy) : (s.setCopy c x).hbmAttr = s.hbmAttr := rfl
@[simp] theorem State.setCopy_unitBusy (s : State) (c : Nat) (x : Copy) : (s.setCopy c x).unitBusy = s.unitBusy := rfl
@[simp] theorem State.setCopy_full (s : State) (c : Nat) (x : Copy) : (s.setCopy c x).full = s.full := rfl
@[simp] theorem State.setCopy_feWait (s : State) (c : Nat) (x : Copy) : (s.setCopy c x).feWait = s.feWait := rfl
@[simp] theorem State.setCopy_versions (s : State) (c : Nat) (x : Copy) : (s.setCopy c x).versions = s.versions := rfl
@[simp] theorem State.setCopy_windows (s : State) (c : Nat) (x : Copy) : (s.setCopy c x).windows = s.windows := rfl
@[simp] theorem State.setCopy_fabric (s : State) (c : Nat) (x : Copy) : (s.setCopy c x).fabric = s.fabric := rfl
@[simp] theorem State.setCopy_ports_ (s : State) (c : Nat) (x : Copy) : (s.setCopy c x).ports_ = s.ports_ := rfl
@[simp] theorem State.setCopy_poison (s : State) (c : Nat) (x : Copy) : (s.setCopy c x).poison = s.poison := rfl
@[simp] theorem State.setCopy_corrected (s : State) (c : Nat) (x : Copy) : (s.setCopy c x).corrected = s.corrected := rfl
@[simp] theorem State.setCopy_skyUnsync (s : State) (c : Nat) (x : Copy) : (s.setCopy c x).skyUnsync = s.skyUnsync := rfl
@[simp] theorem State.setCopy_skyTime (s : State) (c : Nat) (x : Copy) : (s.setCopy c x).skyTime = s.skyTime := rfl
@[simp] theorem State.setCopy_skyAt (s : State) (c : Nat) (x : Copy) : (s.setCopy c x).skyAt = s.skyAt := rfl
@[simp] theorem State.setCopy_skyPpm (s : State) (c : Nat) (x : Copy) : (s.setCopy c x).skyPpm = s.skyPpm := rfl
@[simp] theorem State.setCopy_skyErr (s : State) (c : Nat) (x : Copy) : (s.setCopy c x).skyErr = s.skyErr := rfl
@[simp] theorem State.setCopy_fwRel (s : State) (c : Nat) (x : Copy) : (s.setCopy c x).fwRel = s.fwRel := rfl
@[simp] theorem State.setCopy_tableGen (s : State) (c : Nat) (x : Copy) : (s.setCopy c x).tableGen = s.tableGen := rfl
@[simp] theorem State.setCopy_hostOut (s : State) (c : Nat) (x : Copy) : (s.setCopy c x).hostOut = s.hostOut := rfl
@[simp] theorem State.setCopy_answers (s : State) (c : Nat) (x : Copy) : (s.setCopy c x).answers = s.answers := rfl

@[simp] theorem State.setPort_cycle (s : State) (p : Nat) (x : List PondReq) : (s.setPort p x).cycle = s.cycle := rfl
@[simp] theorem State.setPort_cur (s : State) (p : Nat) (x : List PondReq) : (s.setPort p x).cur = s.cur := rfl
@[simp] theorem State.setPort_arg (s : State) (p : Nat) (x : List PondReq) : (s.setPort p x).arg = s.arg := rfl
@[simp] theorem State.setPort_agenda (s : State) (p : Nat) (x : List PondReq) : (s.setPort p x).agenda = s.agenda := rfl
@[simp] theorem State.setPort_frozen (s : State) (p : Nat) (x : List PondReq) : (s.setPort p x).frozen = s.frozen := rfl
@[simp] theorem State.setPort_uid (s : State) (p : Nat) (x : List PondReq) : (s.setPort p x).uid = s.uid := rfl
@[simp] theorem State.setPort_free (s : State) (p : Nat) (x : List PondReq) : (s.setPort p x).free = s.free := rfl
@[simp] theorem State.setPort_part (s : State) (p : Nat) (x : List PondReq) : (s.setPort p x).part = s.part := rfl
@[simp] theorem State.setPort_slots (s : State) (p : Nat) (x : List PondReq) : (s.setPort p x).slots = s.slots := rfl
@[simp] theorem State.setPort_cores (s : State) (p : Nat) (x : List PondReq) : (s.setPort p x).cores = s.cores := rfl
@[simp] theorem State.setPort_clusters (s : State) (p : Nat) (x : List PondReq) : (s.setPort p x).clusters = s.clusters := rfl
@[simp] theorem State.setPort_mills (s : State) (p : Nat) (x : List PondReq) : (s.setPort p x).mills = s.mills := rfl
@[simp] theorem State.setPort_dies (s : State) (p : Nat) (x : List PondReq) : (s.setPort p x).dies = s.dies := rfl
@[simp] theorem State.setPort_slices (s : State) (p : Nat) (x : List PondReq) : (s.setPort p x).slices = s.slices := rfl
@[simp] theorem State.setPort_net (s : State) (p : Nat) (x : List PondReq) : (s.setPort p x).net = s.net := rfl
@[simp] theorem State.setPort_metAt (s : State) (p : Nat) (x : List PondReq) : (s.setPort p x).metAt = s.metAt := rfl
@[simp] theorem State.setPort_reqs (s : State) (p : Nat) (x : List PondReq) : (s.setPort p x).reqs = s.reqs := rfl
@[simp] theorem State.setPort_sents (s : State) (p : Nat) (x : List PondReq) : (s.setPort p x).sents = s.sents := rfl
@[simp] theorem State.setPort_joins (s : State) (p : Nat) (x : List PondReq) : (s.setPort p x).joins = s.joins := rfl
@[simp] theorem State.setPort_walks (s : State) (p : Nat) (x : List PondReq) : (s.setPort p x).walks = s.walks := rfl
@[simp] theorem State.setPort_tiles (s : State) (p : Nat) (x : List PondReq) : (s.setPort p x).tiles = s.tiles := rfl
@[simp] theorem State.setPort_copies (s : State) (p : Nat) (x : List PondReq) : (s.setPort p x).copies = s.copies := rfl
@[simp] theorem State.setPort_controls (s : State) (p : Nat) (x : List PondReq) : (s.setPort p x).controls = s.controls := rfl
@[simp] theorem State.setPort_rels (s : State) (p : Nat) (x : List PondReq) : (s.setPort p x).rels = s.rels := rfl
@[simp] theorem State.setPort_runs (s : State) (p : Nat) (x : List PondReq) : (s.setPort p x).runs = s.runs := rfl
@[simp] theorem State.setPort_links (s : State) (p : Nat) (x : List PondReq) : (s.setPort p x).links = s.links := rfl
@[simp] theorem State.setPort_credits (s : State) (p : Nat) (x : List PondReq) : (s.setPort p x).credits = s.credits := rfl
@[simp] theorem State.setPort_merges (s : State) (p : Nat) (x : List PondReq) : (s.setPort p x).merges = s.merges := rfl
@[simp] theorem State.setPort_codeStores (s : State) (p : Nat) (x : List PondReq) : (s.setPort p x).codeStores = s.codeStores := rfl
@[simp] theorem State.setPort_launches (s : State) (p : Nat) (x : List PondReq) : (s.setPort p x).launches = s.launches := rfl
@[simp] theorem State.setPort_saves (s : State) (p : Nat) (x : List PondReq) : (s.setPort p x).saves = s.saves := rfl
@[simp] theorem State.setPort_savedSlots (s : State) (p : Nat) (x : List PondReq) : (s.setPort p x).savedSlots = s.savedSlots := rfl
@[simp] theorem State.setPort_vacates (s : State) (p : Nat) (x : List PondReq) : (s.setPort p x).vacates = s.vacates := rfl
@[simp] theorem State.setPort_saveAreas (s : State) (p : Nat) (x : List PondReq) : (s.setPort p x).saveAreas = s.saveAreas := rfl
@[simp] theorem State.setPort_barriers (s : State) (p : Nat) (x : List PondReq) : (s.setPort p x).barriers = s.barriers := rfl
@[simp] theorem State.setPort_arrivals (s : State) (p : Nat) (x : List PondReq) : (s.setPort p x).arrivals = s.arrivals := rfl
@[simp] theorem State.setPort_heldMsgs (s : State) (p : Nat) (x : List PondReq) : (s.setPort p x).heldMsgs = s.heldMsgs := rfl
@[simp] theorem State.setPort_contexts (s : State) (p : Nat) (x : List PondReq) : (s.setPort p x).contexts = s.contexts := rfl
@[simp] theorem State.setPort_sessions (s : State) (p : Nat) (x : List PondReq) : (s.setPort p x).sessions = s.sessions := rfl
@[simp] theorem State.setPort_gathers (s : State) (p : Nat) (x : List PondReq) : (s.setPort p x).gathers = s.gathers := rfl
@[simp] theorem State.setPort_mem (s : State) (p : Nat) (x : List PondReq) : (s.setPort p x).mem = s.mem := rfl
@[simp] theorem State.setPort_pond (s : State) (p : Nat) (x : List PondReq) : (s.setPort p x).pond = s.pond := rfl
@[simp] theorem State.setPort_llc (s : State) (p : Nat) (x : List PondReq) : (s.setPort p x).llc = s.llc := rfl
@[simp] theorem State.setPort_fills (s : State) (p : Nat) (x : List PondReq) : (s.setPort p x).fills = s.fills := rfl
@[simp] theorem State.setPort_hbmAttr (s : State) (p : Nat) (x : List PondReq) : (s.setPort p x).hbmAttr = s.hbmAttr := rfl
@[simp] theorem State.setPort_unitBusy (s : State) (p : Nat) (x : List PondReq) : (s.setPort p x).unitBusy = s.unitBusy := rfl
@[simp] theorem State.setPort_full (s : State) (p : Nat) (x : List PondReq) : (s.setPort p x).full = s.full := rfl
@[simp] theorem State.setPort_feWait (s : State) (p : Nat) (x : List PondReq) : (s.setPort p x).feWait = s.feWait := rfl
@[simp] theorem State.setPort_versions (s : State) (p : Nat) (x : List PondReq) : (s.setPort p x).versions = s.versions := rfl
@[simp] theorem State.setPort_windows (s : State) (p : Nat) (x : List PondReq) : (s.setPort p x).windows = s.windows := rfl
@[simp] theorem State.setPort_fabric (s : State) (p : Nat) (x : List PondReq) : (s.setPort p x).fabric = s.fabric := rfl
@[simp] theorem State.setPort_ports_ (s : State) (p : Nat) (x : List PondReq) : (s.setPort p x).ports_ = s.ports_ := rfl
@[simp] theorem State.setPort_poison (s : State) (p : Nat) (x : List PondReq) : (s.setPort p x).poison = s.poison := rfl
@[simp] theorem State.setPort_corrected (s : State) (p : Nat) (x : List PondReq) : (s.setPort p x).corrected = s.corrected := rfl
@[simp] theorem State.setPort_skyUnsync (s : State) (p : Nat) (x : List PondReq) : (s.setPort p x).skyUnsync = s.skyUnsync := rfl
@[simp] theorem State.setPort_skyTime (s : State) (p : Nat) (x : List PondReq) : (s.setPort p x).skyTime = s.skyTime := rfl
@[simp] theorem State.setPort_skyAt (s : State) (p : Nat) (x : List PondReq) : (s.setPort p x).skyAt = s.skyAt := rfl
@[simp] theorem State.setPort_skyPpm (s : State) (p : Nat) (x : List PondReq) : (s.setPort p x).skyPpm = s.skyPpm := rfl
@[simp] theorem State.setPort_skyErr (s : State) (p : Nat) (x : List PondReq) : (s.setPort p x).skyErr = s.skyErr := rfl
@[simp] theorem State.setPort_fwRel (s : State) (p : Nat) (x : List PondReq) : (s.setPort p x).fwRel = s.fwRel := rfl
@[simp] theorem State.setPort_tableGen (s : State) (p : Nat) (x : List PondReq) : (s.setPort p x).tableGen = s.tableGen := rfl
@[simp] theorem State.setPort_hostOut (s : State) (p : Nat) (x : List PondReq) : (s.setPort p x).hostOut = s.hostOut := rfl
@[simp] theorem State.setPort_answers (s : State) (p : Nat) (x : List PondReq) : (s.setPort p x).answers = s.answers := rfl

@[simp] theorem State.post_cycle (s : State) (t c p : Nat) (i : Instr) (a : List Nat) : (s.post t c p i a).cycle = s.cycle := rfl
@[simp] theorem State.post_cur (s : State) (t c p : Nat) (i : Instr) (a : List Nat) : (s.post t c p i a).cur = s.cur := rfl
@[simp] theorem State.post_arg (s : State) (t c p : Nat) (i : Instr) (a : List Nat) : (s.post t c p i a).arg = s.arg := rfl
@[simp] theorem State.post_frozen (s : State) (t c p : Nat) (i : Instr) (a : List Nat) : (s.post t c p i a).frozen = s.frozen := rfl
@[simp] theorem State.post_uid (s : State) (t c p : Nat) (i : Instr) (a : List Nat) : (s.post t c p i a).uid = s.uid := rfl
@[simp] theorem State.post_free (s : State) (t c p : Nat) (i : Instr) (a : List Nat) : (s.post t c p i a).free = s.free := rfl
@[simp] theorem State.post_part (s : State) (t c p : Nat) (i : Instr) (a : List Nat) : (s.post t c p i a).part = s.part := rfl
@[simp] theorem State.post_slots (s : State) (t c p : Nat) (i : Instr) (a : List Nat) : (s.post t c p i a).slots = s.slots := rfl
@[simp] theorem State.post_cores (s : State) (t c p : Nat) (i : Instr) (a : List Nat) : (s.post t c p i a).cores = s.cores := rfl
@[simp] theorem State.post_clusters (s : State) (t c p : Nat) (i : Instr) (a : List Nat) : (s.post t c p i a).clusters = s.clusters := rfl
@[simp] theorem State.post_mills (s : State) (t c p : Nat) (i : Instr) (a : List Nat) : (s.post t c p i a).mills = s.mills := rfl
@[simp] theorem State.post_dies (s : State) (t c p : Nat) (i : Instr) (a : List Nat) : (s.post t c p i a).dies = s.dies := rfl
@[simp] theorem State.post_slices (s : State) (t c p : Nat) (i : Instr) (a : List Nat) : (s.post t c p i a).slices = s.slices := rfl
@[simp] theorem State.post_net (s : State) (t c p : Nat) (i : Instr) (a : List Nat) : (s.post t c p i a).net = s.net := rfl
@[simp] theorem State.post_ports (s : State) (t c p : Nat) (i : Instr) (a : List Nat) : (s.post t c p i a).ports = s.ports := rfl
@[simp] theorem State.post_metAt (s : State) (t c p : Nat) (i : Instr) (a : List Nat) : (s.post t c p i a).metAt = s.metAt := rfl
@[simp] theorem State.post_reqs (s : State) (t c p : Nat) (i : Instr) (a : List Nat) : (s.post t c p i a).reqs = s.reqs := rfl
@[simp] theorem State.post_sents (s : State) (t c p : Nat) (i : Instr) (a : List Nat) : (s.post t c p i a).sents = s.sents := rfl
@[simp] theorem State.post_joins (s : State) (t c p : Nat) (i : Instr) (a : List Nat) : (s.post t c p i a).joins = s.joins := rfl
@[simp] theorem State.post_walks (s : State) (t c p : Nat) (i : Instr) (a : List Nat) : (s.post t c p i a).walks = s.walks := rfl
@[simp] theorem State.post_tiles (s : State) (t c p : Nat) (i : Instr) (a : List Nat) : (s.post t c p i a).tiles = s.tiles := rfl
@[simp] theorem State.post_copies (s : State) (t c p : Nat) (i : Instr) (a : List Nat) : (s.post t c p i a).copies = s.copies := rfl
@[simp] theorem State.post_controls (s : State) (t c p : Nat) (i : Instr) (a : List Nat) : (s.post t c p i a).controls = s.controls := rfl
@[simp] theorem State.post_rels (s : State) (t c p : Nat) (i : Instr) (a : List Nat) : (s.post t c p i a).rels = s.rels := rfl
@[simp] theorem State.post_runs (s : State) (t c p : Nat) (i : Instr) (a : List Nat) : (s.post t c p i a).runs = s.runs := rfl
@[simp] theorem State.post_links (s : State) (t c p : Nat) (i : Instr) (a : List Nat) : (s.post t c p i a).links = s.links := rfl
@[simp] theorem State.post_credits (s : State) (t c p : Nat) (i : Instr) (a : List Nat) : (s.post t c p i a).credits = s.credits := rfl
@[simp] theorem State.post_merges (s : State) (t c p : Nat) (i : Instr) (a : List Nat) : (s.post t c p i a).merges = s.merges := rfl
@[simp] theorem State.post_codeStores (s : State) (t c p : Nat) (i : Instr) (a : List Nat) : (s.post t c p i a).codeStores = s.codeStores := rfl
@[simp] theorem State.post_launches (s : State) (t c p : Nat) (i : Instr) (a : List Nat) : (s.post t c p i a).launches = s.launches := rfl
@[simp] theorem State.post_saves (s : State) (t c p : Nat) (i : Instr) (a : List Nat) : (s.post t c p i a).saves = s.saves := rfl
@[simp] theorem State.post_savedSlots (s : State) (t c p : Nat) (i : Instr) (a : List Nat) : (s.post t c p i a).savedSlots = s.savedSlots := rfl
@[simp] theorem State.post_vacates (s : State) (t c p : Nat) (i : Instr) (a : List Nat) : (s.post t c p i a).vacates = s.vacates := rfl
@[simp] theorem State.post_saveAreas (s : State) (t c p : Nat) (i : Instr) (a : List Nat) : (s.post t c p i a).saveAreas = s.saveAreas := rfl
@[simp] theorem State.post_barriers (s : State) (t c p : Nat) (i : Instr) (a : List Nat) : (s.post t c p i a).barriers = s.barriers := rfl
@[simp] theorem State.post_arrivals (s : State) (t c p : Nat) (i : Instr) (a : List Nat) : (s.post t c p i a).arrivals = s.arrivals := rfl
@[simp] theorem State.post_heldMsgs (s : State) (t c p : Nat) (i : Instr) (a : List Nat) : (s.post t c p i a).heldMsgs = s.heldMsgs := rfl
@[simp] theorem State.post_contexts (s : State) (t c p : Nat) (i : Instr) (a : List Nat) : (s.post t c p i a).contexts = s.contexts := rfl
@[simp] theorem State.post_sessions (s : State) (t c p : Nat) (i : Instr) (a : List Nat) : (s.post t c p i a).sessions = s.sessions := rfl
@[simp] theorem State.post_gathers (s : State) (t c p : Nat) (i : Instr) (a : List Nat) : (s.post t c p i a).gathers = s.gathers := rfl
@[simp] theorem State.post_mem (s : State) (t c p : Nat) (i : Instr) (a : List Nat) : (s.post t c p i a).mem = s.mem := rfl
@[simp] theorem State.post_pond (s : State) (t c p : Nat) (i : Instr) (a : List Nat) : (s.post t c p i a).pond = s.pond := rfl
@[simp] theorem State.post_llc (s : State) (t c p : Nat) (i : Instr) (a : List Nat) : (s.post t c p i a).llc = s.llc := rfl
@[simp] theorem State.post_fills (s : State) (t c p : Nat) (i : Instr) (a : List Nat) : (s.post t c p i a).fills = s.fills := rfl
@[simp] theorem State.post_hbmAttr (s : State) (t c p : Nat) (i : Instr) (a : List Nat) : (s.post t c p i a).hbmAttr = s.hbmAttr := rfl
@[simp] theorem State.post_unitBusy (s : State) (t c p : Nat) (i : Instr) (a : List Nat) : (s.post t c p i a).unitBusy = s.unitBusy := rfl
@[simp] theorem State.post_full (s : State) (t c p : Nat) (i : Instr) (a : List Nat) : (s.post t c p i a).full = s.full := rfl
@[simp] theorem State.post_feWait (s : State) (t c p : Nat) (i : Instr) (a : List Nat) : (s.post t c p i a).feWait = s.feWait := rfl
@[simp] theorem State.post_versions (s : State) (t c p : Nat) (i : Instr) (a : List Nat) : (s.post t c p i a).versions = s.versions := rfl
@[simp] theorem State.post_windows (s : State) (t c p : Nat) (i : Instr) (a : List Nat) : (s.post t c p i a).windows = s.windows := rfl
@[simp] theorem State.post_fabric (s : State) (t c p : Nat) (i : Instr) (a : List Nat) : (s.post t c p i a).fabric = s.fabric := rfl
@[simp] theorem State.post_ports_ (s : State) (t c p : Nat) (i : Instr) (a : List Nat) : (s.post t c p i a).ports_ = s.ports_ := rfl
@[simp] theorem State.post_poison (s : State) (t c p : Nat) (i : Instr) (a : List Nat) : (s.post t c p i a).poison = s.poison := rfl
@[simp] theorem State.post_corrected (s : State) (t c p : Nat) (i : Instr) (a : List Nat) : (s.post t c p i a).corrected = s.corrected := rfl
@[simp] theorem State.post_skyUnsync (s : State) (t c p : Nat) (i : Instr) (a : List Nat) : (s.post t c p i a).skyUnsync = s.skyUnsync := rfl
@[simp] theorem State.post_skyTime (s : State) (t c p : Nat) (i : Instr) (a : List Nat) : (s.post t c p i a).skyTime = s.skyTime := rfl
@[simp] theorem State.post_skyAt (s : State) (t c p : Nat) (i : Instr) (a : List Nat) : (s.post t c p i a).skyAt = s.skyAt := rfl
@[simp] theorem State.post_skyPpm (s : State) (t c p : Nat) (i : Instr) (a : List Nat) : (s.post t c p i a).skyPpm = s.skyPpm := rfl
@[simp] theorem State.post_skyErr (s : State) (t c p : Nat) (i : Instr) (a : List Nat) : (s.post t c p i a).skyErr = s.skyErr := rfl
@[simp] theorem State.post_fwRel (s : State) (t c p : Nat) (i : Instr) (a : List Nat) : (s.post t c p i a).fwRel = s.fwRel := rfl
@[simp] theorem State.post_tableGen (s : State) (t c p : Nat) (i : Instr) (a : List Nat) : (s.post t c p i a).tableGen = s.tableGen := rfl
@[simp] theorem State.post_hostOut (s : State) (t c p : Nat) (i : Instr) (a : List Nat) : (s.post t c p i a).hostOut = s.hostOut := rfl
@[simp] theorem State.post_answers (s : State) (t c p : Nat) (i : Instr) (a : List Nat) : (s.post t c p i a).answers = s.answers := rfl

@[simp] theorem State.turnAt_cycle (s : State) (g t : Nat) : (s.turnAt g t).cycle = s.cycle := rfl
@[simp] theorem State.turnAt_cur (s : State) (g t : Nat) : (s.turnAt g t).cur = s.cur := rfl
@[simp] theorem State.turnAt_arg (s : State) (g t : Nat) : (s.turnAt g t).arg = s.arg := rfl
@[simp] theorem State.turnAt_frozen (s : State) (g t : Nat) : (s.turnAt g t).frozen = s.frozen := rfl
@[simp] theorem State.turnAt_uid (s : State) (g t : Nat) : (s.turnAt g t).uid = s.uid := rfl
@[simp] theorem State.turnAt_free (s : State) (g t : Nat) : (s.turnAt g t).free = s.free := rfl
@[simp] theorem State.turnAt_part (s : State) (g t : Nat) : (s.turnAt g t).part = s.part := rfl
@[simp] theorem State.turnAt_cores (s : State) (g t : Nat) : (s.turnAt g t).cores = s.cores := rfl
@[simp] theorem State.turnAt_clusters (s : State) (g t : Nat) : (s.turnAt g t).clusters = s.clusters := rfl
@[simp] theorem State.turnAt_mills (s : State) (g t : Nat) : (s.turnAt g t).mills = s.mills := rfl
@[simp] theorem State.turnAt_dies (s : State) (g t : Nat) : (s.turnAt g t).dies = s.dies := rfl
@[simp] theorem State.turnAt_slices (s : State) (g t : Nat) : (s.turnAt g t).slices = s.slices := rfl
@[simp] theorem State.turnAt_net (s : State) (g t : Nat) : (s.turnAt g t).net = s.net := rfl
@[simp] theorem State.turnAt_ports (s : State) (g t : Nat) : (s.turnAt g t).ports = s.ports := rfl
@[simp] theorem State.turnAt_metAt (s : State) (g t : Nat) : (s.turnAt g t).metAt = s.metAt := rfl
@[simp] theorem State.turnAt_reqs (s : State) (g t : Nat) : (s.turnAt g t).reqs = s.reqs := rfl
@[simp] theorem State.turnAt_sents (s : State) (g t : Nat) : (s.turnAt g t).sents = s.sents := rfl
@[simp] theorem State.turnAt_joins (s : State) (g t : Nat) : (s.turnAt g t).joins = s.joins := rfl
@[simp] theorem State.turnAt_walks (s : State) (g t : Nat) : (s.turnAt g t).walks = s.walks := rfl
@[simp] theorem State.turnAt_tiles (s : State) (g t : Nat) : (s.turnAt g t).tiles = s.tiles := rfl
@[simp] theorem State.turnAt_copies (s : State) (g t : Nat) : (s.turnAt g t).copies = s.copies := rfl
@[simp] theorem State.turnAt_controls (s : State) (g t : Nat) : (s.turnAt g t).controls = s.controls := rfl
@[simp] theorem State.turnAt_rels (s : State) (g t : Nat) : (s.turnAt g t).rels = s.rels := rfl
@[simp] theorem State.turnAt_runs (s : State) (g t : Nat) : (s.turnAt g t).runs = s.runs := rfl
@[simp] theorem State.turnAt_links (s : State) (g t : Nat) : (s.turnAt g t).links = s.links := rfl
@[simp] theorem State.turnAt_credits (s : State) (g t : Nat) : (s.turnAt g t).credits = s.credits := rfl
@[simp] theorem State.turnAt_merges (s : State) (g t : Nat) : (s.turnAt g t).merges = s.merges := rfl
@[simp] theorem State.turnAt_codeStores (s : State) (g t : Nat) : (s.turnAt g t).codeStores = s.codeStores := rfl
@[simp] theorem State.turnAt_launches (s : State) (g t : Nat) : (s.turnAt g t).launches = s.launches := rfl
@[simp] theorem State.turnAt_saves (s : State) (g t : Nat) : (s.turnAt g t).saves = s.saves := rfl
@[simp] theorem State.turnAt_savedSlots (s : State) (g t : Nat) : (s.turnAt g t).savedSlots = s.savedSlots := rfl
@[simp] theorem State.turnAt_vacates (s : State) (g t : Nat) : (s.turnAt g t).vacates = s.vacates := rfl
@[simp] theorem State.turnAt_saveAreas (s : State) (g t : Nat) : (s.turnAt g t).saveAreas = s.saveAreas := rfl
@[simp] theorem State.turnAt_barriers (s : State) (g t : Nat) : (s.turnAt g t).barriers = s.barriers := rfl
@[simp] theorem State.turnAt_arrivals (s : State) (g t : Nat) : (s.turnAt g t).arrivals = s.arrivals := rfl
@[simp] theorem State.turnAt_heldMsgs (s : State) (g t : Nat) : (s.turnAt g t).heldMsgs = s.heldMsgs := rfl
@[simp] theorem State.turnAt_contexts (s : State) (g t : Nat) : (s.turnAt g t).contexts = s.contexts := rfl
@[simp] theorem State.turnAt_sessions (s : State) (g t : Nat) : (s.turnAt g t).sessions = s.sessions := rfl
@[simp] theorem State.turnAt_gathers (s : State) (g t : Nat) : (s.turnAt g t).gathers = s.gathers := rfl
@[simp] theorem State.turnAt_mem (s : State) (g t : Nat) : (s.turnAt g t).mem = s.mem := rfl
@[simp] theorem State.turnAt_pond (s : State) (g t : Nat) : (s.turnAt g t).pond = s.pond := rfl
@[simp] theorem State.turnAt_llc (s : State) (g t : Nat) : (s.turnAt g t).llc = s.llc := rfl
@[simp] theorem State.turnAt_fills (s : State) (g t : Nat) : (s.turnAt g t).fills = s.fills := rfl
@[simp] theorem State.turnAt_hbmAttr (s : State) (g t : Nat) : (s.turnAt g t).hbmAttr = s.hbmAttr := rfl
@[simp] theorem State.turnAt_unitBusy (s : State) (g t : Nat) : (s.turnAt g t).unitBusy = s.unitBusy := rfl
@[simp] theorem State.turnAt_full (s : State) (g t : Nat) : (s.turnAt g t).full = s.full := rfl
@[simp] theorem State.turnAt_feWait (s : State) (g t : Nat) : (s.turnAt g t).feWait = s.feWait := rfl
@[simp] theorem State.turnAt_versions (s : State) (g t : Nat) : (s.turnAt g t).versions = s.versions := rfl
@[simp] theorem State.turnAt_windows (s : State) (g t : Nat) : (s.turnAt g t).windows = s.windows := rfl
@[simp] theorem State.turnAt_fabric (s : State) (g t : Nat) : (s.turnAt g t).fabric = s.fabric := rfl
@[simp] theorem State.turnAt_ports_ (s : State) (g t : Nat) : (s.turnAt g t).ports_ = s.ports_ := rfl
@[simp] theorem State.turnAt_poison (s : State) (g t : Nat) : (s.turnAt g t).poison = s.poison := rfl
@[simp] theorem State.turnAt_corrected (s : State) (g t : Nat) : (s.turnAt g t).corrected = s.corrected := rfl
@[simp] theorem State.turnAt_skyUnsync (s : State) (g t : Nat) : (s.turnAt g t).skyUnsync = s.skyUnsync := rfl
@[simp] theorem State.turnAt_skyTime (s : State) (g t : Nat) : (s.turnAt g t).skyTime = s.skyTime := rfl
@[simp] theorem State.turnAt_skyAt (s : State) (g t : Nat) : (s.turnAt g t).skyAt = s.skyAt := rfl
@[simp] theorem State.turnAt_skyPpm (s : State) (g t : Nat) : (s.turnAt g t).skyPpm = s.skyPpm := rfl
@[simp] theorem State.turnAt_skyErr (s : State) (g t : Nat) : (s.turnAt g t).skyErr = s.skyErr := rfl
@[simp] theorem State.turnAt_fwRel (s : State) (g t : Nat) : (s.turnAt g t).fwRel = s.fwRel := rfl
@[simp] theorem State.turnAt_tableGen (s : State) (g t : Nat) : (s.turnAt g t).tableGen = s.tableGen := rfl
@[simp] theorem State.turnAt_hostOut (s : State) (g t : Nat) : (s.turnAt g t).hostOut = s.hostOut := rfl
@[simp] theorem State.turnAt_answers (s : State) (g t : Nat) : (s.turnAt g t).answers = s.answers := rfl

@[simp] theorem State.again_cycle (s : State) (g : Nat) : (s.again g).cycle = s.cycle := rfl
@[simp] theorem State.again_cur (s : State) (g : Nat) : (s.again g).cur = s.cur := rfl
@[simp] theorem State.again_arg (s : State) (g : Nat) : (s.again g).arg = s.arg := rfl
@[simp] theorem State.again_frozen (s : State) (g : Nat) : (s.again g).frozen = s.frozen := rfl
@[simp] theorem State.again_uid (s : State) (g : Nat) : (s.again g).uid = s.uid := rfl
@[simp] theorem State.again_free (s : State) (g : Nat) : (s.again g).free = s.free := rfl
@[simp] theorem State.again_part (s : State) (g : Nat) : (s.again g).part = s.part := rfl
@[simp] theorem State.again_cores (s : State) (g : Nat) : (s.again g).cores = s.cores := rfl
@[simp] theorem State.again_clusters (s : State) (g : Nat) : (s.again g).clusters = s.clusters := rfl
@[simp] theorem State.again_mills (s : State) (g : Nat) : (s.again g).mills = s.mills := rfl
@[simp] theorem State.again_dies (s : State) (g : Nat) : (s.again g).dies = s.dies := rfl
@[simp] theorem State.again_slices (s : State) (g : Nat) : (s.again g).slices = s.slices := rfl
@[simp] theorem State.again_net (s : State) (g : Nat) : (s.again g).net = s.net := rfl
@[simp] theorem State.again_ports (s : State) (g : Nat) : (s.again g).ports = s.ports := rfl
@[simp] theorem State.again_metAt (s : State) (g : Nat) : (s.again g).metAt = s.metAt := rfl
@[simp] theorem State.again_reqs (s : State) (g : Nat) : (s.again g).reqs = s.reqs := rfl
@[simp] theorem State.again_sents (s : State) (g : Nat) : (s.again g).sents = s.sents := rfl
@[simp] theorem State.again_joins (s : State) (g : Nat) : (s.again g).joins = s.joins := rfl
@[simp] theorem State.again_walks (s : State) (g : Nat) : (s.again g).walks = s.walks := rfl
@[simp] theorem State.again_tiles (s : State) (g : Nat) : (s.again g).tiles = s.tiles := rfl
@[simp] theorem State.again_copies (s : State) (g : Nat) : (s.again g).copies = s.copies := rfl
@[simp] theorem State.again_controls (s : State) (g : Nat) : (s.again g).controls = s.controls := rfl
@[simp] theorem State.again_rels (s : State) (g : Nat) : (s.again g).rels = s.rels := rfl
@[simp] theorem State.again_runs (s : State) (g : Nat) : (s.again g).runs = s.runs := rfl
@[simp] theorem State.again_links (s : State) (g : Nat) : (s.again g).links = s.links := rfl
@[simp] theorem State.again_credits (s : State) (g : Nat) : (s.again g).credits = s.credits := rfl
@[simp] theorem State.again_merges (s : State) (g : Nat) : (s.again g).merges = s.merges := rfl
@[simp] theorem State.again_codeStores (s : State) (g : Nat) : (s.again g).codeStores = s.codeStores := rfl
@[simp] theorem State.again_launches (s : State) (g : Nat) : (s.again g).launches = s.launches := rfl
@[simp] theorem State.again_saves (s : State) (g : Nat) : (s.again g).saves = s.saves := rfl
@[simp] theorem State.again_savedSlots (s : State) (g : Nat) : (s.again g).savedSlots = s.savedSlots := rfl
@[simp] theorem State.again_vacates (s : State) (g : Nat) : (s.again g).vacates = s.vacates := rfl
@[simp] theorem State.again_saveAreas (s : State) (g : Nat) : (s.again g).saveAreas = s.saveAreas := rfl
@[simp] theorem State.again_barriers (s : State) (g : Nat) : (s.again g).barriers = s.barriers := rfl
@[simp] theorem State.again_arrivals (s : State) (g : Nat) : (s.again g).arrivals = s.arrivals := rfl
@[simp] theorem State.again_heldMsgs (s : State) (g : Nat) : (s.again g).heldMsgs = s.heldMsgs := rfl
@[simp] theorem State.again_contexts (s : State) (g : Nat) : (s.again g).contexts = s.contexts := rfl
@[simp] theorem State.again_sessions (s : State) (g : Nat) : (s.again g).sessions = s.sessions := rfl
@[simp] theorem State.again_gathers (s : State) (g : Nat) : (s.again g).gathers = s.gathers := rfl
@[simp] theorem State.again_mem (s : State) (g : Nat) : (s.again g).mem = s.mem := rfl
@[simp] theorem State.again_pond (s : State) (g : Nat) : (s.again g).pond = s.pond := rfl
@[simp] theorem State.again_llc (s : State) (g : Nat) : (s.again g).llc = s.llc := rfl
@[simp] theorem State.again_fills (s : State) (g : Nat) : (s.again g).fills = s.fills := rfl
@[simp] theorem State.again_hbmAttr (s : State) (g : Nat) : (s.again g).hbmAttr = s.hbmAttr := rfl
@[simp] theorem State.again_unitBusy (s : State) (g : Nat) : (s.again g).unitBusy = s.unitBusy := rfl
@[simp] theorem State.again_full (s : State) (g : Nat) : (s.again g).full = s.full := rfl
@[simp] theorem State.again_feWait (s : State) (g : Nat) : (s.again g).feWait = s.feWait := rfl
@[simp] theorem State.again_versions (s : State) (g : Nat) : (s.again g).versions = s.versions := rfl
@[simp] theorem State.again_windows (s : State) (g : Nat) : (s.again g).windows = s.windows := rfl
@[simp] theorem State.again_fabric (s : State) (g : Nat) : (s.again g).fabric = s.fabric := rfl
@[simp] theorem State.again_ports_ (s : State) (g : Nat) : (s.again g).ports_ = s.ports_ := rfl
@[simp] theorem State.again_poison (s : State) (g : Nat) : (s.again g).poison = s.poison := rfl
@[simp] theorem State.again_corrected (s : State) (g : Nat) : (s.again g).corrected = s.corrected := rfl
@[simp] theorem State.again_skyUnsync (s : State) (g : Nat) : (s.again g).skyUnsync = s.skyUnsync := rfl
@[simp] theorem State.again_skyTime (s : State) (g : Nat) : (s.again g).skyTime = s.skyTime := rfl
@[simp] theorem State.again_skyAt (s : State) (g : Nat) : (s.again g).skyAt = s.skyAt := rfl
@[simp] theorem State.again_skyPpm (s : State) (g : Nat) : (s.again g).skyPpm = s.skyPpm := rfl
@[simp] theorem State.again_skyErr (s : State) (g : Nat) : (s.again g).skyErr = s.skyErr := rfl
@[simp] theorem State.again_fwRel (s : State) (g : Nat) : (s.again g).fwRel = s.fwRel := rfl
@[simp] theorem State.again_tableGen (s : State) (g : Nat) : (s.again g).tableGen = s.tableGen := rfl
@[simp] theorem State.again_hostOut (s : State) (g : Nat) : (s.again g).hostOut = s.hostOut := rfl
@[simp] theorem State.again_answers (s : State) (g : Nat) : (s.again g).answers = s.answers := rfl

@[simp] theorem State.updSlot_eq (s : State) (g : Nat) (f : Slot → Slot) : s.updSlot g f = s.setSlot g (f (s.slot g)) := rfl
@[simp] theorem State.updCluster_eq (s : State) (g : Nat) (f : Cluster → Cluster) : s.updCluster g f = s.setCluster g (f (s.cluster g)) := rfl
@[simp] theorem State.updMill_eq (s : State) (g : Nat) (f : Mill → Mill) : s.updMill g f = s.setMill g (f (s.mill g)) := rfl
@[simp] theorem State.updDie_eq (s : State) (g : Nat) (f : Die → Die) : s.updDie g f = s.setDie g (f (s.die g)) := rfl
@[simp] theorem State.updLaunch_eq (s : State) (g : Nat) (f : Launch → Launch) : s.updLaunch g f = s.setLaunch g (f (s.launchOf g)) := rfl
@[simp] theorem State.updMe_eq (s : State) (f : Slot → Slot) : s.updMe f = s.setSlot s.cur (f (s.slot s.cur)) := rfl
@[simp] theorem State.setMe_eq (s : State) (x : Slot) : s.setMe x = s.setSlot s.cur x := rfl

/-- A register write touches the running slot alone. -/
theorem State.writeA_shape (s : State) (x : Args) (w : Word) : s.writeA x w = { s with slots := (s.writeA x w).slots } := by
  unfold State.writeA; split <;> rfl

/-- Going on touches the running slot and the agenda alone. -/
theorem State.advance_shape (s : State) :
    s.advance = { s with slots := s.advance.slots, agenda := s.advance.agenda } := rfl

/-- So does a jump. -/
theorem State.jump_shape (s : State) (pc : BitVec 32) :
    s.jump pc = { s with slots := (s.jump pc).slots, agenda := (s.jump pc).agenda } := rfl

/-- And parking. -/
theorem State.park_shape (s : State) (g : Nat) (why : Park) :
    s.park g why = { s with slots := (s.park g why).slots, agenda := (s.park g why).agenda } := rfl

end Sys2Proof.Machine
end

