-- ==== Sys2Proof/Laws/Issue.lean ====
section
/-! SUPPORT. Everything that the issue of an instruction can do: its own effect, an exception, a park at its marker, or
nothing but going on. -/

namespace Sys2Proof.Machine

open Sys2Proof

/-- Where the instruction begins, issuing it is its own effect. -/
theorem State.issue_begins {s r : State} {op fn : Nat} {x : Args} {takes always : Bool} (body : State → State)
    (h : s.begins op fn x takes always = some r) : s.issue op fn x takes always body = body r := by
  unfold State.begins at h
  split at h
  · rename_i hc
    simp only [State.accepted, Bool.and_eq_true, Bool.or_eq_true, Bool.not_eq_true'] at hc
    obtain ⟨⟨⟨h1, h2⟩, h3⟩, hg⟩ := hc
    have hn : (isPrivileged op fn x && !isSupervisor s.cur) = false := by rcases h3 with h3 | h3 <;> simp [h3]
    have e : s.issue op fn x takes always body =
        if s.runsMarker x takes always then (match s.marker with | .parked s => s | .faulted s => s | .done s => body s)
        else body s := by
      unfold State.issue State.runsMarker
      rw [h1, h2, hn, hg]; cases x.j <;> cases always <;> cases takes <;> cases s.marker <;> simp
    rw [e]
    split at h
    · rename_i hr
      rw [if_pos hr]
      split at h
      · rename_i hm; rw [hm]; cases h; rfl
      · cases h
    · rename_i hr
      rw [if_neg hr]; cases h; rfl
  · cases h

/-- Where the context does not accept the pair or the format is not sound: ILLOP. -/
theorem State.issue_illop {s : State} {op fn : Nat} {x : Args} {takes always : Bool} (body : State → State)
    (h : (s.featureOk op fn x && formatOk op fn x) = false) :
    s.issue op fn x takes always body = s.raise fcIllop (illopDetail (encWord op fn x)) := by
  unfold State.issue
  cases h1 : s.featureOk op fn x <;> cases h2 : formatOk op fn x <;> simp_all

/-- A privileged form outside a supervisor slot: PRIV. -/
theorem State.issue_priv {s : State} {op fn : Nat} {x : Args} {takes always : Bool} (body : State → State)
    (h1 : s.featureOk op fn x = true) (h2 : formatOk op fn x = true) (h3 : isPrivileged op fn x = true)
    (h4 : isSupervisor s.cur = false) :
    s.issue op fn x takes always body = s.raise fcPriv (if op == 1 then csrOperand fn x else 0) := by
  unfold State.issue; simp [h1, h2, h3, h4]

/-- A false guard without a J marker only goes on. -/
theorem State.issue_skips {s : State} {op fn : Nat} {x : Args} {takes always : Bool} (body : State → State)
    (h : s.accepted op fn x = true) (hg : s.guard x = false) (hj : x.j = false) :
    s.issue op fn x takes always body = s.advance := by
  simp only [State.accepted, Bool.and_eq_true, Bool.or_eq_true, Bool.not_eq_true'] at h
  obtain ⟨⟨h1, h2⟩, h3⟩ := h
  unfold State.issue
  rcases h3 with h3 | h3 <;> simp [h1, h2, h3, hg, hj]

/-- A false guard with a J marker that finds all landed goes on with the marker's writes. -/
theorem State.issue_skips_marked {s r : State} {op fn : Nat} {x : Args} {takes always : Bool} (body : State → State)
    (h : s.accepted op fn x = true) (hg : s.guard x = false) (hj : x.j = true) (hm : s.marker = .done r) :
    s.issue op fn x takes always body = r.advance := by
  simp only [State.accepted, Bool.and_eq_true, Bool.or_eq_true, Bool.not_eq_true'] at h
  obtain ⟨⟨h1, h2⟩, h3⟩ := h
  unfold State.issue
  rcases h3 with h3 | h3 <;> simp [h1, h2, h3, hg, hj, hm]

/-- A marker that parks or meets a fault is all that happens. -/
theorem State.issue_marker {s r : State} {op fn : Nat} {x : Args} {takes always : Bool} (body : State → State)
    (h : s.accepted op fn x = true) (hr : (x.j || s.guard x && s.runsMarker x takes always) = true)
    (hm : s.marker = .parked r ∨ s.marker = .faulted r) :
    s.issue op fn x takes always body = r := by
  simp only [State.accepted, Bool.and_eq_true, Bool.or_eq_true, Bool.not_eq_true'] at h
  obtain ⟨⟨h1, h2⟩, h3⟩ := h
  unfold State.issue
  have hr' : (x.j || s.guard x && (always || takes && decide (8 ≤ s.me.outstanding))) = true := by
    revert hr; unfold State.runsMarker
    cases x.j <;> cases s.guard x <;> cases always <;> simp
  rcases h3 with h3 | h3 <;> rcases hm with hm | hm <;> simp [h1, h2, h3, hm, hr']

/-- A meaning that takes no entry is the next state of its issue. -/
theorem plain_eq (op fn : Nat) (x : Args) (s : State) (body : State → State) :
    plain op fn x s body = .next (s.issue op fn x false false body) := rfl

/-- A meaning that takes an entry is the next state of its issue. -/
theorem buffered_eq (op fn : Nat) (x : Args) (s : State) (body : State → State) :
    buffered op fn x s body = .next (s.issue op fn x true false body) := rfl

end Sys2Proof.Machine
end

