-- ==== Sys2Proof/Laws/Tables.lean ====
section
/-! SUPPORT. Sparse tables, memory and registers: read after write, frames, and the canonical form. -/

namespace Sys2Proof.Machine

open Sys2Proof

/-- A table whose keys all exceed `k`. -/
def Tab.above {α : Type} (k : Nat) (t : Tab α) : Bool := t.all (fun p => decide (k < p.1))

theorem Tab.wf_cons {α : Type} [DecidableEq α] (d : α) (k : Nat) (v : α) (t : Tab α) :
    Tab.wf d ((k, v) :: t) = true ↔ v ≠ d ∧ Tab.above k t = true ∧ Tab.wf d t = true := by
  induction t generalizing k v with
  | nil => simp [Tab.wf, Tab.above]
  | cons p t ih =>
    obtain ⟨k', v'⟩ := p
    have h := ih k' v'
    rw [show Tab.wf d ((k, v) :: (k', v') :: t) = (decide (v ≠ d) && decide (k < k') && Tab.wf d ((k', v') :: t)) from rfl]
    simp only [Bool.and_eq_true, decide_eq_true_eq, Tab.above, List.all_cons, List.all_eq_true] at h ⊢
    constructor
    · rintro ⟨⟨hv, hk⟩, hw⟩
      refine ⟨hv, ⟨hk, fun q hq => ?_⟩, hw⟩
      exact lt_trans hk ((h.mp hw).2.1 q hq)
    · rintro ⟨hv, ⟨hk, _⟩, hw⟩
      exact ⟨⟨hv, hk⟩, hw⟩

theorem tget_above {α : Type} (d : α) (t : Tab α) (k i : Nat) (h : Tab.above k t = true) (hi : i ≤ k) : tget d t i = d := by
  cases t with
  | nil => rfl
  | cons p t =>
    obtain ⟨k', v'⟩ := p
    simp only [Tab.above, List.all_cons, Bool.and_eq_true, decide_eq_true_eq] at h
    have h1 : ¬ i = k' := by omega
    have h2 : i < k' := by omega
    simp [tget, h1, h2]

@[simp] theorem tget_tins_same {α : Type} (d : α) (t : Tab α) (i : Nat) (a : α) : tget d (tins t i a) i = a := by
  induction t with
  | nil => simp [tins, tget]
  | cons p t ih =>
    obtain ⟨k, v⟩ := p
    simp only [tins, beq_iff_eq]
    split
    · simp [tget]
    · split
      · simp [tget]
      · simp_all [tget]

theorem tget_tins_other {α : Type} (d : α) (t : Tab α) (i j : Nat) (a : α) (h : j ≠ i) :
    tget d (tins t i a) j = tget d t j := by
  induction t with
  | nil => simp [tins, tget, h]
  | cons p t ih =>
    obtain ⟨k, v⟩ := p
    simp only [tins, beq_iff_eq]
    split
    · rename_i hk; subst hk; simp [tget, h]
    · split
      · rename_i h1 h2
        by_cases hj : j < i
        · have : ¬ j = k := by omega
          have : j < k := by omega
          simp [tget, *]
        · simp [tget, h, hj]
      · simp [tget, ih]

theorem tget_tdel_same {α : Type} [DecidableEq α] (d : α) (t : Tab α) (i : Nat) (w : Tab.wf d t = true) :
    tget d (tdel t i) i = d := by
  induction t with
  | nil => rfl
  | cons p t ih =>
    obtain ⟨k, v⟩ := p
    obtain ⟨_, ha, hw⟩ := (Tab.wf_cons d k v t).mp w
    simp only [tdel, beq_iff_eq]
    split
    · rename_i hk; exact tget_above d t k i ha (by omega)
    · split
      · rename_i h1 h2; simp [tget, h1, h2]
      · rename_i h1 h2; simp [tget, h1, h2, ih hw]

theorem tget_tdel_other {α : Type} [DecidableEq α] (d : α) (t : Tab α) (i j : Nat) (w : Tab.wf d t = true) (h : j ≠ i) :
    tget d (tdel t i) j = tget d t j := by
  induction t with
  | nil => rfl
  | cons p t ih =>
    obtain ⟨k, v⟩ := p
    obtain ⟨_, ha, hw⟩ := (Tab.wf_cons d k v t).mp w
    simp only [tdel, beq_iff_eq]
    split
    · rename_i hk
      subst hk
      by_cases hj : j < i
      · rw [tget_above d t i j ha (by omega)]; simp [tget, h, hj]
      · simp [tget, h, hj]
    · split
      · rfl
      · simp [tget, ih hw]

/-- Read after write at the same key. -/
theorem tget_tput_same {α : Type} [DecidableEq α] (d : α) (t : Tab α) (i : Nat) (a : α) (w : Tab.wf d t = true) :
    tget d (tput d t i a) i = a := by
  unfold tput; split
  · rename_i h; subst h; exact tget_tdel_same a t i w
  · simp

/-- A value that is not the default is read back from any table. -/
theorem tget_tput_same' {α : Type} [DecidableEq α] (d : α) (t : Tab α) (i : Nat) (a : α) (h : a ≠ d) :
    tget d (tput d t i a) i = a := by
  simp [tput, h]

/-- A write leaves every other key alone. -/
theorem tget_tput_other {α : Type} [DecidableEq α] (d : α) (t : Tab α) (i j : Nat) (a : α) (w : Tab.wf d t = true)
    (h : j ≠ i) : tget d (tput d t i a) j = tget d t j := by
  unfold tput; split
  · exact tget_tdel_other d t i j w h
  · exact tget_tins_other d t i j a h

theorem Tab.above_tdel {α : Type} (t : Tab α) (k i : Nat) (h : Tab.above k t = true) : Tab.above k (tdel t i) = true := by
  induction t with
  | nil => rfl
  | cons p t ih =>
    obtain ⟨k', v⟩ := p
    simp only [Tab.above, List.all_cons, Bool.and_eq_true, decide_eq_true_eq] at h
    simp only [tdel, beq_iff_eq]
    split
    · exact h.2
    · split
      · simp [Tab.above, h.1]; simpa [Tab.above] using h.2
      · simp only [Tab.above, List.all_cons, Bool.and_eq_true, decide_eq_true_eq]
        exact ⟨h.1, ih h.2⟩

theorem Tab.above_tins {α : Type} (t : Tab α) (k i : Nat) (a : α) (h : Tab.above k t = true) (hi : k < i) :
    Tab.above k (tins t i a) = true := by
  induction t with
  | nil => simp [tins, Tab.above, hi]
  | cons p t ih =>
    obtain ⟨k', v⟩ := p
    simp only [Tab.above, List.all_cons, Bool.and_eq_true, decide_eq_true_eq] at h
    simp only [tins, beq_iff_eq]
    split
    · simp only [Tab.above, List.all_cons, Bool.and_eq_true, decide_eq_true_eq]; exact ⟨hi, h.2⟩
    · split
      · simp only [Tab.above, List.all_cons, Bool.and_eq_true, decide_eq_true_eq]; exact ⟨hi, h.1, h.2⟩
      · simp only [Tab.above, List.all_cons, Bool.and_eq_true, decide_eq_true_eq]
        exact ⟨h.1, ih h.2⟩

theorem Tab.above_mono {α : Type} (t : Tab α) (k k' : Nat) (h : Tab.above k t = true) (hk : k' ≤ k) : Tab.above k' t = true := by
  simp only [Tab.above, List.all_eq_true, decide_eq_true_eq] at h ⊢
  intro p hp; exact lt_of_le_of_lt hk (h p hp)

theorem Tab.wf_tdel {α : Type} [DecidableEq α] (d : α) (t : Tab α) (i : Nat) (w : Tab.wf d t = true) :
    Tab.wf d (tdel t i) = true := by
  induction t with
  | nil => rfl
  | cons p t ih =>
    obtain ⟨k, v⟩ := p
    obtain ⟨hv, ha, hw⟩ := (Tab.wf_cons d k v t).mp w
    simp only [tdel]
    split
    · exact hw
    · split
      · exact w
      · exact (Tab.wf_cons d k v _).mpr ⟨hv, Tab.above_tdel t k i ha, ih hw⟩

theorem Tab.wf_tins {α : Type} [DecidableEq α] (d : α) (t : Tab α) (i : Nat) (a : α) (w : Tab.wf d t = true) (h : a ≠ d) :
    Tab.wf d (tins t i a) = true := by
  induction t with
  | nil => simp [tins, Tab.wf, h]
  | cons p t ih =>
    obtain ⟨k, v⟩ := p
    obtain ⟨hv, ha, hw⟩ := (Tab.wf_cons d k v t).mp w
    simp only [tins, beq_iff_eq]
    split
    · rename_i hk; subst hk; exact (Tab.wf_cons d i a t).mpr ⟨h, ha, hw⟩
    · split
      · rename_i h1 h2
        refine (Tab.wf_cons d i a _).mpr ⟨h, ?_, w⟩
        simp only [Tab.above, List.all_cons, Bool.and_eq_true, decide_eq_true_eq]
        exact ⟨h2, Tab.above_mono t k i ha (by omega)⟩
      · exact (Tab.wf_cons d k v _).mpr ⟨hv, Tab.above_tins t k i a ha (by omega), ih hw⟩

/-- Every table write keeps the canonical form. -/
theorem Tab.wf_tput {α : Type} [DecidableEq α] (d : α) (t : Tab α) (i : Nat) (a : α) (w : Tab.wf d t = true) :
    Tab.wf d (tput d t i a) = true := by
  unfold tput; split
  · exact Tab.wf_tdel d t i w
  · rename_i h; exact Tab.wf_tins d t i a w h

/-- Dropping entries keeps the canonical form. -/
theorem Tab.wf_filter {α : Type} [DecidableEq α] (d : α) (t : Tab α) (f : Nat × α → Bool) (w : Tab.wf d t = true) :
    Tab.wf d (t.filter f) = true := by
  induction t with
  | nil => rfl
  | cons p t ih =>
    obtain ⟨k, v⟩ := p
    obtain ⟨hv, ha, hw⟩ := (Tab.wf_cons d k v t).mp w
    simp only [List.filter]
    split
    · refine (Tab.wf_cons d k v _).mpr ⟨hv, ?_, ih hw⟩
      simp only [Tab.above, List.all_eq_true, List.mem_filter] at ha ⊢
      exact fun q hq => ha q hq.1
    · exact ih hw

/-! Memory. -/

theorem memSet_wf (m : Memory) (a : Nat) (b : Byte) (w : m.wf = true) : (memSet m a b).wf = true := Tab.wf_tput 0 m a b w

theorem memWrite_wf (m : Memory) (a n x : Nat) (w : m.wf = true) : (memWrite m a n x).wf = true := by
  induction n generalizing m a x with
  | zero => exact w
  | succ n ih => exact ih _ _ _ (memSet_wf m a _ w)

theorem foldl_memSet_wf {β : Type} (l : List β) (f : Memory → β → Memory) (m : Memory) (w : m.wf = true)
    (h : ∀ (m : Memory) b, m.wf = true → (f m b).wf = true) : (l.foldl f m).wf = true := by
  induction l generalizing m with
  | nil => exact w
  | cons b l ih => exact ih _ (h m b w)

theorem memWriteMask_wf (m : Memory) (a n x mask : Nat) (w : m.wf = true) : (memWriteMask m a n x mask).wf = true :=
  foldl_memSet_wf _ _ m w (fun m i h => by
    show Memory.wf (if mask.testBit i then memSet m (a + i) _ else m) = true
    split
    · exact memSet_wf _ _ _ h
    · exact h)

theorem memFilter_wf (m : Memory) (f : Nat × Byte → Bool) (w : m.wf = true) : Memory.wf (m.filter f) = true :=
  Tab.wf_filter 0 m f w

theorem memByte_memSet_same (m : Memory) (a : Nat) (b : Byte) (w : m.wf = true) : memByte (memSet m a b) a = b :=
  tget_tput_same 0 m a b w

theorem memByte_memSet_other (m : Memory) (a a' : Nat) (b : Byte) (w : m.wf = true) (h : a' ≠ a) :
    memByte (memSet m a b) a' = memByte m a' := tget_tput_other 0 m a a' b w h

/-- A write of `n` bytes leaves every byte outside them alone. -/
theorem memByte_memWrite_other (m : Memory) (a n x a' : Nat) (w : m.wf = true) (h : a' < a ∨ a + n ≤ a') :
    memByte (memWrite m a n x) a' = memByte m a' := by
  induction n generalizing m a x with
  | zero => rfl
  | succ n ih =>
    rw [memWrite, ih _ _ _ (memSet_wf m a _ w) (by omega), memByte_memSet_other m a a' _ w (by omega)]

theorem reset_mem_wf : State.reset.mem.wf = true ∧ State.reset.pond.wf = true := by decide

/-! Registers. -/

@[simp] theorem Slot.sreg_zero (x : Slot) : x.sreg 0 = 0 := rfl
@[simp] theorem Slot.preg_zero (x : Slot) : x.preg 0 = true := rfl
@[simp] theorem Slot.kreg_zero (x : Slot) : x.kreg 0 = BitVec.allOnes 64 := rfl
@[simp] theorem Slot.setS_zero (x : Slot) (w : Word) : x.setS 0 w = x := rfl
@[simp] theorem Slot.setP_zero (x : Slot) (b : Bool) : x.setP 0 b = x := rfl
@[simp] theorem Slot.setK_zero (x : Slot) (w : Word) : x.setK 0 w = x := rfl

theorem Slot.sreg_setS_same (x : Slot) (i : Nat) (w : Word) (h : i ≠ 0) (hw : Tab.wf 0 x.s = true) : (x.setS i w).sreg i = w := by
  have e : (x.setS i w) = { x with s := tput 0 x.s i w } := by simp [Slot.setS, h]
  rw [e]
  show (if i == 0 then 0 else tget 0 (tput 0 x.s i w) i) = w
  rw [tget_tput_same 0 x.s i w hw]; simp [h]

theorem Slot.sreg_setS_other (x : Slot) (i j : Nat) (w : Word) (h : j ≠ i) (hw : Tab.wf 0 x.s = true) :
    (x.setS i w).sreg j = x.sreg j := by
  by_cases hi : i = 0
  · subst hi; rfl
  · have e : (x.setS i w) = { x with s := tput 0 x.s i w } := by simp [Slot.setS, hi]
    rw [e]
    show (if j == 0 then 0 else tget 0 (tput 0 x.s i w) j) = _
    rw [tget_tput_other 0 x.s i j w hw h]; rfl

theorem Slot.vreg_setV_same (x : Slot) (i : Nat) (w : VReg) (hw : Tab.wf 0 x.v = true) : (x.setV i w).vreg i = w :=
  tget_tput_same 0 x.v i w hw

theorem Slot.vreg_setV_other (x : Slot) (i j : Nat) (w : VReg) (h : j ≠ i) (hw : Tab.wf 0 x.v = true) :
    (x.setV i w).vreg j = x.vreg j := tget_tput_other 0 x.v i j w hw h

theorem State.slot_setSlot_same (s : State) (g : Nat) (x : Slot) (hw : Tab.wf ({} : Slot) s.slots = true) :
    (s.setSlot g x).slot g = x := tget_tput_same ({} : Slot) s.slots g x hw

theorem State.slot_setSlot_other (s : State) (g g' : Nat) (x : Slot) (h : g' ≠ g) (hw : Tab.wf ({} : Slot) s.slots = true) :
    (s.setSlot g x).slot g' = s.slot g' := tget_tput_other ({} : Slot) s.slots g g' x hw h

end Sys2Proof.Machine
end

