-- ==== Sys2Proof/Tests/Slice0.lean ====
section
/-! SUPPORT. Small checks of the model: words written out from the spec's encodings, worked examples of the spec, one
ill-formed term for each check of well-formedness, and for every statement with hypotheses a state and operands that
meet all of them. -/

namespace Sys2Proof.Tests

open Sys2Proof Sys2Proof.Machine

set_option Elab.async false

/-! Helpers. -/

/-- An operand that matches a pattern, with its modifier bits: the lowest register but a CSR, which is FPCTL. -/
def pick (m : Nat) : Pat → Operand
  | .reg cls _ => .reg cls (BitVec.ofNat 7 m) (if cls = .c then 0x30 else 0)
  | .evenV => .reg .v (BitVec.ofNat 7 m) 0
  | .imm lo _ => .imm (BitVec.ofInt 22 (if lo < 0 then 0 else lo))
  | .limm => .limm 0
  | .none => .none (BitVec.ofNat 7 m)

/-- Operands that a pair accepts, from the first row of its table that has types. -/
def sample (op fn : Nat) : Args :=
  let f := ((fmtOf op fn).find? (fun f => !f.t.isEmpty && !f.t2.isEmpty)).getD { a := [], b := [], c := [] }
  .always (pick (f.rm.headD 0 * 16) (f.a.headD .none)) (pick (f.t.headD 0 * 4) (f.b.headD .none))
    (pick (f.t2.getLastD 0 * 4 + f.f.headD 0) (f.c.headD .none))

/-- s register `i` with modifier bits `m`. -/
def rs (i : Nat) (m : Nat := 0) : Operand := .reg .s (BitVec.ofNat 7 m) (BitVec.ofNat 12 i)

/-- An immediate operand. -/
def im (v : Int) : Operand := .imm (BitVec.ofInt 22 v)

/-- Slot `g` runs a thread at program counter 0 and issues now, with the given s registers; its context accepts every
feature. -/
def st (g : Nat) (regs : List (Nat × Nat) := []) : State :=
  { State.reset with
    cur := g, cycle := g % 16
    slots := [(g, { st := .running, thread := 1, s := regs.map (fun p => (p.1, BitVec.ofNat 64 p.2)) })]
    contexts := [(0, { record := BitVec.ofNat 512 (63 * 2 ^ 256) })] }

/-- Whether an instruction begins at a state and what follows holds where its effect begins. -/
def meets (op fn : Nat) (takes always : Bool) (x : Args) (s : State) (p : State → Bool := fun _ => true) : Bool :=
  match s.begins op fn x takes always with
  | some r => p r
  | none => false

/-- The state after, where there is one. -/
def after (o : Host.Outcome State Fault Refusal) (p : State → Bool) : Bool :=
  match o with
  | .next t => p t
  | _ => false

/-- The word of an instruction runs as the first one after reset, and its state satisfies the test. -/
def runs (w : Nat) (f : State → State) (p : State → Bool) : Bool :=
  match (f (State.reset.withFetchWord 96 w)) |> step with
  | .next t => p t
  | _ => false

/-! Encodings. -/

/-- Every assigned pair has operands that it accepts. -/
theorem test_every_pair_has_sound_operands :
    ((List.range 0xE0).all fun op => (List.range 64).all fun fn => !assigned op fn || formatOk op fn (sample op fn)) = true := by
  decide +kernel

/-- R48: li and its long immediate. -/
theorem test_decode_li : decode 0x1800_0000_000A_8400_0080_0000#96 = some (.li (.always (.reg .s 0 10) (.limm 0x40000) (.limm 0))) := by
  decide +kernel


/-! Decoding: words written out bit by bit from the encoding tables of the spec (R36, R41, R42, R44, R45, R46, R66). -/

/-- R48: the worked encoding of add with its J marker. -/
theorem test_decode_add : decode 0x1000_2000_000D_0100_0D00_000E#96 =
    some (.add { Args.always (.reg .s 0 13) (.reg .s (4 <<< 2) 13) (.reg .s 0 14) with j := true }) := by decide +kernel

/-- sub.i32 s1, s2, -1: FN 1, T 3 in B, an immediate of kind 01 in C. -/
theorem test_decode_sub : decode 0x100400_000001_00C002_7FFFFF#96 =
    some (.sub (.always (.reg .s 0 1) (.reg .s (3 <<< 2) 2) (.imm (-1)))) := by decide +kernel

/-- cmp.ltn.n64 p1, s2, s3: FN 4, class p in A. -/
theorem test_decode_cmp : decode 0x121000_100001_020002_000003#96 =
    some (.cmpLtn (.always (.reg .p 0 1) (.reg .s (8 <<< 2) 2) (.reg .s 0 3))) := by decide +kernel

/-- fadd.f32.rz s1, s2, s3: RM 001 in A. -/
theorem test_decode_fadd : decode 0x200000_010001_028002_000003#96 =
    some (.fadd (.always (.reg .s (1 <<< 4) 1) (.reg .s (10 <<< 2) 2) (.reg .s 0 3))) := by decide +kernel

/-- vadd.n32 v4, v5, v6 under k2 with Z, guarded by !p1, with a J marker. -/
theorem test_decode_vadd : decode 0x400260_085004_09C005_080006#96 =
    some (.vadd { Args.always (.reg .v 5 4) (.reg .v (7 <<< 2) 5) (.reg .v 0 6) with neg := true, g := 1, j := true }) := by decide +kernel


/-- R134. -/
theorem test_decode_ldg : decode 0x6000_0000_000E_0100_0A40_0000#96 =
    some (.ldg (.always (.reg .s 0 14) (.reg .s (4 <<< 2) 10) (.imm 0))) := by decide +kernel

/-- R134. -/
theorem test_decode_vldg : decode 0x6100_0208_5004_0280_0A40_0100#96 =
    some (.vldg { Args.always (.reg .v 5 4) (.reg .s (10 <<< 2) 10) (.imm 256) with bud := 2 }) := by decide +kernel

/-- R173. -/
theorem test_decode_blkld : decode 0x7100_0008_0004_0000_0D00_0015#96 =
    some (.blkld (.always (.reg .v 0 4) (.reg .s 0 13) (.reg .s 0 21))) := by decide +kernel

/-- R173. -/
theorem test_decode_amopCas : decode 0x8124_0000_0005_0100_0600_0008#96 =
    some (.amopCas (.always (.reg .s 0 5) (.reg .s (4 <<< 2) 6) (.reg .s 0 8))) := by decide +kernel

/-- R258. -/
theorem test_decode_mma : decode 0xB004_0020_0000_0000_1E00_0020#96 =
    some (.mma (.always (.reg .a 0 0) (.reg .s 0 30) (.reg .s 0 32))) := by decide +kernel

/-- R258. -/
theorem test_decode_cfetch : decode 0xA000_00C0_0000_0000_14C0_0000#96 =
    some (.cfetch (.always (.none 0) (.reg .s 0 20) (.none 0))) := by decide +kernel

/-- R321. -/
theorem test_decode_bar : decode 0x9300_00C0_0000_4000_0440_0000#96 =
    some (.bar (.always (.none 0) (.imm 4) (.imm 0))) := by decide +kernel

/-- R385. -/
theorem test_decode_slotgo : decode 0x0208_0000_0004_0000_0540_0001#96 =
    some (.slotgo (.always (.reg .s 0 4) (.reg .s 0 5) (.imm 1))) := by decide +kernel

/-- R416. -/
theorem test_decode_cbput : decode 0xC108_0000_001A_0000_1900_0016#96 =
    some (.cbput (.always (.reg .s 0 26) (.reg .s 0 25) (.reg .s 0 22))) := by decide +kernel

/-- R416. -/
theorem test_decode_cgrunAt : decode 0xC008_0000_0006_0000_1400_001E#96 =
    some (.cgrunAt (.always (.reg .s 0 6) (.reg .s 0 20) (.reg .s 0 30))) := by decide +kernel

/-- R433. -/
theorem test_decode_gsolve : decode 0xD00C_0008_0004_0800_02C0_0000#96 =
    some (.gsolve (.always (.reg .v 0 4) (.reg .v 0 2) (.none 0))) := by decide +kernel

/-- Words that no instruction has: class 110, kind 10 in C alone, type 19, an index above 127, Z without a mask, a read budget on add,
rounding mode 101, a CSR that does not exist. -/
theorem test_decode_refuses :
    ([0x100000_300001_00C002_000003#96, 0x100000_000001_00C002_800003#96, 0x100000_000001_04C002_000003#96, 0x100000_000080_00C002_000003#96,
      0x400000_081004_09C005_080006#96, 0x100001_000001_00C002_000003#96, 0x200000_050001_028002_000003#96, 0x010000_000001_280FFF_C00000#96].all
      fun w => (decode w).isNone) = true := by decide +kernel

/-- An ill-formed term for each check of well-formedness: an unassigned word that is assigned, the run-time form of cgload, an event,
and for add and its like: a kind, a class, a lone long immediate, an index, a type, a rounding mode, a mask, Z, a hint, fcvt of a type
to itself, modifiers of nop, a CSR that does not exist, operands that spell another form. -/
theorem test_ill_formed :
    (([.unassignedOpcode 0x100000_000001_00C002_000003#96, .cgloadUnload (sample 0xC0 0), .taskEnd,
      .add (.always (im 1) (rs 2 12) (rs 3)), .add (.always (.reg .v 0 1) (rs 2 12) (rs 3)), .add (.always (rs 1) (rs 2 12) (.limm 0)),
      .add (.always (rs 128) (rs 2 12) (rs 3)), .add (.always (rs 1) (rs 2 76) (rs 3)), .fadd (.always (rs 1 80) (rs 2 40) (rs 3)),
      .add (.always (rs 1 2) (rs 2 12) (rs 3)), .vadd (.always (.reg .v 1 4) (.reg .v 28 5) (.reg .v 0 6)),
      .add { Args.always (rs 1) (rs 2 12) (rs 3) with bud := 1 }, .fcvt (.always (rs 1) (rs 2 40) (rs 3 40)),
      .nop (.always (.none 1) (.none 0) (.none 0)), .csrr (.always (rs 1) (.reg .c 0 0xFFF) (.none 0)),
      .recvFeG (.always (rs 1) (rs 2) (im 0))] : List Instr).all fun i => !i.wellFormed) = true := by decide +kernel

/-! Worked examples of the spec. -/

/-- s register `d` after an instruction at slot 0 with the given s registers. -/
def gives (i : Instr) (regs : List (Nat × Nat)) (d v : Nat) : Bool :=
  after (exec i (st 0 regs)) (fun t => t.me.sreg d == BitVec.ofNat 64 v)

/-- The five results of width 32 that R78's table gives for s2 = 0x8000_0000. -/
theorem test_width_32_results :
    (let x := fun (t : Nat) (k : Int) => Args.always (rs 1) (rs 2 (t * 4)) (im k)
     let r := [(2, 0x8000_0000)]
     gives (.shr (x 3 4)) r 1 0x0800_0000 && gives (.sra (x 3 4)) r 1 0xFFFF_FFFF_F800_0000 && gives (.sra (x 7 4)) r 1 0xF800_0000
     && gives (.add (x 3 (-1))) r 1 0x7FFF_FFFF && gives (.rol (x 7 1)) r 1 1) = true := by decide +kernel

/-- R79: -7 by 2, a division by 0, and the most negative number by -1. -/
theorem test_division :
    (let x := Args.always (rs 1) (rs 2 16) (rs 3)
     let m := 2 ^ 64
     gives (.div x) [(2, m - 7), (3, 2)] 1 (m - 3) && gives (.rem x) [(2, m - 7), (3, 2)] 1 (m - 1)
     && gives (.div x) [(2, 9), (3, 0)] 1 (m - 1) && gives (.rem x) [(2, 9), (3, 0)] 1 9
     && gives (.div x) [(2, 2 ^ 63), (3, m - 1)] 1 (2 ^ 63)) = true := by decide +kernel

/-- R81: the descriptor 264 takes and replaces bits [11:8]. -/
theorem test_bit_fields :
    (let x := Args.always (rs 1) (rs 2 32) (im 264)
     gives (.bfxn x) [(2, 0x1A23)] 1 0xA && gives (.bfi x) [(1, 0xFFFF), (2, 0x25)] 1 0xF5FF) = true := by decide +kernel

/-- R94: a counter of 0 writes all ones and branches. -/
theorem test_dbr_of_zero :
    (let i := Instr.dbr (.always (rs 1) (.none 0) (im 5))
     gives i [(1, 0)] 1 (2 ^ 64 - 1) && after (exec i (st 0)) (fun t => t.me.pc == 5)) = true := by decide +kernel


/-! Hypotheses that can be met: statements on the step, the issue and the registers. -/

/-- StepRunsDecodedInstruction: slot 0's turn is due and fetches a nop. -/
theorem test_meets_StepRunsDecodedInstruction :
    (let s := State.reset.withFetchWord 96 0x0000_00C0_0000_C000_00C0_0000
     match s.agenda with
     | d :: rest => !s.frozen && d.what == .turn 0 && (s.slot 0).due == some d.at_
        && (match ({ s with agenda := rest, cycle := d.at_, cur := 0 } : State).turn with
          | .word w _ => (decode w).isSome
          | _ => false)
     | [] => false) = true := by decide +kernel

/-- StepRunsDueEvent: the feather window that reset leaves due. -/
theorem test_meets_StepRunsDueEvent :
    (!State.reset.frozen && (match State.reset.agenda with
      | d :: _ => d.what == .event .featherWindowEnd []
      | [] => false)) = true := by decide +kernel

/-- EncodeDecode and DecodeEncode: a well-formed instruction, an accepted word. -/
theorem test_meets_EncodeDecode :
    ((Instr.nop (sample 0 0)).wellFormed && (decode 0x0000_00C0_0000_C000_00C0_0000#96 |>.isSome)) = true := by decide +kernel

/-- IllegalWords: unassigned words at the ends of the range, a context without features, an unsound format, and a turn that fetches a word
that decodes to nothing. -/
theorem test_meets_IllegalWords :
    (!assigned 0xE0 0 && !assigned 0xFF 63 && !(State.reset.featureOk 0x10 0 (sample 0x10 0) && formatOk 0x10 0 (sample 0x10 0))
      && !((st 0).featureOk 0x10 0 (sample 0 0) && formatOk 0x10 0 (sample 0 0))
      && (let s := State.reset.withFetchWord 96 0x1000_2000_000D_0100_0DFF_FF0E
          match s.agenda with
          | d :: rest => (s.slot 0).due == some d.at_ && (match ({ s with agenda := rest, cycle := d.at_, cur := 0 } : State).turn with
            | .word w r => (decode w).isNone && after (runTurn 0 { s with agenda := rest, cycle := d.at_ }) (fun t => t.me.st == .stopped 1 && r.me.st != .stopped 1)
            | _ => false)
          | [] => false)) = true := by decide +kernel

/-- PrivilegedNeedsSupervisor: every privileged instruction, and a CSR, outside a supervisor slot. -/
theorem test_meets_PrivilegedNeedsSupervisor :
    ([(2, 0), (2, 1), (2, 2), (2, 3), (3, 0), (4, 0), (4, 1)].all (fun p =>
        (st 126).featureOk p.1 p.2 (sample p.1 p.2) && formatOk p.1 p.2 (sample p.1 p.2) && isPrivileged p.1 p.2 (sample p.1 p.2))
      && (let x := Args.always (rs 0) (.reg .c 0 0x200) (.none 0)
          (st 0).featureOk 1 0 x && formatOk 1 0 x && isPrivileged 1 0 x)) = true := by decide +kernel

/-- FalseGuardHasNoEffect: the guard "never" without a marker, and with one that is done, parks or reports a fault. -/
theorem test_meets_FalseGuardHasNoEffect :
    (let x := { sample 0x10 0 with neg := true }
     let y := { x with j := true }
     let rb := fun (e : Entry) => (st 0).updMe (fun z => { z with rb := [e] })
     (st 0).accepted 0x10 0 x && ((st 0).me.preg 0 != true) == false && !x.j && (st 0).accepted 0x10 0 y
     && (match (rb { uid := 1, landed := true, left := 0 }).marker with | .done _ => true | _ => false)
     && (match (rb { uid := 1 }).marker with | .parked _ => true | _ => false)
     && (match (rb { uid := 1, landed := true, left := 0, fault := some (3, 0) }).marker with | .faulted _ => true | _ => false)) = true := by
  decide +kernel

/-- MarkerWritesEntries: an entry that has landed, and one that has not. -/
theorem test_meets_MarkerWritesEntries :
    (let e : Entry := { uid := 1, landed := true, left := 0, writes := [⟨.s, 5, 7, BitVec.allOnes 2048⟩] }
     let s := (st 0).updMe (fun z => { z with rb := [e] })
     s.me.rb != [] && s.me.rb.all (fun e => e.landed && e.fault.isNone && e.seq.isNone && e.job.isNone)
     && (match s.marker with | .done t => t.me.sreg 5 == 7 | _ => false)
     && ((st 0).updMe (fun z => { z with rb := [{ e with landed := false }] })).me.rb.any (fun e => !e.landed)
     && (match ((st 0).updMe (fun z => { z with rb := [{ e with fault := some (2, 9) }, e, { e with uid := 2, fault := some (4, 8) }] })).marker with
       | .faulted t => t.me.st == .stopped 2 && t.me.rb.length == 2 && t.me.sreg 5 == 7
       | _ => false)) = true := by decide +kernel

/-- ExactFaultStopsSlot: the codes 0 and 255, in a user's and in a supervisor's slot. -/
theorem test_meets_ExactFaultStopsSlot :
    (((st 5).raise 0 0).me.st == .stopped 0 && ((st 5).raise 255 0).me.st == .stopped 255 && (st 5).cur % 128 != 127
      && ((st 127).raise 1 0).me.st == .stopped 1 && (st 127).cur % 128 == 127) = true := by decide +kernel

/-- IntegerResults, BitCounts, BitFields, Compares: every form begins. -/
theorem test_meets_IntegerResults : ((List.range 22).all fun fn => meets 0x10 fn false false (sample 0x10 fn) (st 3)) = true := by decide +kernel

theorem test_meets_BitCounts_BitFields_Compares :
    (((List.range 6).all fun fn => meets 0x11 fn false false (sample 0x11 fn) (st 3))
      && ((List.range 6).all fun fn => meets 0x12 fn false false (sample 0x12 fn) (st 3))) = true := by decide +kernel

/-- MoveAndImmediates: sel with M 0 and 7, mov of each class, li with and without its long form, lih. -/
theorem test_meets_MoveAndImmediates :
    ((sample 0x13 0).mask == 0 && meets 0x13 0 false false (sample 0x13 0) (st 0)
      && meets 0x13 0 false false (.always (.reg .s 14 1) (rs 2) (im (-1))) (st 0)
      && [Cls.s, .k, .p].all (fun cls => meets 0x13 1 false false (.always (rs 1) (.reg cls 0 7) (.none 0)) (st 0))
      && meets 0x18 0 false false (.always (rs 63) (.limm 0) (.limm 0x3F_FFFF)) (st 0)
      && decide (rs 0 ≠ .limm 0) && meets 0x18 1 false false (.always (rs 1) (.none 0) (im 0xFFFFF)) (st 0)) = true := by decide +kernel

/-- ScalarFloat: every form begins; a division by zero with and without its trap enabled. -/
theorem test_meets_ScalarFloat :
    ((List.range 8).all (fun fn => meets 0x20 fn false false (sample 0x20 fn) (st 0))
      && (List.range 2).all (fun fn => meets 0x21 fn false false (sample 0x21 fn) (st 0))
      && (List.range 5).all (fun fn => meets 0x22 fn false false (sample 0x22 fn) (st 0))
      && meets 0x20 4 false false (.always (rs 1) (rs 2 36) (rs 3)) ((st 0 [(2, 0x3FF0000000000000)]).updMe (fun y => { y with fpctl := 8 }))
        (fun r => after (exec (.fdiv (.always (rs 1) (rs 2 36) (rs 3))) r) (fun t => t.me.st == .stopped 9))
      && meets 0x20 4 false false (.always (rs 1) (rs 2 36) (rs 3)) (st 0 [(2, 0x3FF0000000000000)])
        (fun r => after (exec (.fdiv (.always (rs 1) (rs 2 36) (rs 3))) r) (fun t => t.me.sreg 1 == 0x7FF0000000000000 && t.me.fpflags == 8))) =
      true := by decide +kernel

/-- PredicateLogic: every form begins with a predicate as its destination. -/
theorem test_meets_PredicateLogic :
    ((List.range 5).all fun fn => meets 0x28 fn false false (sample 0x28 fn) (st 0) && (sample 0x28 fn).a == .reg .p 0 0) = true := by
  decide +kernel

/-- Control: targets at 0, at the last index and on both sides out of range; the cases of dbr. -/
theorem test_meets_Control :
    ((List.range 7).all (fun fn => meets 0x30 fn false false (sample 0x30 fn) (st 0))
      && meets 0x30 0 false false (.always (.none 0) (.none 0) (im (-1))) (st 0) (fun r => decide ((r.me.pc.toNat : Int) + -1 < 0))
      && meets 0x30 1 false false (.always (.none 0) (rs 1) (.none 0)) (st 0 [(1, 2 ^ 32 - 1)]) (fun r => r.opVal (rs 1) == 0xFFFFFFFF)
      && meets 0x30 3 false false (.always (rs 2) (rs 1) (.none 0)) (st 0 [(1, 2 ^ 32)]) (fun r => r.opVal (rs 1) == 0x100000000)
      && meets 0x30 5 false false (.always (rs 1) (.none 0) (im 4)) (st 0 [(1, 1)]) (fun r => r.me.sreg 1 - 1 == 0)
      && meets 0x30 5 false false (.always (rs 1) (.none 0) (im 4)) (st 0) (fun r => r.me.sreg 1 == 0 && r.me.sreg 1 - 1 != 0)
      && meets 0x30 5 false false (.always (rs 1) (.none 0) (im (-4))) (st 0 [(1, 2)]) (fun r => r.me.sreg 1 - 1 != 0)) = true := by
  decide +kernel

/-- ExitNopTrap: the four forms begin, trap at the ends of its range. -/
theorem test_meets_ExitNopTrap :
    (meets 0x30 6 false false (sample 0x30 6) (st 0) && meets 0 0 false false (sample 0 0) (st 0)
      && meets 0 1 false false (.always (.none 0) (.none 0) (im 0)) (st 0) && meets 0 1 false false (.always (.none 0) (.none 0) (im 65535)) (st 0)
      && meets 0x30 5 false false (.always (rs 0) (.none 0) (im 1)) (st 0)) = true := by decide +kernel

/-- Csrs: the three forms begin; LATEPEND with and without a pending fault. -/
theorem test_meets_Csrs :
    ((List.range 3).all (fun fn => meets 1 fn false false (sample 1 fn) (st 0)) && (st 0).me.late == none
      && ((st 0).updMe (fun y => { y with late := some (9, 41) })).me.late == some (9, 41)
      && ((st 0).mill ((st 0).cur / 512)).launch == none
      && (((st 0).updMill 0 (fun m => { m with launch := some 1 })).mill ((st 0).cur / 512)).launch == some 1) = true := by decide +kernel

/-- SupervisorSlots: a target of another cluster, the issuer, and another slot of the cluster that is stopped, parked and
running; the modes 0 and 2. -/
theorem test_meets_SupervisorSlots :
    (let x := Args.always (rs 1) (rs 2) (rs 3)
     let y := Args.always (rs 1) (rs 2) (.none 0)
     let s := fun (g m : Nat) (z : SlotSt) => (st 127 [(2, g), (3, m)]).setSlot 5 { st := z, thread := 2 }
     [0, 1, 2].all (fun fn => meets 2 fn false false x (s 128 0 .halted) && meets 2 fn false false x (s 127 0 .halted)
        && meets 2 fn false false x (s 5 2 .halted) && meets 2 fn false false x (s 5 0x57 .halted) && meets 2 fn false false x (s 5 0x51 .running)
        && meets 2 fn false false x (s 5 3 (.stopped 1)))
     && [128, 127, 5].all (fun g => meets 2 3 false false y (s g 0 .running))
     && (((s 5 0 .halted).slot 5).select 0x51).isSome && (((s 5 0 .halted).slot 5).assign 0x50 7).isSome
     && ((s 5 0 .halted).slot 5).st.code == 4 && ((s 5 0 (.stopped 1)).slot 5).st.code == 3 && ((s 5 0 .running).slot 5).st.code == 1
     && ((s 5 0 .forwarding).slot 5).st.code == 5 && ((s 5 0 .empty).slot 5).st.code == 0) = true := by decide +kernel

/-- TablesOfHardware: Latin squares and others, a waiting switch and none, tlbi of each scope. -/
theorem test_meets_TablesOfHardware :
    (let m := State.reset.mill 0
     let x := Args.always (.none 0) (rs 8) (.none 0)
     let v := m.camInAct.toNat
     let s := st 127 [(8, v % 2 ^ 64), (9, v / 2 ^ 64 % 2 ^ 64), (10, v / 2 ^ 128), (11, m.camOutAct.toNat)]
     meets 4 0 false false x s (fun r => after (exec (.camw x) r) (fun t => t.me.st == .running))
     && meets 4 0 false false x (st 127) (fun r => after (exec (.camw x) r) (fun t => t.me.st == .stopped 0x0D))
     && meets 4 1 false false (sample 4 1) (st 127) (fun r => !(r.mill 0).camPend)
     && meets 4 1 false false (sample 4 1) ((st 127).updMill 0 (fun m => { m with camPend := true })) (fun r => (r.mill 0).camPend)
     && [2, 5, 6].all (fun k => meets 3 0 false false (.always (im k) (rs 1) (.none 0)) (st 127))) = true := by decide +kernel

/-! Hypotheses that can be met: vectors. -/

/-- Every vector instruction begins. -/
theorem test_meets_VectorResults :
    ((List.range 19).all fun i => (List.range 64).all fun fn =>
      !assigned (0x40 + i) fn || 0x40 + i == 0x51 || meets (0x40 + i) fn false false (sample (0x40 + i) fn) (st 0)) = true := by decide +kernel

/-- VectorIssue: a write that leaves the ring alone, with flags that meet an enabled trap. -/
theorem test_meets_VectorIssue :
    (let r := (st 0).updMe (fun y => { y with fpctl := 8 })
     let f : State → (Slot → Slot) × Nat := elementwise (sample 0x44 2) (vFunc numRcp (sample 0x44 2))
     let y := { r.me with copseq := 1, ring := [{ seq := 0, ix := 0, op := 0x44, fn := 2 }] }
     ((f (r.setMe y)).1 y).ring == y.ring && (((f (r.setMe y)).1 y).fpctl.toNat % 32 &&& (f (r.setMe y)).2) != 0) = true := by decide +kernel

/-- IntegerElements: the types and the largest elements of the narrowest and the widest. -/
theorem test_meets_IntegerElements :
    ([1, 2, 3, 4, 5, 6, 7, 8].all (fun t => !isFloat t) && decide (255 < 2 ^ tyBits 1) && decide (2 ^ 64 - 1 < 2 ^ tyBits 8)) = true := by decide

/-- MaskedElements: the last element of each width. -/
theorem test_meets_MaskedElements :
    [8, 16, 32, 64].all (fun n => decide (2048 / n - 1 < 2048 / n) && decide ((2048 / n - 1) * n / 32 < 64)) = true := by decide

/-- RegisterInstructionFrame: one instruction of each class of destination. -/
theorem test_meets_RegisterInstructionFrame :
    (meets 0x10 0 false false (sample 0x10 0) (st 0) (fun r => r.me.st != .empty && Tab.wf 0 r.me.s && Tab.wf 0 r.me.k)
      && meets 0x12 0 false false (sample 0x12 0) (st 0) (fun r => r.me.st != .empty)
      && meets 0x13 1 false false (.always (.reg .k 0 7) (rs 1) (.none 0)) (st 0) (fun r => r.me.st != .empty)
      && (Instr.add (sample 0x10 0)).opFn == some (0x10, 0, sample 0x10 0)) = true := by decide +kernel

/-- StopsAndFreeze: a frozen machine that goes on. -/
theorem test_meets_StopsAndFreeze :
    after (step { State.reset with frozen := true, agenda := [⟨3, 0, 0, .event .reset []⟩] }) (fun t => !t.frozen) = true := by decide +kernel

/-- StopsAndFreeze: a frozen machine with a turn before a read and a reset, of which it serves the read; and one with a turn alone. -/
theorem test_meets_frozen :
    (let f := fun (l : List Due) => { State.reset with frozen := true, agenda := ⟨3, 2, 0, .turn 0⟩ :: l }
     after (step (f [⟨9, 3, 0, .event .managementPathRead [4, 0, 0]⟩, ⟨9, 3, 1, .event .reset []⟩])) (fun t =>
       t.frozen && t.answers.length == 1 && t.agenda.map (·.at_) == [3, 9])
     && !after (step (f [])) (fun _ => true)) = true := by decide +kernel

/-- Claims.MarkerWritesEntries' second clause, and its park. -/
theorem test_marker_parks :
    (let s := (st 0).updMe (fun y => { y with rb := [{ uid := 5 }] })
     s.me.rb.any (fun e => !e.landed) && (s.park s.cur .marker).me.st == .parked .marker) = true := by decide +kernel


/-! Hypotheses that can be met: memory. -/

/-- Slot 0's context maps the first GiB of virtual addresses to the first GiB of device memory, every access allowed. -/
def mapped (regs : List (Nat × Nat) := []) (low : Memory := []) : State :=
  { st 0 regs with
    contexts := [(0, { record := BitVec.ofNat 512 (63 * 2 ^ 256 + 0x400000) })]
    mem := low ++ [(0x400000, 1), (0x400002, 0x80), (0x800000, 0x0F)] }

/-- GlobalAccesses: the plain forms begin at address 0, and a prefetch at both sides of the space. -/
theorem test_meets_GlobalPath_forms :
    ([(0x60, 0, true), (0x60, 1, false), (0x61, 0, true), (0x61, 1, false), (0x62, 0, false), (0x62, 1, false)].all
        (fun p => meets p.1 p.2.1 p.2.2 false (sample p.1 p.2.1) (st 0) (fun r =>
          let va : Int := (r.opVal (sample p.1 p.2.1).b).toNat + (r.opVal (sample p.1 p.2.1).c).toInt
          decide (fits (2 ^ 57) va 256 8)))
      && [(0, false), (1, false), (2, true)].all (fun p =>
        meets 0x72 p.1 p.2 false (.always (if p.1 = 1 then .none 0 else rs 1) (rs 2) (rs 3 1)) (st 0 [(2, 2 ^ 57 - 8)]) (fun r =>
          decide (fits (2 ^ 57) ((r.opVal (rs 2)).toNat + (r.opVal (rs 3 1)).toInt) 8 8)))
      && meets 0x62 0 false false (.always (im 5) (rs 2) (im (-1))) (st 0) (fun r =>
        decide (((r.opVal (rs 2)).toNat : Int) + (r.opVal (im (-1))).toInt < 0))
      && meets 0x62 0 false false (.always (im 5) (rs 2) (im 0)) (st 0 [(2, 2 ^ 57)]) (fun r => (r.opVal (rs 2)).toNat == 2 ^ 57)) = true := by
  decide +kernel

/-- GathersAndScatters: k0 makes every lane active; k1, which is 0, none. -/
theorem test_meets_GathersAndScatters :
    (let x := sample 0x61 2
     meets 0x61 2 true false x (st 0) (fun r => (r.laneAddrs x).length == 64
        && (r.laneAddrs x).all (fun p => decide (0 ≤ p.2 ∧ p.2 < 2 ^ 57 ∧ p.2 % 4 = 0)) && laneElems (r.laneAddrs x) != [])
     && meets 0x61 2 true false { x with a := .reg .v 2 0 } (st 0) (fun r => r.laneAddrs { x with a := .reg .v 2 0 } == [])
     && meets 0x61 3 false false (sample 0x61 3) (st 0)) = true := by decide +kernel

/-- AtomicsAndTiles and PondOperations: every atomic of the global space and of the pond, and the tile forms at the last
stripe. -/
theorem test_meets_AtomicsAndTiles :
    ((List.range 12).all (fun fn => meets 0x80 fn true false (sample 0x80 fn) (st 0) (fun r =>
          decide (fits (2 ^ 57) (r.opVal (sample 0x80 fn).b).toNat (atomicSize fn (sample 0x80 fn).ty) (atomicAlign fn (sample 0x80 fn).ty))))
      && (List.range 4).all (fun fn => meets 0x63 fn true false (.always (rs 1) (rs 2) (im 5)) (st 0 [(2, 2 ^ 57 - 1), (3, 2 ^ 21 - 512)])
        (fun r => (r.grp (rs 2) 0).toNat == 2 ^ 57 - 1 && (r.grp (rs 2) 1).toNat % 512 == 0))) = true := by decide +kernel

/-- AtomicValues: the four types, with the largest old values. -/
theorem test_meets_AtomicValues : ([3, 4, 7, 8].all fun t => decide (2 ^ tyBits t - 1 < 2 ^ tyBits t)) = true := by decide

theorem test_meets_PondOperations :
    ((List.range 12).all (fun fn =>
        let x := sample 0x81 fn
        meets 0x81 fn true false x (st 0) (fun r =>
          let a : Access := { atomicAccess .pond fn x r 0 with span := if fn = 11 then 512 else 0, space := .pond, slot := r.cur }
          decide (r.pondReady (r.opVal x.b).toNat (atomicSize fn x.ty) (atomicAlign fn x.ty) (atomicSize fn x.ty) a)))
      && [(0, 10, false), (1, 10, true), (1, 9, true), (2, 10, false), (2, 9, false)].all (fun p =>
        let x := Args.always (if p.1 = 2 then (if p.2.1 = 9 then .none 0 else .reg .k 0 1) else if p.2.1 = 9 then rs 1 else .reg .v 0 1)
          (rs 2 (4 * p.2.1)) (.none 0)
        meets 0x51 p.1 p.2.2 false x (st 0) (fun r =>
          let a : Access := { kind := if p.1 = 0 then .xacc else if p.1 = 1 then .xrnd else .xclr, addr := 0,
                              span := if p.2.1 = 9 then 512 else 4096, ty := p.2.1, space := .pond, slot := r.cur }
          x.ty == p.2.1 && decide (r.pondReady 0 (if p.2.1 = 9 then 320 else 4096) 512 (if p.2.1 = 9 then 320 else 4096) a)))) = true := by
  decide +kernel

/-- PondAccesses: every form begins and passes the checks of R163. -/
theorem test_meets_PondPath_accesses :
    ([(0x70, 0, true, AccKind.load), (0x70, 1, false, .store), (0x70, 2, true, .load), (0x70, 3, false, .store), (0x71, 0, true, .blkLoad),
        (0x71, 1, false, .blkStore), (0x72, 0, false, .fill), (0x72, 1, false, .empty), (0x72, 2, true, .peek), (0x91, 1, true, .take),
        (0x91, 3, true, .chk)].all fun p =>
      meets p.1 p.2.1 p.2.2.1 false (sample p.1 p.2.1) (st 0) (fun r =>
        decide (r.pondReady 0 8 8 8 { kind := p.2.2.2, addr := 0, elems := [⟨0, 8, 0⟩], ty := 8, space := .pond, slot := r.cur }))) = true := by
  decide +kernel

/-- PondAccessWaits: a retired bank, a full queue, a range of the scoreboard in the way. -/
theorem test_meets_PondAccessWaits :
    (let x := sample 0x70 1
     let a : Access := { kind := .store, addr := 0, elems := [⟨0, tyBits x.ty / 8, 0⟩], ty := x.ty, space := .pond, slot := 0 }
     let full := { st 0 with ports := [(portX 0, List.replicate 16 {})] }
     meets 0x70 1 false false x ((st 0).updMill 0 (fun m => { m with bankRet := 1 })) (fun r => (r.mill 0).isRetired 0)
     && meets 0x70 1 false false x full (fun r => decide (16 < (r.port (portX 0)).length + r.heldPond 0 + a.words.length))
     && meets 0x70 1 false false x ((st 0).updMill 0 (fun m => { m with sb := [{ owner := 1, lo := 0, hi := 512, chunk := true, arrival := 4096 }] })) (fun r =>
        r.parksAccess 0 a)) = true := by decide +kernel

/-- CrewAccesses and CrewFaults: a crew of one; an access past the end of a pond, one to no member, one misaligned. -/
theorem test_meets_CrewAccesses :
    (let s := fun (v : Nat) => { st 0 [(2, v)] with launches := [(0, { record := BitVec.ofNat 512 (2 ^ 192) })] }
     [(0x74, 0, true), (0x74, 1, false), (0x74, 2, true), (0x74, 3, false)].all (fun p =>
        let x : Args := { sample p.1 p.2.1 with b := rs 2 32 }
        meets p.1 p.2.1 p.2.2 false x (s 0) (fun r => decide (r.crewReady 0 256 8))
        && meets p.1 p.2.1 p.2.2 false x (s (2 ^ 21 - 1)) (fun r => decide (2 ^ 21 < 2 ^ 21 - 1 + tyBits x.ty / 8) && r.crewN == 1)
        && meets p.1 p.2.1 p.2.2 false x (s (2 ^ 21)) (fun r => decide (r.crewN ≤ 2 ^ 21 / 2 ^ 21))
        && meets p.1 p.2.1 p.2.2 false x (s 1) (fun r => decide (1 / 2 ^ 21 < r.crewN) && 1 % (tyBits x.ty / 8) != 0))
     && (List.range 12).all (fun fn => meets 0x82 fn true false (sample 0x82 fn) (s 0) (fun r =>
        decide (r.crewReady 0 (atomicSize fn (sample 0x82 fn).ty) (atomicAlign fn (sample 0x82 fn).ty))))) = true := by decide +kernel

/-- AccessFaults and PondFaults: addresses below 0, past the end, misaligned, and, in the pond, both at once: the last 4 bytes for an
access of 8. -/
theorem test_meets_SpaceFaults :
    (let x := fun (o : Int) => Args.always (rs 1) (rs 2 32) (im o)
     meets 0x60 0 true false (x (-1)) (st 0) && meets 0x60 0 true false (x (-7)) (st 0 [(2, 2 ^ 57)])
     && meets 0x60 0 true false (x 1) (st 0) (fun r => tyBits (x 1).ty / 8 == 8 && (r.opVal (x 1).b).toNat == 0)
     && meets 0x70 0 true false (x (-1)) (st 0) && meets 0x70 0 true false (x (-7)) (st 0 [(2, 2 ^ 21)])
     && meets 0x70 0 true false (x 1) (st 0) (fun r => tyBits (x 1).ty / 8 == 8 && (r.opVal (x 1).b).toNat == 0)
     && meets 0x70 0 true false (x 0) (st 0 [(2, 2 ^ 21 - 4)]) (fun r => (r.opVal (x 0).b).toNat + tyBits (x 0).ty / 8 == 2 ^ 21 + 4
        && after (exec (.ldp (x 0)) r) (fun t => t.me.st == .stopped 0x0B))) = true := by
  decide +kernel

/-- AtomicFaults: the first address past each space, a misaligned one, and for the crew one past a pond, of no member, misaligned. -/
theorem test_meets_AtomicFaults :
    (let x := fun (op fn : Nat) => ({ sample op fn with b := match (sample op fn).b with | .reg cl m _ => .reg cl m 2 | o => o } : Args)
     let s := fun (v : Nat) => { st 0 [(2, v)] with launches := [(0, { record := BitVec.ofNat 512 (2 ^ 192) })] }
     (List.range 12).all (fun fn =>
       [2 ^ 57, 1, 2 ^ 25, 2 ^ 21].all (fun v => [0x80, 0x81, 0x82].all (fun op => meets op fn true false (x op fn) (s v) (fun r =>
         (r.opVal (x op fn).b).toNat == v && r.crewN == 1 && 1 % tyBits (x op fn).ty == 1))))) = true := by decide +kernel

/-- BlockFaults, TileFaults and LaneFaults: the last byte of the pond and an offset of 64; each space's first address past it; a lane past
the space after one within it, and one that is not aligned. -/
theorem test_meets_BlockTileLaneFaults :
    (let x := fun (op fn : Nat) => ({ sample op fn with b := match (sample op fn).b with | .reg cl m _ => .reg cl m 2 | o => o } : Args)
     [(0x71, 0, true), (0x71, 1, false), (0x51, 0, false), (0x51, 1, true), (0x51, 2, false), (0x91, 3, true)].all (fun p =>
       [2 ^ 21 - 1, 68].all (fun v => meets p.1 p.2.1 p.2.2 false (x p.1 p.2.1) (st 0 [(2, v)]) (fun r => (r.opVal (x p.1 p.2.1).b).toNat == v)))
     && [(2 ^ 57, 0), (0, 2 ^ 21), (0, 64)].all (fun v => meets 0x63 0 true false (.always (rs 1) (rs 2) (im 5)) (st 0 [(2, v.1), (3, v.2)]))
     && (let y := x 0x61 2
         let l := fun (b v : Nat) => (st 0 [(2, b)]).updMe (fun z => { z with v := [(y.c.idx, BitVec.ofNat 2048 v)] })
         meets 0x61 2 true false y (l (2 ^ 57 - 4) (2 ^ 34)) (fun r => (r.laneAddrs y).take 2 == [(0, 2 ^ 57 - 4), (1, 2 ^ 57)])
         && meets 0x61 2 true false y (l 0 (5 * 2 ^ 32)) (fun r => (r.laneAddrs y).take 2 == [(0, 0), (1, 5)]
           && (r.laneAddrs y).all (fun q => decide (0 ≤ q.2 ∧ q.2 < 2 ^ 57))))) = true := by decide +kernel

/-! Hypotheses that can be met: messages, barriers, engines. -/

/-- Sends: the longest payload to a slot, and a message to a host. -/
theorem test_meets_Sends :
    (let x := Args.always (rs 1) (.reg .v 0 1) (rs 2)
     meets 0x90 0 true false x (st 0 [(2, 511), (3, 56)]) (fun r => r.liveSlotId 511)
     && meets 0x90 1 true false x (st 0 [(2, 511), (3, 8 * 2 ^ 32 + 120)])
     && meets 0x90 0 true false x (st 0 [(2, 2 ^ 36 + 5), (3, 48)])) = true := by decide +kernel

theorem test_meets_Receives :
    ([0, 2, 8].all (fun fn => meets 0x91 fn true false (sample 0x91 fn) (st 0)) && meets 0x91 4 true true (sample 0x91 4) (st 0)) = true := by
  decide +kernel

/-- BarriersAndFences: the last id of the lowest and the highest level with a count, and each operand that is refused. -/
theorem test_meets_BarriersAndFences :
    (let s := { st 0 with launches := [(0, { counts := List.replicate 72 2 })] }
     let b := fun (l n : Int) => Args.always (.none 0) (im l) (im n)
     let c := fun (r : State) (l n : Nat) => (((r.launchOfSlot r.cur).counts[barBase l + n]?).getD 0) != 0 && decide (n < barIds l)
     meets 0x93 0 false false (b 2 7) s (fun r => c r 2 7) && meets 0x93 0 false false (b 7 15) s (fun r => c r 7 15)
     && meets 0x91 5 true false { b 2 0 with a := rs 1 } s (fun r => c r 2 0)
     && meets 0x93 0 false false (b 2 8) s (fun r => !c r 2 8) && meets 0x93 0 false false (b 2 (-1)) s
     && meets 0x93 0 false false (b 2 0) (st 0) (fun r => !c r 2 0)
     && meets 0x93 1 false false (.always (.none 0) (im 7) (.none 0)) s) = true := by decide +kernel

/-- SpawnAndLaunch: a member and no member; a record at the last address, beyond it, misaligned. -/
theorem test_meets_SpawnAndLaunch :
    (let s := fun (m : Nat) => { st 0 [(10, m)] with launches := [(0, { record := BitVec.ofNat 512 (2 ^ 192) })] }
     let x := Args.always (rs 1) (rs 2) (rs 10)
     let y := Args.always (rs 1) (rs 2) (im 7)
     meets 0x94 0 true false x (s 0) (fun r => r.crewN == 1) && meets 0x94 0 true false x (s (2 ^ 34)) (fun r => r.crewN == 1)
     && [2 ^ 57 - 64, 2 ^ 57, 32].all (fun v => meets 0x94 1 true false y (st 0 [(2, v)]))) = true := by decide +kernel

/-- AccumulatorShapes: the smallest and the largest FP32 shape, a bad one, and an accumulator that is held. -/
theorem test_meets_AccumulatorShapes :
    (let x := Args.always (.reg .a 0 3) (rs 2 40) (.none 0)
     let held := (st 0 [(2, 0x080101)]).updCore 0 (fun c => c.setAcc 3 { busy := true })
     [0x080101, 0x408040, 0].all (fun w => meets 0xB0 0 false false x (st 0 [(2, w)]) (fun r => r.myCore.onLoan 3 == false && (r.myCore.acc 3).busy == false))
     && meets 0xB0 0 false false x held (fun r => (r.myCore.acc 3).busy)
     && meets 0xB0 3 false false (.always (.reg .a 0 3) (.none 0) (.none 0)) (st 0)
     && meets 0xB0 3 false false (.always (.reg .a 0 3) (.none 0) (.none 0)) held) = true := by decide +kernel

/-- MatrixInstructions: operands in the pond, misaligned ones, a held accumulator, a staging that is full. -/
theorem test_meets_MatrixInstructions :
    (let x := Args.always (.reg .a 0 1) (rs 2) (rs 4)
     let y := Args.always (.reg .a 0 1) (rs 2) (rs 6)
     let e : EStep := { slot := 0, acc := 0, m := 1, n := 1, k := 8, t := 10, t2 := 10, scaled := false, a := (0, 0), b := (0, 0) }
     let regs : List (Nat × Nat) := [(2, 0), (3, 32), (4, 4096), (5, 16)]
     let s := (st 0 regs).updCore 0 (fun c => c.setAcc 1 { m := 1, n := 1, k := 8, t := 10, t2 := 10 })
     meets 0xB0 1 false false x s (fun r => after (exec (.mma x) r) (fun t => t.myCore.staging.length == 1))
     && meets 0xB0 1 false false x { s with slots := [(0, { st := .running, s := [(2, 1), (3, 32), (4, 4096), (5, 16)] })] } (fun r =>
        after (exec (.mma x) r) (fun t => t.me.st == .stopped 2))
     && meets 0xB0 1 false false x (s.updCore 0 (fun c => c.setAcc 1 { c.acc 1 with busy := true })) (fun r =>
        after (exec (.mma x) r) (fun t => t.me.st == .stopped 6))
     && meets 0xB0 1 false false x (s.updCore 0 (fun c => { c with staging := List.replicate 32 e })) (fun r =>
        after (exec (.mma x) r) (fun t => t.me.st == .parked .staging))
     && [4, 5].all (fun fn => meets 0xB0 fn true false y s)
     && meets 0xB0 4 true false y s (fun r => after (exec (.mld y) r) (fun t => (t.myCore.acc 1).busy))
     && meets 0xB0 2 false false (sample 0xB0 2) s) = true := by decide +kernel

/-- BatchesAndCopies: a copy that enters, one that faults, one that finds the queue full. -/
theorem test_meets_BatchesAndCopies :
    (let x := sample 0xA0 0
     let s := st 0 [(0, 0), (1, 0), (2, 1024 * 2 ^ 21), (3, 1)]
     let y := Args.always (.none 0) (rs 4) (.none 0)
     let t := st 0 [(4, 0), (5, 0), (6, 1024 * 2 ^ 21), (7, 1)]
     (List.range 4).all (fun fn => meets 0xA0 fn false false x s)
     && meets 0xA0 0 false false y t (fun r => after (exec (.cfetch y) r) (fun u => (u.cluster 0).cu.queue.length == 1))
     && meets 0xA0 0 false false y (st 0) (fun r => after (exec (.cfetch y) r) (fun u => u.me.st == .stopped 0x0B))
     && meets 0xA0 0 false false y (t.updCluster 0 (fun c => { c with cu := { c.cu with queue := List.range 16 } })) (fun r =>
        after (exec (.cfetch y) r) (fun u => u.me.st == .parked .copyRoom))
     && meets 0xA0 1 false false y (t.updMill 0 (fun m => { m with sb := List.replicate 64 { owner := 1, lo := 4096, hi := 8192, chunk := true } })) (fun r =>
        after (exec (.cstore y) r) (fun u => u.me.st == .parked .copyRoom))) = true := by decide +kernel

/-- CombineControl: operands at the ends of their ranges, and beyond each; a completion slot of another die. -/
theorem test_meets_CombineControl :
    (let q := Args.always (rs 1) (rs 2) (.none 0)
     let v := Args.always (rs 1) (rs 2) (.reg .v 0 1)
     meets 0xC1 0 true false q (st 0 [(2, 12 * 2 ^ 16), (3, 0), (4, 2 ^ 15 - 512 * 27 + 511)]) (fun r =>
        (r.grp q.b 2).toNat / 2 ^ 15 == r.cur / 32768 && decide ((r.grp q.b 2).toNat / 2 ^ 9 % 64 < r.part.liveMills))
     && [(0, 0), (12 * 2 ^ 16, 2 ^ 15), (12 * 2 ^ 16, 38 * 512)].all (fun p => meets 0xC1 0 true false q (st 0 [(2, p.1), (3, 0), (4, p.2)]))
     && [2 ^ 57 - 512, 2 ^ 57, 1].all (fun w => meets 0xC1 1 true false v (st 0 [(2, 8 * 2 ^ 8), (3, 0x0706050403020100), (4, w)]))
     && [0, 9 * 2 ^ 8, 2 * 2 ^ 8].all (fun k => meets 0xC1 1 true false v (st 0 [(2, k), (3, 0x0505), (4, 0)]) (fun r =>
        after (exec (.cbres v) r) (fun t => t.me.st == .stopped 1)))
     && [2 ^ 16 - 1, 2 ^ 16].all (fun w => meets 0xC1 3 true false q (st 0 [(2, w)]))
     && [2 ^ 24 - 1, 2 ^ 24].all (fun w => meets 0xC1 2 true false (.always (rs 1) (rs 2) (rs 3)) (st 0 [(2, w)]) (fun r =>
        decide (r.pondReady 0 512 512 0 { kind := .deposit, addr := 0, span := 512, space := .pond, slot := r.cur })))) = true := by decide +kernel

/-- WindroseCommands: an image, the unload form, addresses beyond the space and misaligned; a run, and each of its faults;
the status of a run that is in progress, that has ended and that there is not. -/
theorem test_meets_WindroseCommands :
    (let q := Args.always (rs 1) (rs 2) (.none 0)
     let run := fun (w table slot : Nat) => meets 0xC0 1 true false q (st 0 [(2, w), (3, table), (4, slot)])
     let s := fun (f : State → State) => f (st 0 [(2, 1 + 2 ^ 16)])
     [2 ^ 57 - 64, 2 ^ 57, 1, 2 ^ 63].all (fun v => meets 0xC0 0 true false q (st 0 [(2, v)]))
     && (st 0).runs.any (fun k => k.2.st != 0) == false
     && run (2 ^ 16 - 1) (2 ^ 57 - 128) (2 ^ 15 - 1) && run (2 ^ 16) 0 0 && run 0 0 (2 ^ 40) && run 0 0 (2 ^ 15) && run 0 (2 ^ 57) 0 && run 0 1 0
     && meets 0xC0 2 true false (.always (rs 1) (rs 2) (rs 5)) (st 0 [(2, 0), (3, 0), (4, 0)])
     && meets 0xC0 3 true false q (st 0 [(2, 2 ^ 32)])
     && meets 0xC0 3 true false q (s id) (fun r => (r.graph 0 1).ended == [] && r.runs == [])
     && meets 0xC0 3 true false q (s (fun s => s.setRun 4 { handle := 1, k := 1, st := 2 })) (fun r =>
        r.runs == [(4, { handle := 1, k := 1, st := 2 })])
     && meets 0xC0 3 true false q (s (fun s => s.setGraph 0 1 { ended := [(1, 3, 2, 2)] })) (fun r => (r.graph 0 1).ended == [(1, 3, 2, 2)])) = true := by
  decide +kernel

/-- GInstructions: on a core with G and on the first core without. -/
theorem test_meets_GInstructions :
    ((List.range 5).all fun fn => meets 0xD0 fn false false (sample 0xD0 fn) (st 63) && decide ((st 63).cur / 16 % 8 < 4)
      && meets 0xD0 fn false true (sample 0xD0 fn) (st 64) && decide (4 ≤ (st 64).cur / 16 % 8)) = true := by decide +kernel

/-- OnlyTheseWriteMemory, StepKeepsMemoryCanonical and StoreFrames: a canonical memory, a step, a request of each kind, a dirty
line. -/
theorem test_meets_memory_statements :
    (decide State.reset.bytesOk && decide (mapped.bytesOk) && after (exec (.nop (sample 0 0)) mapped) (fun t => decide t.bytesOk)
      && after (step State.reset) (fun t => decide t.bytesOk)
      && (let s := { State.reset with llc := [(1, { tag := 1, dirty := 1, data := 0xAB, attr := 0 })] }
          (s.llcGet 1).any (fun l => l.dirty != 0 && atKey l.attr == 0) && (s.winOf (homeStack 64 0) 1).isNone)
      && (let q : PondReq := { acc := { kind := .store, elems := [⟨0, 8, 0⟩], data := 0x1122 } }
          (elemsMask q.acc.elems).getLsbD 0 && !(elemsMask q.acc.elems).getLsbD 8)) = true := by decide +kernel

/-- StoreFrames: a stripe of a block store, one accumulator of an `xacc`, and the bit of chunk 13 in its arrival word. -/
theorem test_meets_block_commits :
    (let x : Staged := { order := 0, off := 512, mask := 1, data := 0x77, chunk := some (9, 13, 600) }
     let b : Access := { kind := .xacc, mask := 1, data := 0x3F800000 }
     decide (st 0).bytesOk && !((st 0).mill 0).isDry 512 && !((st 0).mill 0).isDry 600
     && memByte ((st 0).commitOne 0 x).pond 512 == 0x77 && memByte ((st 0).commitOne 0 x).pond 576 == 0
     && memByte ((st 0).setArrival 0 x).pond 601 == 0x20
     && ((st 0).commitOne 0 { x with acc := some b, chunk := none }).pond != []) = true := by decide +kernel

/-! Hypotheses that can be met: the binding table. -/

/-- The top byte of a little-endian read is the last byte read. -/
theorem llcBytes_top (s : State) (at_ : Nat) : ∀ n pa, s.llcBytes pa at_ (n + 1) / 256 ^ n =
    bits (s.llcLine ((pa + n) / 64) at_).toNat (8 * ((pa + n) % 64) + 7) (8 * ((pa + n) % 64)) := by
  intro n
  induction n with
  | zero => intro pa; simp [State.llcBytes]
  | succ n ih =>
    intro pa
    rw [State.llcBytes, Nat.pow_succ, Nat.mul_comm (256 ^ n) 256, ← Nat.div_div_eq_div_mul, Nat.add_mul_div_left _ _ (by omega)]
    have h : bits (s.llcLine (pa / 64) at_).toNat (8 * (pa % 64) + 7) (8 * (pa % 64)) / 256 = 0 := by
      rw [Nat.div_eq_zero_iff]; right
      unfold bits
      rw [show 8 * (pa % 64) + 7 + 1 - 8 * (pa % 64) = 8 by omega]
      exact Nat.mod_lt _ (by omega)
    rw [h, Nat.zero_add, ih (pa + 1), show pa + 1 + n = pa + (n + 1) by omega]

/-- A translation of context 0 of the first 64 KiB to itself, every access allowed. -/
def page0 : Trans := { ctx := 0, base := 0, size := 65536, leaf := 15 }

/-- A state whose cluster translates the page of its binding table at 0, and whose LLC holds the given lines of it. -/
def bound (ls : Tab CLine) : State :=
  { (st 0 [(2, 8), (3, 64), (4, 64)]).updCluster 0 (fun c => { c with tlb := [page0] }) with llc := ls }

/-- A table of 256 valid entries, each of object 8. -/
def fullTable : State :=
  bound ((List.range 128).map (fun i => (i, ({ tag := i, data := BitVec.ofNat 512 ((2 ^ 255 + 8) * (2 ^ 256 + 1)) } : CLine))))

theorem bindEntry_bound (ls : Tab CLine) (i : Nat) (h : i < 256) :
    (bound ls).bindEntry ((bound ls).launchOfSlot (bound ls).cur) i = (bound ls).llcBytes (32 * i) (page0.attr (32 * i)) 32 := by
  have hb : (0 : Nat) ≤ 32 * i ∧ 32 * i < 65536 := by omega
  have hl : ((bound ls).launchOfSlot (bound ls).cur).bindBase = 0 ∧ ((bound ls).launchOfSlot (bound ls).cur).ctx = 0 := by
    have : (bound ls).launchOfSlot (bound ls).cur = {} := rfl
    rw [this]; decide +kernel
  have hf : findTrans ((bound ls).cluster (clusterOf (bound ls).cur)).tlb 0 (32 * i) = some page0 := by
    have : ((bound ls).cluster (clusterOf (bound ls).cur)).tlb = [page0] := by
      have : (bound ls).clusters = (bound []).clusters := rfl
      unfold State.cluster
      rw [this, show (bound ls).cur = 0 from rfl]; decide +kernel
    rw [this]; simp [findTrans, page0, Trans.covers, hb.2]
  unfold State.bindEntry State.bindTrans State.pageNow
  simp only [hl.1, hl.2, Nat.zero_add, hf]
  simp [page0, Trans.pa, atAddr, bits]

theorem fullTable_line (at_ : Nat) : ∀ l, l < 128 → fullTable.llcLine l at_ = BitVec.ofNat 512 ((2 ^ 255 + 8) * (2 ^ 256 + 1)) := by
  intro l hl
  have h : (List.range 128).all (fun l => decide (tget { tag := 2 ^ 64 } fullTable.llc l =
      ({ tag := l, data := BitVec.ofNat 512 ((2 ^ 255 + 8) * (2 ^ 256 + 1)) } : CLine))) = true := by decide +kernel
  have h := List.all_eq_true.mp h l (List.mem_range.mpr hl)
  unfold State.llcLine
  rw [of_decide_eq_true h]; simp

theorem fullTable_valid (i : Nat) (h : i < 256) : (fullTable.bindEntry (fullTable.launchOfSlot fullTable.cur) i).testBit 255 = true := by
  rw [fullTable, bindEntry_bound _ _ h, ← fullTable]
  have ht := llcBytes_top fullTable (page0.attr (32 * i)) 31 (32 * i)
  rw [fullTable_line _ _ (by omega)] at ht
  have hb : ∀ x : Nat, x.testBit 255 = (x / 256 ^ 31).testBit 7 := by
    intro x; rw [show (256 : Nat) ^ 31 = 2 ^ 248 by norm_num, Nat.testBit_div_two_pow]
  rw [hb, ht]
  rcases (show (32 * i + 31) % 64 = 31 ∨ (32 * i + 31) % 64 = 63 by omega) with h | h <;> rw [h] <;> decide +kernel

/-- With nothing mapped no entry of the binding table is valid. -/
theorem free_unbound (va : Nat) : (st 0).bindsOfWord ((st 0).launchOfSlot 0) va = [] := by
  have hl : ((st 0).launchOfSlot 0).ctx = 0 ∧ ((st 0).launchOfSlot 0).bindBase = 0 := by decide +kernel
  have hr : (st 0).root 0 = 0 := by decide +kernel
  have h0 : (st 0).llcBytes 0 0 16 = 0 := by decide +kernel
  have h : ∀ i, i < 256 → (st 0).bindEntry ((st 0).launchOfSlot 0) i = 0 := by
    intro i hi
    have h3 : vaIndex (0 + 32 * i) 3 = 0 := by unfold vaIndex bits; simp [Nat.shiftRight_eq_div_pow]; omega
    have ht : findTrans ((st 0).cluster (clusterOf (st 0).cur)).tlb 0 (0 + 32 * i) = none := rfl
    unfold State.bindEntry State.bindTrans State.pageNow State.walkNow
    have hw : ∀ d n va, findTrans ((st 0).walker d n).cache 0 va = none := fun _ _ _ => rfl
    simp only [hl.1, hl.2, ht, hw, hr, State.walkFrom, h3, Nat.mul_zero, Nat.add_zero, h0]
    simp [State.walkEntry, atV]
  have hb : (st 0).binds ((st 0).launchOfSlot 0) = [] := by
    unfold State.binds
    rw [List.filter_eq_nil_iff]
    intro p hp
    obtain ⟨i, hi, rfl⟩ := List.mem_map.mp hp
    simp [h i (List.mem_range.mp hi)]
  unfold State.bindsOfWord
  rw [hb]; rfl

/-- Bindings: a table that is not mapped, one whose first entry is free, and one with none free; objects of both kinds, a
range up to the end of the space. -/
theorem test_meets_Bindings :
    ((let x := Args.always (rs 1) (rs 2) (im 2)
      meets 0x92 0 false false x (st 0 [(2, 8), (3, 64), (4, 64)]) (fun r => (r.bindFault (r.launchOfSlot r.cur) true).isSome)
      && meets 0x92 0 false false x (bound []) (fun r =>
        (r.bindFault (r.launchOfSlot r.cur) true).isNone && !(r.bindEntry (r.launchOfSlot r.cur) 0).testBit 255)
      && meets 0x92 0 false false x fullTable (fun r => (r.bindFault (r.launchOfSlot r.cur) true).isNone)
      && meets 0x92 1 false false (.always (rs 1) (rs 2) (im 7)) { bound [] with slots := (st 0 [(2, 2 ^ 63), (3, 2 ^ 57 - 64), (4, 64)]).slots }
        (fun r => decide (2 ^ 63 / 2 ^ 40 % 2 ^ 23 = 0) && (r.grp (rs 2) 1).toNat + (r.grp (rs 2) 2).toNat == 2 ^ 57)) = true)
    ∧ ∀ i, i < 256 → (fullTable.bindEntry (fullTable.launchOfSlot fullTable.cur) i).testBit 255 = true :=
  ⟨by decide +kernel, fullTable_valid⟩

/-- BoundFullEmpty: a word that no entry binds, and one that the entries of the table bind. -/
theorem test_meets_BoundFullEmpty :
    ((let x := Args.always (rs 1) (rs 2) (rs 9 1)
      meets 0x72 0 false false x (st 0)
      && meets 0x72 0 false false x fullTable (fun r => decide (fits (2 ^ 57) ((r.opVal (rs 2)).toNat + (r.opVal (rs 9 1)).toInt) 8 8))
      && meets 0x91 1 true false x (st 0)) = true)
    ∧ (st 0).bindsOfWord ((st 0).launchOfSlot 0) 0 = []
    ∧ fullTable.bindsOfWord (fullTable.launchOfSlot fullTable.cur) 8 ≠ [] := by
  refine ⟨by decide +kernel, free_unbound 0, ?_⟩
  apply List.ne_nil_of_mem (a := 2 ^ 255 + 8)
  unfold State.bindsOfWord State.binds
  refine List.mem_filter.mpr ⟨List.mem_map.mpr ⟨(0, 2 ^ 255 + 8), List.mem_filter.mpr ⟨List.mem_map.mpr ⟨0, by simp, ?_⟩, ?_⟩, rfl⟩, ?_⟩
  · have : fullTable.bindEntry (fullTable.launchOfSlot fullTable.cur) 0 = 2 ^ 255 + 8 := by decide +kernel
    rw [this]
  · decide +kernel
  · decide +kernel

/-! Hypotheses that can be met: events. -/

/-- A state in which an event acts on the given numbers, and whether the rest of a statement's hypotheses holds there. -/
def event (a : List Nat) (s : State) (p : State → Bool) : Bool :=
  let t := { s with arg := a }
  t.arg == a && p t

/-- Slot 0 awaits a result in its entry 5. -/
def waits : State := (st 0).updMe (fun y => { y with rb := [{ uid := 5, writes := [⟨.s, 4, 9, BitVec.allOnes 2048⟩] }] })

/-- A launch with one crew, of mill 0, which runs task 0. -/
def crewed (x : Launch := {}) : State :=
  { waits with launches := [(1, { x with id := 1, record := BitVec.ofNat 512 (2 ^ 192), crews := [some [0]], current := [some 0] })] }

/-- FetchAndCacheEvents: fetches. -/
theorem test_meets_FetchEvents :
    ((let t := (st 0).updCluster 0 (fun c => { c with tlb := [page0] })
      event [0, 5] t (fun s => (s.tlb 0 0 320).1 == some page0 && atX page0.leaf.toNat
        && (((s.tlb 0 0 320).2.cluster 0).icache.lookup (page0.pa 320 / 64)).isNone
        && !((s.tlb 0 0 320).2.cluster 0).ifill.contains (page0.pa 320 / 64) && !(page0.attr 320).testBit 51))
    && event [0, 5] (st 0) (fun s => (s.tlb 0 0 320).1.isNone)
    && event [0, 7, 9] (st 0) (fun s => s.codeStores == []) && event [3] (st 0) (fun s => s.arg.length == 1)
    && event [3] { st 0 with walks := [(3, { answer := some (.inl page0) })] } (fun s =>
        (tget {} s.walks 3 : Walk).answer == some (.inl page0) && (tget {} s.walks 3 : Walk).waiters.isEmpty)) = true := by decide +kernel

/-- FetchAndCacheEvents: slices and the LLC. -/
theorem test_meets_CacheEvents :
    ((let x := fun (x : Slice) => (st 0).setSlice 5 x
      event [5] (x { answer := [7, 8] }) (fun s => (s.slice 5).answer == [7, 8])
      && event [5] (x { queue := [7] }) (fun s => (s.slice 5).answer == [] && (s.slice 5).queue == [7]))
    && event [9] { st 0 with fills := [(9, [9, 4])] } (fun s => tget [] s.fills 9 == [9, 4])
    && (let c : CLine := { tag := 9, miss := some [7, 9] }
        event [5, 9, 4] ((st 0).setL2 5 (l2Set 576) [c]) (fun s => ((s.delReq 4).l2Lines 5 (l2Set 576)).find? (fun y => y.tag == 9) == some c))
    && event [1, 4] (st 0) (fun s => (s.req 4).fe.isNone) && event [2, 9] (st 0) (fun s => s.arg.length == 2)
    && [true, false].all (fun d =>
        let c : CLine := { tag := 9, bud := some (0, d), dirty := 1 }
        event [5, 9] ((st 0).setL2 5 (l2Set 576) [c]) (fun s => (s.l2Lines 5 (l2Set 576)).find? (fun y => y.tag == 9) == some c && c.isDirty))) = true := by
  decide +kernel

/-- NetworkAndMessageEvents: packets and crew accesses. -/
theorem test_meets_NetworkEvents :
    ((let p : Packet := { src := 1, dst := 2, flits := [(0, ⟨1, 0, 0, 0, none⟩)] }
      [p, { p with flits := [] }].all (fun p => event [4, 0] ((st 0).setPacket 4 p) (fun s =>
        (s.packet 4).src != (s.packet 4).dst && (s.packet 4).flits == p.flits)))
    && event [4, 0, 7] (st 0) (fun s => s.arg.length == 3)
    && (let a : Access := { kind := .load, addr := 2 ^ 21 + 8, elems := [⟨2 ^ 21 + 8, 8, 0⟩], space := .crew }
        event [4] ((st 0).setPacket 4 { src := 1, dst := 2, payload := .crewReq a 0 }) (fun s =>
          let m := s.mill (s.millAt 0 0)
          let b := { a with addr := a.addr % 2 ^ 21, elems := a.elems.map (fun e => { e with addr := e.addr % 2 ^ 21 }) }
          (s.packet 4).payload == .crewReq a 0 && (s.cluster 0).retired == false
          && [1, 2, 3].all (fun k => m.faces 0 (offGroup (a.addr % 2 ^ 21)) s.cycle < m.faces k (offGroup (a.addr % 2 ^ 21)) s.cycle)
          && (s.port (portY 0 6)).length + b.words.length ≤ 16 && !s.parksAccess 0 b && !s.crewBefore (s.packet 4) a 0 && s.ports == []))) = true := by
  decide +kernel

/-- NetworkAndMessageEvents: messages, dispensers, invalidations, barriers. -/
theorem test_meets_MessageEvents :
    ((let x : Sent := { msg := { hdr := mkHdr 0 false 0 0 1 8 }, dest := .slot 0 }
      let t := { (st 0).setSent 6 x with heldMsgs := [(0, [6])] }
      event [6] t (fun s => (s.sents.lookup 6).isSome && (s.sent 6).dest == .slot 0 && !s.noticeLost 0 (s.sent 6) && (s.sent 6).msg.kind != 3 && (s.sent 6).msg.kind != 9
        && (s.sent 6).thread == 0 && (match s.deliverSlot 0 6 (s.sent 6).msg with | .ok _ => true | _ => false))
      && event [0] t (fun s => tget [] s.heldMsgs 0 == [6] && !s.noticeLost 0 (s.sent 6)
        && (match s.deliverSlot 0 6 (s.sent 6).msg with | .ok _ => true | _ => false))
      && event [0, 6, 1] t (fun s => s.arg.length == 3))
    && (let x : Sent := { msg := { hdr := mkHdr 5 true 0 0 0 64 }, dest := .dispatcher 0 0 }
        let y : Sent := { x with msg := { hdr := mkHdr 10 true 0 0 0 64 } }
        let t := fun (z : Sent) (at_ : Nat) => ((st 0).setSent 6 z).updDie 0 (fun d => { d with boxes := [(0, [y, y, y])], boxAt := [(0, at_)] })
        [(x, 5, 0), (y, 10, 0), (x, 5, (st 0).cycle + 1)].all (fun p => event [6] (t p.1 p.2.2) (fun s =>
          (s.sents.lookup 6).isSome && (s.sent 6).dest == .dispatcher 0 0 && (s.context 0).record != 0 && (s.sent 6).msg.kind == p.2.1
          && tget 0 (s.die 0).boxAt 0 == p.2.2 && ((tget [] (s.die 0).boxes 0 ++ [y]).map (fun z => z.msg.entries)).sum == 8)))
    && event [1] ((st 0).updCluster 1 (fun c => { c with disp := [{ launch := 0, task := 0, slots := 0, entry := 0, args := [], src := 0 }] })) (fun s =>
        !(s.mill 0).stopping && !(s.cluster 1).retired && (s.cluster 1).handed.all (fun t => decide (t < s.cycle)) && (s.placeOldest 1 (s.cluster 1).disp).isSome)
    && event [0] (st 0) (fun s => stillOpen s [] == [])
    && event [0, 0, 3] ((st 0).updMe (fun y => { y with open_ := [{ uid := 3, space := .glob, atomic := false, left := 1 }] })) (fun s =>
        stillOpen s [0, 3] == [0, 3])
    && event [0, 8] (st 0) (fun s => s.arg.length == 2) && event [3] (st 0) (fun s => s.arg.length == 1)) = true := by decide +kernel

/-- PondEvents. -/
theorem test_meets_PondEvents :
    ((let q : PondReq := { id := 2, acc := { kind := .load, elems := [⟨0, 8, 0⟩] }, off := 0 }
      event [0, 2] { st 0 with cycle := 0, ports := [(0, [q])] } (fun s =>
        (s.port 0).find? (fun o => o.id == 2) == some q && !(s.mill 0).isDry q.off && q.entry ≤ s.cycle && s.meetsNow 0 0
        && tget 0 s.metAt 0 != s.cycle + 1 && olderThan (s.port 0) 2 == [] && (s.port 0).all (fun o => o.turn != some (s.cycle / 8))))
    && (let q : PondReq := { id := 2, block := true, turn := some 0 }
        event [0, 2] { st 0 with ports := [(0, [q])] } (fun s =>
          (s.port 0).find? (fun o => o.id == 2) == some q && q.turn == some (s.cycle / 8) && s.cycle % 8 != 7))
    && event [63, 31] (st 0) (fun s => (s.mill 63).launch.isNone && decide s.bytesOk && Tab.wf {} s.mills && decide (31 < 32))
    && event [0] (st 0) (fun s => s.cycle % 32 == 0) && event [0] (st 1) (fun s => s.cycle % 32 != 0)) = true := by decide +kernel

/-- A copy command of two chunks in the crew of mill 0, with an entry of the scoreboard. -/
def copying (kind : Nat) (f : Copy → Copy := id) : State :=
  ((crewed.setCopy 3 (f { id := 3, kind := kind, r := [0, 0, 0, 2], launch := 1, stage := 4, thread := 1 })).updCu 0 (fun u => { u with queue := [3, 4] })).updMill 0
    (fun m => { m with launch := some 1, crew := 0, members := [0], sb := [{ owner := 3, lo := 0, hi := 1024, chunk := true, arrival := 2048 }] })

/-- CopyChunks. -/
theorem test_meets_CopyChunks :
    ([0, 1, 2, 3].all (fun k => [0, 1].all (fun i => event [3, i] (copying k) (fun s =>
        (s.copy 3).id != 0 && !(s.copy 3).hold && (s.copy 3).kind == k && (s.copy 3).count == 2)))
    && event [0, 3] (copying 0) (fun s => (s.copy 3).id != 0 && !(s.mill 0).isDry (s.copy 3).arrival && (s.mill 0).chkWait == [])
    && event [0, 3] ((copying 0).updMill 0 (fun m => { m with bankDry := BitVec.allOnes 32 })) (fun s => (s.mill 0).isDry (s.copy 3).arrival)
    && event [0, 3, 1, 99] (copying 0) (fun s =>
        let c := s.copy 3
        let m := s.mill 0
        let time := fun k => m.faces k (offGroup (c.off + 512)) s.cycle
        c.id != 0 && m.launch == some c.launch && m.crew == c.crew && m.sb.any (fun e => e.chunk && e.owner == 3)
        && (List.range 4).any (fun j => !(s.cluster j).retired && (List.range 4).all (fun k => k == j || time j < time k)))) = true := by decide +kernel

/-- CopyEnds: a late fault; the last chunk of the only destination, and one before it; a chunk of a cstore. -/
theorem test_meets_CopyEnds :
    (event [3, 5, 0] (copying 0) (fun s => (s.copy 3).id != 0)
    && event [3, 0, 0] (copying 0) (fun s => (s.copy 3).kind != 1 && tget 0 (s.copy 3).committed 0 + 1 != (s.copy 3).count && (s.copyDests (s.copy 3)).contains 0)
    && event [3, 0, 1] (copying 0 (fun c => { c with committed := [(0, 1)] })) (fun s =>
        (s.copy 3).kind != 1 && s.copyDests (s.copy 3) == [0] && tget 0 (s.copy 3).committed 0 + 1 == (s.copy 3).count)
    && event [3, 0, 0] (copying 1) (fun s => (s.copy 3).id != 0 && (s.copy 3).kind == 1)) = true := by decide +kernel

/-- A tile operation at a home whose version is `v`. -/
def tiling (x : Tile) (v : Nat) : State :=
  let s := mapped.setTile 4 x
  { s with versions := [((s.tileHome x).2, v)] }

/-- TileSteps. -/
theorem test_meets_TileSteps :
    (let x := fun (k : AccKind) => ({ acc := { kind := k, uid := 5 }, left := 1, pages := [page0] } : Tile)
     let l := x (.tileLoad false)
     let a := x (.tileLoad true)
     let st := x .tileStore
     let at_ := fun (y : Tile) (v stage : Nat) (p : Tile → Bool) => event [4, stage, 0] (tiling y v) (fun s =>
       (s.tiles.lookup 4).isSome && tget 0 s.versions (s.tileHome (s.tile 4)).2 == v && p (s.tile 4))
     at_ l 0 0 (fun _ => true) && at_ l 0 1 (fun y => !y.store) && at_ st 0 1 (fun y => y.store) && at_ st 0 2 (fun y => y.left ≤ 1)
     && at_ { st with left := 2 } 0 2 (fun y => 1 < y.left) && at_ st 1 3 (fun y => y.store) && at_ st 0 3 (fun y => y.store)
     && at_ { a with tries := 63 } 1 3 (fun y => !y.store && y.isAon && y.tries < 64)
     && at_ { a with tries := 64 } 1 3 (fun y => !y.store && y.isAon && 64 ≤ y.tries)
     && at_ l 1 3 (fun y => !y.store && !y.isAon) && at_ a 2 3 (fun y => !y.store) && at_ a 1 6 (fun _ => true)
     && event [4, 9] (tiling l 0) (fun s => (s.tiles.lookup 4).isSome)) = true := by decide +kernel

/-- A batch of two steps at the engine of cluster 0. -/
def aStep : EStep := { slot := 0, acc := 0, m := 1, n := 1, k := 8, t := 10, t2 := 10, scaled := false, a := (0, 32), b := (4096, 16), batch := 5 }
def aBatch : Batch := { id := 5, job := 77, slot := 0, thread := 1, launch := 1, seq := 7, commit := 0, steps := [aStep, { aStep with acc := 1 }], traps := 31 }
def engaged (b : Batch) (f : Engine → Engine := id) : State := crewed.updEngine 0 (fun e => f { e with batches := [b] })

/-- BatchesLetIn: with and without room on the scoreboard. -/
theorem test_meets_BatchesLetIn :
    ([0, 64].all (fun n => event [0] ((engaged aBatch).updMill 0 (fun m => { m with
        sb := List.replicate n { owner := 1, lo := 0, hi := 0, chunk := true } })) (fun s =>
      (s.engine 0).batches.find? (fun y => !y.registered) == some aBatch && (s.engine 0).batches.find? (fun y => !y.queued) == some aBatch
      && !aBatch.queued && (s.engine 0).batches == [aBatch] && decide ((s.mill 0).sb.length + aBatch.rects.length ≤ 64) == (n == 0)))) = true := by
  decide +kernel

/-- EngineRuns: in each cycle of a turn, the last step of a batch and one before it, a move, a batch. -/
theorem test_meets_EngineRuns :
    ([0, 3, 7, 8].all (fun c => event [0] { engaged aBatch (fun e => { e with turn := some (none, [0, 8]) }) with cycle := c } (fun s =>
        (s.engine 0).turn == some (none, [0, 8]) && s.cycle == c))
    && [0, 1].all (fun d => event [0] (engaged { aBatch with done := d } (fun e => { e with run := some { start := 0, left := [] } })) (fun s =>
        (s.engine 0).run == some { start := 0, left := [] } && (s.engine 0).batches == [{ aBatch with done := d }]
        && (aBatch.steps[d]?).isSome))
    && (let v : Move := { id := 6, store := false, core := 0, slot := 0, uid := 5, seq := 7, thread := 1, acc := 0, base := 0, issue := 0, pitch := 32, left := [] }
        event [0, 6] ((engaged aBatch).updCluster 0 (fun c => { c with moves := [v] })) (fun s => (s.cluster 0).moves.find? (fun y => y.id == 6) == some v))
    && event [0, 5] (engaged { aBatch with flags := 9 }) (fun s =>
        (s.engine 0).batches.find? (fun y => y.id == 5) == some { aBatch with flags := 9 } && (aBatch.traps &&& 9) != 0)) = true := by decide +kernel

/-- Migrations: a G slot empty and none; the queue empty, with one thread and with two; an arrival. -/
theorem test_meets_Migrations :
    ((let t := (st 0).setSlot 64 { st := .parked .migration, thread := 2 }
      event [64] t (fun s => (s.slot 64).st == .parked .migration && !(s.mill 0).stopping && (s.gSlot 0).isSome)
      && event [64] { t with slots := (List.range 65).map (fun g => (g, if g = 64 then { st := .parked .migration } else { st := .running })) } (fun s =>
          s.gSlot 0 == none && (s.slot 64).st == .parked .migration && !(s.mill 0).stopping)
      && [[], [64], [64, 65]].all (fun l => event [0] (t.updCluster 0 (fun k => { k with migq := l })) (fun s =>
          (s.cluster 0).migq == l && (s.gSlot 0).isSome)))
    && event [64, 3] (((st 0).setSlot 64 { st := .migrating, link := some 3, thread := 2 }).setSlot 3 { st := .reserved, link := some 64 }) (fun s =>
        (s.slot 64).st == .migrating && (s.slot 64).link == some 3 && (s.slot 3).st == .reserved && (s.slot 64).flush == none
        && (s.slot 64).heldLate == [])) = true := by decide +kernel

/-- LateFaults: a running, parked, migrating and departed thread; a trap of each policy; a stopped supervisor. -/
theorem test_meets_LateFaults :
    (let t := fun (x : SlotSt) => (st 0).setSlot 3 { st := x, thread := 2, ring := [{ seq := 4, ix := 2, op := 0x44, fn := 1 }] }
     let f := fun (r : Nat) => { ((st 127).setSlot 127 { st := .stopped 1 }).setSent 4 { dest := .slot 127, msg := trapMsg 3 0 1 0 0 0 0 0 false } with
       contexts := [(0, { record := BitVec.ofNat 512 r })] }
     [.running, .parked .marker, .migrating].all (fun x => event [3, 9, 4, 8, 2, 0] (t x) (fun s =>
       s.savedSlots.lookup 2 == none && (s.slot (s.follow 3)).thread == 2 && (s.slot (s.follow 3)).st == x))
     && event [3, 9, 4, 8, 5, 0] (t .running) (fun s => s.savedSlots.lookup 5 == none && (s.slot (s.follow 3)).thread != 5)
     && event [4] (f 0) (fun s => (s.sent 4).dest == .slot 127 && !s.ctxExists (s.sent 4).msg.owner)
     && event [4] (f (2 ^ 246 + 127 * 2 ^ 222)) (fun s => s.ctxExists (s.sent 4).msg.owner && s.fpol 0 == 1 && (s.slot (s.follow (s.hslot 0))).st.hasThread)
     && event [4] (f (2 ^ 246)) (fun s => s.ctxExists (s.sent 4).msg.owner && s.fpol 0 == 1 && !(s.slot (s.follow (s.hslot 0))).st.hasThread)
     && event [0] (f 1) (fun s => (s.slot 127).st == .stopped 1)) = true := by decide +kernel

/-- MachineChecks: each kind. -/
theorem test_meets_MachineChecks :
    ([[0, 0, 3], [6, 0, 3], [5, 0, 3, 8, 1], []].all (fun a => event a (st 0) (fun s => Tab.wf {} s.mills))) = true := by decide +kernel

/-- Dispatching: a record, a full pool, a record that faults, a command, a code that is none; a task of a crew of one. -/
theorem test_meets_Dispatching :
    (let x := fun (k pay : Nat) => ({ msg := { hdr := mkHdr k true 0 0 4 64, pay := BitVec.ofNat 960 pay, uid := 8 }, dest := .dispatcher 0 0 } : Sent)
     let t := fun (y : Sent) (n : Nat) => { ((st 0).setSent 6 y).updDie 0 (fun d => { d with pool := List.replicate n 1 }) with launches := [(1, { pending := true })] }
     [256, 255].all (fun n => event [0, 0, 6] (t (x 5 0) n) (fun s => (s.sent 6).msg.kind == 5 && (s.die 0).pool.length == n && (s.launchOf 1).pending))
     && [1, 7, 0, 8].all (fun w => event [0, 0, 6] (t (x 8 w) 1) (fun s => (s.sent 6).msg.kind != 5 && bits (s.sent 6).msg.pay.toNat 63 0 == w))
     && event [0] (st 0) (fun s => s.dispatchOne 0 == none && s.waiting 0 == [] && s.launches == [])
     && event [1, 0, 0] crewed (fun s => ((s.launchOf 1).crews[0]?).getD none == some [0] && (s.writeImage (s.launchOf 1) 0).liveCluster 0 == some 0)) = true := by
  decide +kernel

/-- TaskEnds: a task that goes on, a saved task, a next one and none; a notice to a host and to a thread; a slice that is not
spent, that no record would gain by, and that is spent with a record in want of its mills. -/
theorem test_meets_TaskEnds :
    (let t := fun (x : Launch) => { crewed x with slots := [] }
     let ended := fun (s : State) => !s.starting 1 0 && !s.vacating 1 0 && s.taskOver 1 [0]
     let sl : State := { (st 0).updDie 0 (fun d => { d with pool := [2] }) with
       cycle := 70, mills := (List.range 38).map (fun m => (m, { launch := some 1 }))
       launches := [(1, { id := 1, record := BitVec.ofNat 512 (2 ^ 192), crews := [some [0], some [1]], current := [some 0, some 1], sliceEnd := some 70 }),
         (2, { id := 2, record := BitVec.ofNat 512 (2 ^ 192), pending := false, spare := [0] })] }
     [{ work := [[]] }, { work := [[5, 6]] }, { work := [[5, 6]], saved := [3] }].all (fun x => event [1, 0] (t x) (fun s =>
       ((s.launchOf 1).crews[0]?).getD none == some [0] && ((s.launchOf 1).current[0]?).getD none == some 0 && ended s && (s.launchOf 1).work == x.work
       && (s.launchOf 1).saved == x.saved))
     && event [1, 0] (crewed.updSlot 0 (fun y => { y with launch := 1 })) (fun s => !ended s)
     && [none, some (5, 9)].all (fun f => event [1, 1, 2] (t { from_ := f }) (fun s => (s.launchOf 1).from_ == f))
     && event [1] sl (fun s =>
       let x := s.launchOf 1
       let q := s.standing 1
       let gets := fun k => (s.launchOf 2).fit ((s.freeMills 0).length + (s.coming 0).1 + k * x.crewSize)
         (s.part.budget + (s.coming 0).2 - s.committed 0 + k * x.crewSize * x.watts)
       !x.ended && q == [1, 0] && x.sliceEnd == some s.cycle && s.waiting 0 == [2] && x.prio ≤ (s.launchOf 2).prio
       && (s.launchOf 2).fit ((s.freeMills 0).length + (s.coming 0).1) (2 ^ 20) == 0 && 0 < gets 2 && gets 2 ≤ gets 1)
     && event [1] { sl with cycle := 69 } (fun s => (s.launchOf 1).sliceEnd == some 70 && s.cycle < 70)
     && event [0, 5] (st 0) (fun s => !(s.context 5).out.contains 0)
     && event [0, 5] { st 0 with contexts := [(5, { out := List.range 8 })] } (fun s => s.agenda.all (fun d => match d.what with | .event .vacate _ => false | _ => true) && (List.range 8).all (fun d => (s.context 5).out.contains d))
     && event [1] (sl.updDie 0 (fun d => { d with pool := [] })) (fun s => s.waiting 0 == [])) = true := by decide +kernel

/-- HostCommandEvents: a session with a command that is authentic, one that is not, and no session. -/
theorem test_meets_SessionCommands :
    (let s := { st 0 with sessions := [(7, 5)] }
     event [7, 3, gcmTag 5 3 0 0, 0, 0] s (fun t => t.sessions.lookup 7 == some 5 && gcmOpen 5 3 0 0 (gcmTag 5 3 0 0) == some 0)
     && event [7, 3, gcmTag 5 3 0 0 + 1, 0, 0] s (fun t => t.sessions.lookup 7 == some 5 && gcmOpen 5 3 0 0 (gcmTag 5 3 0 0 + 1) == none)
     && event [8, 3, 0, 0, 0] s (fun t => t.sessions.lookup 8 == none)
     && event [7, 1] s (fun t => Tab.wf {} t.launches && Tab.wf {} t.dies)) = true := by decide +kernel

/-- HostCommandEvents: commands of a context that names the launch and of one that does not; vacates. -/
theorem test_meets_HostCommandEvents :
    (let t := { st 0 with launches := [(0, { crews := [some [0], some [1]], charged := 1023 })] }
     [(2, 0, true), (0, 1, true), (4, 0, false), (2, 2, false)].all (fun p => event [0, 0, 9, 0, p.1, p.2.1] t (fun s =>
       let pick := if p.1 ≠ 0 then (s.standing 0).filter (fun q => p.1.testBit q) else (s.standing 0).take p.2.1
       s.names 0 0 0 && (decide (p.1 = 0 ↔ p.2.1 ≠ 0) && pick != []) == p.2.2))
     && event [0, 1, 9, 0, 2, 0] t (fun s => !s.names 0 1 0)
     && event [0, 0, 9, 0, 2] t (fun s => (s.slot 0).st.hasThread && 0 % 128 != 127 && s.ctxOfSlot 0 == 0)
     && event [0, 0, 9, 1, 2 ^ 24 - 1] t (fun s => s.arg.length == 5)
     && event [0, 0, 9, 0, 1, 2 ^ 32 - 1] t (fun s => s.names 0 0 0 && decide ((s.launchOf 0).charged < ((1024 * 1 : Nat) : Int)))
     && [false, true].all (fun b =>
       let x := (t.setLaunch 0 { t.launchOf 0 with spent := b, pending := false, record := BitVec.ofNat 512 (2 ^ 288), charged := 1024 }).launchOf 0
       !x.pending && !x.ended && x.mills != [] && fieldOf x.record 319 288 == 1 && x.spent == b && decide ((1024 : Int) ≤ x.charged))
     && event [0, 0, 9, 0, 2 ^ 32, 0] t (fun s => s.names 0 0 0)
     && event [0, 1] t (fun s => ((s.launchOf 0).crews[1]?).getD none == some [1] && !s.vacating 0 1)
     && event [0, 1, 1] { t with vacates := [(vacKey 0 1, {})] } (fun s => ((s.launchOf 0).crews[1]?).getD none == some [1] && s.vacating 0 1)) = true := by
  decide +kernel

/-- Restores: an image of one mill, whose pond has bytes; a running thread with nothing outstanding, and one that waits for chunks. -/
theorem test_meets_Restores :
    (let e : Entry := { uid := 12, form := .chk 3, acc := some { kind := .chk, slot := 17, uid := 12, addr := 64 } }
     let im : SaveImage := { launch := 1, slots := [[(0, { st := .running, pc := 8 }), (17, { st := .parked .marker, rb := [e] })]], pond := [[(5, 6)]], oldMills := [3] }
     let s := { crewed with saves := [(4, im)] }
     event [1, 0, 4] s (fun t => ((t.launchOf 1).crews[0]?).getD none == some [0] && Tab.wf {} t.mills && t.pond.wf
       && ((im.pond[0]?).getD []).all (fun kb => decide (kb.1 < 2 ^ 21)) && Memory.wf ((im.pond[0]?).getD []))
     && !e.landed && !e.claimed && e.acc.isSome && after (exec .restore { s with arg := [1, 0, 4] }) (fun t => t.saves == [])) = true := by
  decide +kernel

/-- PackageEvents: a flit of a reserved class, one out of order, one of another node and one that is accepted; each passes its check. -/
theorem test_meets_FabricFlits :
    ([(0, 5, 5), (0, 2, 6), (9, 2, 5), (0, 2, 5)].map fun p => ((mkFlit p.1 1 p.2.1 true 0 p.2.2 77).dst, (mkFlit p.1 1 p.2.1 true 0 p.2.2 77).cls,
        (mkFlit p.1 1 p.2.1 true 0 p.2.2 77).seq, (mkFlit p.1 1 p.2.1 true 0 p.2.2 77).checks))
      = [(0, 5, 5, true), (0, 2, 6, true), (9, 2, 5, true), (0, 2, 5, true)] := by
  simp only [List.map_cons, List.map_nil, mkFlit_checks, (mkFlit_fields _ _ _ _ _ _ _).1, (mkFlit_fields _ _ _ _ _ _ _).2.1,
    (mkFlit_fields _ _ _ _ _ _ _).2.2]

/-- PackageEvents: the port of those flits; a host's range; a window of this package. -/
theorem test_meets_PackageEvents :
    (event [2, 7, 77] { st 0 with ports_ := [(2, { recvSeq := 5 })] } (fun s => (tget {} s.ports_ 2 : Port).recvSeq == 5 && s.part.pkgix == 0)
    && (let t := { st 0 with contexts := [(255, { record := 1, opened := [(7, 128, 64)] })] }
        event [7, 191, 0, 0, 0, 9] t (fun s => s.ctxExists 255 && !Nat.testBit (191 / 64 * 64) 51
          && ((s.context 255).opened.any fun r => r.1 == 7 && decide (r.2.1 ≤ 191 / 64 * 64 ∧ 191 / 64 * 64 + 64 ≤ r.2.1 + r.2.2)))
        && event [8, 191, 0, 0, 0, 9] t (fun s => (List.range 256).all (fun c => !s.ctxExists c || (s.context c).opened.all (fun r => r.1 != 8)))
        && event [255, 8, 256, 64] t (fun s => s.ctxExists 255))
    && event [9] { (st 0).setReq 9 { pa := 2 ^ 51 } with fabric := [(2 ^ 51, 64, 0)] } (fun s =>
        (s.reqs.lookup 9).isSome && s.windowNode (s.req 9).pa == s.part.pkgix)
    && event [1, 200, (st 0).skyErr] (st 0) (fun s => s.skyErr == (st 0).skyErr)) = true := by decide +kernel

/-- A combine control request, queue 0 and slot 5 of the combine buffer. -/
def combining (r : CtlReq) (q : CQueue) (c : CSlot) : State := { ((st 0).setQueue 0 0 q).setCslot 0 5 c with controls := [(9, r)] }

/-- ControlAnswers: a free queue, one with slots and one of another context; a status of the generation and of another; each
fate of a deposit. -/
theorem test_meets_ControlAnswers :
    (let c : CSlot := { st := 1, used := true, experts := [3, 4], deposits := [(4, 7)], deadline := some 40 }
     let dep := fun (e : Nat) (c : CSlot) (now : Nat) (p : CSlot → Bool) =>
       event [9] { combining { kind := 3, r := [BitVec.ofNat 64 (5 + e * 2 ^ 16)] } {} c with cycle := now } (fun s =>
         (s.controls.lookup 9).isSome && p (s.cslot 0 5))
     let live := fun (c : CSlot) => c.st != 0 && c.gen == 0
     [{}, { order := [4] }, { ctx := some 1 }, { ctx := some 0 }].all (fun q => event [0, 9, 1] (combining { kind := 0, r := [0, 2, 3] } q {}) (fun s =>
       (s.control 9).kind == 0 && s.queue 0 0 == q))
     && [0, 1].all (fun g => event [0, 9, 1] (combining { kind := 2, r := [5] } {} { c with gen := g }) (fun s => (s.control 9).kind == 2 && (s.cslot 0 5).gen == g))
     && event [0, 9, 1] (combining { kind := 1, r := [0, 0, 0] } {} {}) (fun s => (s.control 9).kind == 1)
     && dep 3 { c with st := 0 } 39 (fun c => !live c) && dep 3 { c with gen := 1 } 39 (fun c => !live c)
     && dep 3 c 40 (fun c => live c && c.experts.contains 3 && !c.has 3 && c.deadline == some 40)
     && dep 5 c 39 (fun c => live c && !c.experts.contains 5) && dep 4 c 39 (fun c => live c && c.experts.contains 4 && c.has 4)
     && dep 3 c 39 (fun c => live c && c.experts.contains 3 && !c.has 3)) = true := by decide +kernel

/-- Combines: a deadline of the generation, of another, and of a slot that is not open; releases with lines to come, with none
left alone, and in order. -/
theorem test_meets_Combines :
    (let rel := fun (l : Nat) (rs : List Nat) => { combining {} { rels := rs } {} with rels := [(4, { die := 0, q := 0, left := l })] }
     [(1, 0, 0), (1, 0, 1), (1, 1, 0), (2, 0, 0)].all (fun p => event [0, 5, 0] (combining {} {} { st := p.1, gen := p.2.1, deadline := some p.2.2 }) (fun s =>
       (s.cslot 0 5).st == p.1 && (s.cslot 0 5).gen == p.2.1 && (s.cslot 0 5).deadline == some p.2.2 && s.cycle == 0))
     && event [5] (rel 1 [4, 5]) (fun s => (tget {} s.rels 4 : CRel).left != 0 && (s.queue 0 0).rels == [4, 5])
     && event [4] (rel 1 [4]) (fun s => (tget {} s.rels 4 : CRel).left - 1 == 0 && (s.queue 0 0).rels == [4])
     && event [0, 5] (rel 1 [4]) (fun s => s.arg.length == 2)) = true := by decide +kernel

/-- A graph of one node in memory, with its pages. -/
def graphed (op : Nat) : State := { st 0 with
  contexts := [(0, { record := BitVec.ofNat 512 (63 * 2 ^ 256 + 0x400000) })]
  llc := [(0, { tag := 0, data := BitVec.ofNat 512 (1 + 10 * 2 ^ 152) }), (1, { tag := 1 }), (2, { tag := 2, data := BitVec.ofNat 512 (op * 2 ^ 252) }),
    (0x10000, { tag := 0x10000, data := 0x800001 }), (0x20000, { tag := 0x20000, data := 0xF })] }
def aGraph (op : Nat) : Graph := match ((graphed op).readGraph 0 0).1 with | .inl g => g | .inr _ => {}

/-- GraphStarts: images that load, fault, and find no handle or no room. -/
theorem test_meets_GraphImages :
    (let g := fun (gs : Tab Graph) => (graphed 3).updDie 0 (fun d => { d with graphs := gs })
     let loads := fun (s : State) => match (s.readGraph 0 0).1 with | .inl x => x == aGraph 3 && x.room == 2 | .inr _ => false
     event [0, 5, 7, 1, 0, 0, 9] (g []) (fun s => loads s && (s.die 0).graphs == [])
     && event [0, 5, 7, 1, 0, 0, 9] (g [(0, { nodes := List.replicate 4096 0 })]) (fun s => loads s && (s.die 0).graphs.length == 1)
     && event [0, 5, 7, 1, 0, 0, 9] (g ((List.range 64).map (fun h => (h, {})))) (fun s => loads s && (List.range 64).all (fun h => (s.die 0).graphs.lookup h != none))
     && event [0, 5, 7, 1, 2 ^ 30, 0, 9] (g []) (fun s => match (s.readGraph 0 (2 ^ 30)).1 with | .inl _ => false | .inr _ => true)) = true := by
  decide +kernel

/-- A run of graph 1, with the first GiB as its pages. -/
def running (op : Nat) (r : Run) : State := ((graphed op).setGraph 0 1 (aGraph op)).setRun 2 r
def aRun : Run := { die := 0, handle := 1, slot := 0, bases := List.replicate 16 0, pages := [{ ctx := 0, base := 0, size := 2 ^ 30, leaf := 15 }] }

/-- GraphStarts: runs that wait for an access, of no graph, of a die that has 8, whose table faults, that are accepted, that wait
for their start, and that start. -/
theorem test_meets_GraphStarts :
    (let at_ := fun (s : State) (p : State → Bool) => event [2] s (fun s => (s.runs.lookup 2).isSome && p s)
     at_ ((running 3 { aRun with waits := [3] }).updMe (fun y => { y with open_ := [{ uid := 3, space := .glob, atomic := false, left := 1 }] })) (fun s =>
       (s.run 2).st == 0 && (s.slot (s.follow 0)).open_.any (fun p => p.uid == 3))
     && at_ (running 3 { aRun with handle := 9 }) (fun s => (s.run 2).waits == [] && ((s.die 0).graphs.lookup 9).isNone)
     && at_ { running 3 aRun with runs := (List.range 9).map (fun i => (i, { aRun with st := if i = 2 then 0 else 1 })) } (fun s =>
       8 ≤ (s.runs.filter (fun kr => kr.2.die == 0 && kr.2.st != 0)).length)
     && at_ (running 3 { aRun with table := 2 ^ 31 }) (fun s => match (s.runBases (s.run 2)).1 with | .inr _ => true | .inl _ => false)
     && at_ (running 3 aRun) (fun s => match (s.runBases (s.run 2)).1 with
       | .inl bs => (match s.runPages { s.run 2 with k := 0, bases := bs } (s.graph 0 1) with | .inl _ => true | .inr _ => false)
       | .inr _ => false)
     && at_ (running 3 { aRun with st := 1, at_ := some 1000 }) (fun s => (s.run 2).st == 1 && !(s.run 2).at_.all (fun t => decide (t ≤ s.skyNow)))
     && at_ (running 3 { aRun with st := 1 }) (fun s => (s.run 2).st == 1 && (s.run 2).at_.all (fun t => decide (t ≤ s.skyNow)))) = true := by
  decide +kernel

/-- NodesAndMerges: a node of each operation; a run's end with and without its launch. -/
theorem test_meets_Nodes :
    ([0, 1, 2, 3].all (fun op => event [2, 0] (((graphed 3).setGraph 0 1 { (aGraph 3) with nodes := [BitVec.ofNat 256 (op * 2 ^ 252)] }).setRun 2 { aRun with st := 2 }) (fun s =>
        let r := s.run 2
        let g := s.graph 0 1
        let n := g.node 0
        (s.runs.lookup 2).isSome && !r.done.contains 0 && !r.failed.contains 0 && GNode.op n == op && !(GNode.reads n && s.rangeBusy r (GNode.sbase n) (GNode.soff n) (g.count n * g.stride (GNode.sx n)))
        && !(GNode.writes n && s.rangeBusy r (GNode.dbase n) (GNode.doff n) (g.count n * g.stride (GNode.dx n)))))
    && event [2, 0] (running 3 { aRun with writing := [0] }) (fun s => (s.runs.lookup 2).isSome && (s.run 2).writing.contains 0
      && !(s.run 2).done.contains 0 && !(s.run 2).failed.contains 0)
    && event [2, 0] (running 3 { aRun with done := [0] }) (fun s => (s.run 2).done.contains 0)
    && event [2, 0] (running 3 { aRun with failed := [0] }) (fun s => (s.run 2).failed.contains 0)
    && event [2, 0] (running 3 { aRun with launch := 9 }) (fun s => (s.runs.lookup 2).isSome && s.launches.lookup 9 == none)
    && event [2, 3] { running 3 { aRun with launch := 1 } with launches := crewed.launches } (fun s => (s.launches.lookup 1).isSome)) = true := by
  decide +kernel

/-- NodesAndMerges: a merge with no group, with a rank that lacks, that has ended, and that is due; whether its switch fails is
a free value, so one of the two clauses on that is met. -/
theorem test_meets_Merges :
    (let g : Graph := { header := BitVec.ofNat 512 (1 + 2 ^ 96), ranks := [0, 0], nodes := [BitVec.ofNat 256 (2 ^ 251)] }
     let one := (st 0).setGraph 0 1 g
     let t := fun (m : Merge) => { one.setGraph 0 2 { g with header := g.header ||| BitVec.ofNat 512 (2 ^ 128) } with merges := [(6, m)] }
     event [6, 0, 1, 0] one (fun s => (s.merges.lookup 6).isNone)
     && [[6, 0, 2, 0], [6, 0, 2, 0, 1]].all (fun a => event a { (st 0).setGraph 0 2 { g with ranks := [0, 2 ^ 15] } with merges := [(6, {})] } (fun s =>
       (s.merges.lookup 6).isSome && s.groupOf (s.graph 0 2) ((s.graph 0 2).node 0) == none))
     && event [6, 0, 2, 0, 1] (t {}) (fun s => (s.merges.lookup 6).isSome)
     && [{}, { ranks := [1], st := 1 }, { ranks := [1] }].all (fun m => event [6, 0, 2, 0] (t m) (fun s =>
       s.groupOf (s.graph 0 2) ((s.graph 0 2).node 0) == some [1] && (tget {} s.merges 6 : Merge) == m))) = true
    ∧ (Config.switchFails (st 0).free = true ∨ Config.switchFails (st 0).free = false) := by
  refine ⟨by decide +kernel, ?_⟩
  cases Config.switchFails (st 0).free <;> simp


end Sys2Proof.Tests
end

section
/-! PROOFS. Folds, bits and fields of records, and the operands of an event. -/

namespace Sys2Proof.Machine

open Sys2Proof

/-- A fold whose every step leaves the state is the state. -/
theorem foldl_of_fixed {α β : Type} {f : α → β → α} {l : List β} (a : α) (h : ∀ a, ∀ b ∈ l, f a b = a) : l.foldl f a = a :=
  (List.foldl_ext f (fun a _ => a) a h).trans (List.foldl_fixed l)

theorem getLsbD_ofNat_two_pow_other {i j : Nat} (h : j ≠ i) : (BitVec.ofNat 8 (2 ^ i)).getLsbD j = false := by
  rw [BitVec.getLsbD_ofNat, Nat.testBit_two_pow_of_ne h.symm, Bool.and_false]

theorem bits_eq (x hi lo : Nat) : bits x hi lo = x / 2 ^ lo % 2 ^ (hi + 1 - lo) := by
  rw [bits, Nat.shiftRight_eq_div_pow]

theorem fieldOf_eq (r : Line) {hi lo n : Nat} (h : hi + 1 - lo = n) : fieldOf r hi lo = r.toNat / 2 ^ lo % 2 ^ n := by
  rw [fieldOf, bits_eq, h]

/-- The whole of a record that is not 0 is not 0. -/
theorem fieldOf_all_ne_zero {r : Line} (h : r ≠ 0) : fieldOf r 511 0 ≠ 0 := by
  have hall : fieldOf r 511 0 = r.toNat := by
    rw [fieldOf, bits, Nat.shiftRight_zero]
    exact r.toNat_mod_cancel
  rw [hall]
  exact fun e => h (BitVec.eq_of_toNat_eq (by simpa using e))

theorem State.arg_one {s : State} {a : Nat} {rest : List Nat} (ha : s.arg = a :: rest) : s.arg.headD 0 = a := by rw [ha]; rfl

theorem State.arg_two {s : State} {a b : Nat} {rest : List Nat} (ha : s.arg = a :: b :: rest) :
    s.arg.headD 0 = a ∧ s.arg.getD 1 0 = b := by rw [ha]; exact ⟨rfl, rfl⟩

end Sys2Proof.Machine
end

section
/-! PROOFS. The step, the turn and the issue of an instruction, one lemma each. -/

namespace Sys2Proof.Machine

open Sys2Proof

/-- An instruction that has a word is issued: the checks, the marker and the guard precede its own effect (R47). -/
theorem exec_eq_issue {i : Instr} {op fn : Nat} {x : Args} (hi : i.opFn = some (op, fn, x)) (s : State) :
    ∃ takes always body, exec i s = .next (s.issue op fn x takes always body) := by
  cases i <;> cases hi <;> exact ⟨_, _, _, rfl⟩

/-- Where the instruction begins, a meaning that takes no entry is its own effect. -/
theorem plain_begins {s r : State} {op fn : Nat} {x : Args} (body : State → State)
    (h : s.begins op fn x false false = some r) : plain op fn x s body = .next (body r) :=
  congrArg Host.Outcome.next (State.issue_begins body h)

/-- So is one that takes an entry. -/
theorem buffered_begins {s r : State} {op fn : Nat} {x : Args} (body : State → State)
    (h : s.begins op fn x true false = some r) : buffered op fn x s body = .next (body r) :=
  congrArg Host.Outcome.next (State.issue_begins body h)

theorem step_of_agenda {s : State} {d : Due} {rest : List Due} (hf : s.frozen = false) (ha : s.agenda = d :: rest) :
    step s = runDue d { s with agenda := rest, cycle := d.at_ } := by
  unfold step
  rw [if_neg (by simp [hf]), ha]

theorem runTurn_of_word {g : Nat} {s r : State} {w : BitVec 96} (hd : (s.slot g).due = some s.cycle)
    (ht : ({ s with cur := g } : State).turn = .word w r) : runTurn g s = issueWord w r := by
  unfold runTurn
  rw [if_pos (by simp [hd]), ht]

theorem issueWord_of_decode {w : BitVec 96} {i : Instr} (h : decode w = some i) (s : State) : issueWord w s = exec i s := by
  unfold issueWord
  rw [h]

end Sys2Proof.Machine
end

section
/-! PROOFS. Slots that hold a thread, and what going on and a register write leave alone. A slot that is not empty is not the default
slot, so that it is read back from any table of slots, in canonical form or not. -/

namespace Sys2Proof.Machine

open Sys2Proof

theorem Slot.ne_default_of_st {x : Slot} (h : x.st ≠ .empty) : x ≠ {} := fun e => h (by rw [e])

theorem State.slot_setSlot_busy (s : State) (g : Nat) {x : Slot} (h : x.st ≠ .empty) : (s.setSlot g x).slot g = x :=
  tget_tput_same' _ _ _ _ (Slot.ne_default_of_st h)

theorem State.slot_setSlot_busy_other (s : State) {g g' : Nat} {x : Slot} (h : x.st ≠ .empty) (hg : g' ≠ g) :
    (s.setSlot g x).slot g' = s.slot g' := by
  show tget {} (tput {} s.slots g x) g' = _
  rw [tput, if_neg (Slot.ne_default_of_st h)]
  exact tget_tins_other _ _ _ _ _ hg

theorem State.updMe_me (s : State) (f : Slot → Slot) (h : (f s.me).st ≠ .empty) : (s.updMe f).me = f s.me :=
  s.slot_setSlot_busy s.cur h

theorem State.updMe_slot_other (s : State) (f : Slot → Slot) {g : Nat} (h : (f s.me).st ≠ .empty) (hg : g ≠ s.cur) :
    (s.updMe f).slot g = s.slot g := s.slot_setSlot_busy_other h hg

theorem State.again_me {s : State} (h : s.me.st ≠ .empty) :
    (s.again s.cur).me = { s.me with due := some (issueAt s.cur (s.cycle + 1)) } := s.slot_setSlot_busy s.cur h

theorem State.again_slot_other {s : State} {g : Nat} (h : s.me.st ≠ .empty) (hg : g ≠ s.cur) :
    (s.again s.cur).slot g = s.slot g :=
  s.slot_setSlot_busy_other (x := { s.me with due := some (issueAt s.cur (s.cycle + 1)) }) h hg

/-- The slot of a thread that has gone on with its next instruction, but for its turn. -/
def Slot.goneOn (y : Slot) : Slot := { y with pc := y.pc + 1, st := .running }

theorem State.advance_eq (s : State) : s.advance = (s.updMe Slot.goneOn).again s.cur := rfl

theorem State.updMe_goneOn (s : State) : (s.updMe Slot.goneOn).me = s.me.goneOn :=
  s.updMe_me _ (by simp [Slot.goneOn])

theorem State.updMe_goneOn_busy (s : State) : (s.updMe Slot.goneOn).me.st ≠ .empty := by
  rw [s.updMe_goneOn]; simp [Slot.goneOn]

theorem State.advance_me (s : State) :
    s.advance.me = { s.me with pc := s.me.pc + 1, st := .running, due := some (issueAt s.cur (s.cycle + 1)) } := by
  calc s.advance.me = { (s.updMe Slot.goneOn).me with due := some (issueAt s.cur (s.cycle + 1)) } :=
        State.again_me s.updMe_goneOn_busy
    _ = _ := by rw [s.updMe_goneOn]; rfl

theorem State.advance_slot_other (s : State) {g : Nat} (hg : g ≠ s.cur) : s.advance.slot g = s.slot g := by
  calc s.advance.slot g = (s.updMe Slot.goneOn).slot g := State.again_slot_other s.updMe_goneOn_busy hg
    _ = s.slot g := s.updMe_slot_other _ (by simp [Slot.goneOn]) hg

@[simp] theorem Slot.setS_st (x : Slot) (i : Nat) (w : Word) : (x.setS i w).st = x.st := by unfold Slot.setS; split <;> rfl
@[simp] theorem Slot.setP_st (x : Slot) (i : Nat) (b : Bool) : (x.setP i b).st = x.st := by unfold Slot.setP; split <;> rfl
@[simp] theorem Slot.setK_st (x : Slot) (i : Nat) (w : Word) : (x.setK i w).st = x.st := by unfold Slot.setK; split <;> rfl

/-- The slot with the register that an operand names written. -/
def Slot.putReg (y : Slot) (a : Operand) (w : Word) : Slot :=
  match a with
  | .reg .p _ i => y.setP i.toNat (w != 0)
  | .reg .k _ i => y.setK i.toNat w
  | .reg _ _ i => y.setS i.toNat w
  | _ => y

@[simp] theorem Slot.putReg_st (y : Slot) (a : Operand) (w : Word) : (y.putReg a w).st = y.st := by
  unfold Slot.putReg; split <;> simp

theorem State.writeA_cases (s : State) (x : Args) (w : Word) :
    s.writeA x w = s.updMe (fun y => y.putReg x.a w) ∨ (s.writeA x w = s ∧ ∀ y : Slot, y.putReg x.a w = y) := by
  unfold State.writeA Slot.putReg
  cases x.a with
  | reg cls m i => cases cls <;> exact .inl rfl
  | _ => exact .inr ⟨rfl, fun _ => rfl⟩

theorem State.writeA_me {s : State} (x : Args) (w : Word) (h : s.me.st ≠ .empty) : (s.writeA x w).me = s.me.putReg x.a w := by
  rcases s.writeA_cases x w with e | ⟨e, hy⟩
  · rw [e]; exact s.updMe_me _ (by simpa using h)
  · rw [e, hy]

theorem State.writeA_slot_other {s : State} (x : Args) (w : Word) {g : Nat} (h : s.me.st ≠ .empty) (hg : g ≠ s.cur) :
    (s.writeA x w).slot g = s.slot g := by
  rcases s.writeA_cases x w with e | ⟨e, -⟩
  · rw [e]; exact s.updMe_slot_other (fun y => y.putReg x.a w) (by simpa using h) hg
  · rw [e]

/-! What a write of one register leaves of the others. -/

theorem Slot.setS_frame (x : Slot) (i : Nat) (w : Word) : x.setS i w = { x with s := (x.setS i w).s } := by
  unfold Slot.setS; split <;> rfl

theorem Slot.setP_frame (x : Slot) (i : Nat) (b : Bool) : x.setP i b = { x with p := (x.setP i b).p } := by
  unfold Slot.setP; split <;> rfl

theorem Slot.setK_frame (x : Slot) (i : Nat) (w : Word) : x.setK i w = { x with k := (x.setK i w).k } := by
  unfold Slot.setK; split <;> rfl

theorem Slot.setS_wf (x : Slot) (i : Nat) (w : Word) (h : Tab.wf 0 x.s = true) : Tab.wf 0 (x.setS i w).s = true := by
  unfold Slot.setS; split
  · exact h
  · exact Tab.wf_tput 0 x.s i w h

theorem Slot.setK_wf (x : Slot) (i : Nat) (w : Word) (h : Tab.wf 0 x.k = true) : Tab.wf 0 (x.setK i w).k = true := by
  unfold Slot.setK; split
  · exact h
  · exact Tab.wf_tput 0 x.k i w h

theorem Slot.kreg_setK_other (x : Slot) (i j : Nat) (w : Word) (h : j ≠ i) (hw : Tab.wf 0 x.k = true) :
    (x.setK i w).kreg j = x.kreg j := by
  unfold Slot.setK
  split
  · rfl
  · simp only [Slot.kreg, tget_tput_other 0 x.k i j w hw h]

theorem Slot.preg_setP_other (x : Slot) (i j : Nat) (b : Bool) (h : j ≠ i) (hj : j < 8) : (x.setP i b).preg j = x.preg j := by
  unfold Slot.setP
  split
  · rfl
  · cases b <;>
      simp only [Slot.preg, Bool.false_eq_true, if_false, if_true, BitVec.getLsbD_or, BitVec.getLsbD_and, BitVec.getLsbD_not,
        getLsbD_ofNat_two_pow_other h] <;> simp [hj]

theorem Slot.putReg_frame (y : Slot) (a : Operand) (w : Word) :
    y.putReg a w = { y with s := (y.putReg a w).s, p := (y.putReg a w).p, k := (y.putReg a w).k } := by
  unfold Slot.putReg
  split
  · rw [Slot.setP_frame]
  · rw [Slot.setK_frame]
  · rw [Slot.setS_frame]
  · rfl

theorem Slot.putReg_wf (y : Slot) (a : Operand) (w : Word) :
    (Tab.wf 0 y.s = true → Tab.wf 0 (y.putReg a w).s = true) ∧ (Tab.wf 0 y.k = true → Tab.wf 0 (y.putReg a w).k = true) := by
  unfold Slot.putReg
  split
  · rw [Slot.setP_frame]; exact ⟨id, id⟩
  · exact ⟨by rw [Slot.setK_frame]; exact id, y.setK_wf _ w⟩
  · exact ⟨y.setS_wf _ w, by rw [Slot.setS_frame]; exact id⟩
  · exact ⟨id, id⟩

/-- A write of a scalar register leaves the predicates, the lane masks and every other scalar register. -/
theorem Slot.putReg_s (y : Slot) (m : BitVec 7) (k : BitVec 12) (w : Word) :
    (y.putReg (.reg .s m k) w).p = y.p ∧ (y.putReg (.reg .s m k) w).k = y.k
    ∧ ∀ j, j ≠ k.toNat → Tab.wf 0 y.s = true → (y.putReg (.reg .s m k) w).sreg j = y.sreg j := by
  have frame : y.putReg (.reg .s m k) w = _ := y.setS_frame k.toNat w
  exact ⟨by rw [frame], by rw [frame], fun j hj hwf => y.sreg_setS_other _ j w hj hwf⟩

/-- So does one of a predicate. -/
theorem Slot.putReg_p (y : Slot) (m : BitVec 7) (k : BitVec 12) (w : Word) :
    (y.putReg (.reg .p m k) w).s = y.s ∧ (y.putReg (.reg .p m k) w).k = y.k
    ∧ ∀ j, j < 8 → j ≠ k.toNat → (y.putReg (.reg .p m k) w).preg j = y.preg j := by
  have frame : y.putReg (.reg .p m k) w = _ := y.setP_frame k.toNat (w != 0)
  exact ⟨by rw [frame], by rw [frame], fun j hj8 hj => y.preg_setP_other _ j _ hj hj8⟩

/-- And one of a lane mask. -/
theorem Slot.putReg_k (y : Slot) (m : BitVec 7) (k : BitVec 12) (w : Word) :
    (y.putReg (.reg .k m k) w).s = y.s ∧ (y.putReg (.reg .k m k) w).p = y.p
    ∧ ∀ j, j ≠ k.toNat → Tab.wf 0 y.k = true → (y.putReg (.reg .k m k) w).kreg j = y.kreg j := by
  have frame : y.putReg (.reg .k m k) w = _ := y.setK_frame k.toNat w
  exact ⟨by rw [frame], by rw [frame], fun j hj hwf => y.kreg_setK_other _ j w hj hwf⟩

/-- A register instruction that begins is one register write, and the thread goes on (R78 to R84, R91): of all instructions, only
those of the six OPs are left, and the body of each has that form. -/
theorem exec_register {i : Instr} {op fn : Nat} {x : Args} {s r : State} (hi : i.opFn = some (op, fn, x))
    (hop : op ∈ [0x10, 0x11, 0x12, 0x13, 0x18, 0x28]) (hb : s.begins op fn x false false = some r) :
    ∃ w, exec i s = .next ((r.writeA x w).advance) := by
  cases i <;> cases hi <;> simp at hop
  all_goals exact ⟨_, plain_begins _ hb⟩

end Sys2Proof.Machine
end

section
/-! PROOFS. Privilege and the control registers (R29, R144, R364, R365). -/

namespace Sys2Proof.Machine

open Sys2Proof

/-- The CSRs that are confined to a supervisor slot, by number (R144, R364). -/
theorem csrAccess_privileged_iff (n : Nat) :
    (csrAccess n = .priv ∨ csrAccess n = .privReadOnly) ↔ n ∈ [0x50, 0x51, 0x200, 0x201] := by
  simp only [List.mem_cons, List.not_mem_nil, or_false]
  constructor
  · intro h
    unfold csrAccess at h
    split_ifs at h <;> simp_all
    omega
  · rintro (rfl | rfl | rfl | rfl) <;> decide

theorem isPrivileged_csr_iff (fn : Nat) (x : Args) : isPrivileged 1 fn x = true ↔ csrOperand fn x ∈ [0x50, 0x51, 0x200, 0x201] := by
  rw [← csrAccess_privileged_iff]
  simp [isPrivileged]

theorem isPrivileged_of_op {op : Nat} (h : op = 2 ∨ op = 3 ∨ op = 4) (fn : Nat) (x : Args) : isPrivileged op fn x = true := by
  rcases h with rfl | rfl | rfl <;> rfl

theorem State.millLaunch_of_none {s : State} {g : Nat} (h : (s.mill (millOf g)).launch = none) : s.millLaunch g = none := by
  rw [State.millLaunch, h]; rfl

theorem State.millLaunch_of_some {s : State} {g l : Nat} (h : (s.mill (millOf g)).launch = some l) :
    s.millLaunch g = some (s.launchOf l) := by
  rw [State.millLaunch, h]; rfl

theorem State.csrWrite_waitbud_of_some {s : State} {l : Nat} (w : Word) (h : (s.mill (millOf s.cur)).launch = some l) :
    s.csrWrite 0x50 w = (s.setLaunch l { s.launchOf l with
      charged := (fieldOf (s.launchOf l).record 319 288 * 1024 : Nat) - (w.toNat * 1024 : Nat), spent := false }).checkBudget l := by
  simp [State.csrWrite, h]

theorem State.csrWrite_tslice_of_some {s : State} {l : Nat} (w : Word) (h : (s.mill (millOf s.cur)).launch = some l) :
    s.csrWrite 0x51 w = (s.setLaunch l { s.launchOf l with sliceEnd := some (s.cycle + w.toNat * 1024) }).post
      (s.cycle + w.toNat * 1024) 0 2 .sliceExpiry [l] := by
  simp [State.csrWrite, h]

/-- Without a launch on the mill, WAITBUD and TSLICE take no write and read 0. -/
theorem State.csr_budget_of_none {s : State} (h : (s.mill (millOf s.cur)).launch = none) :
    (∀ w, s.csrWrite 0x50 w = s ∧ s.csrWrite 0x51 w = s) ∧ s.csrRead 0x50 = 0 ∧ s.csrRead 0x51 = 0 := by
  refine ⟨fun w => ?_, ?_⟩
  · simp [State.csrWrite, h]
  · simp [State.csrRead, State.millLaunch_of_none h]

theorem State.csrRead_budget_of_some {s : State} {l : Nat} (h : (s.mill (millOf s.cur)).launch = some l) :
    s.csrRead 0x50 = BitVec.ofNat 64
      ((((s.launchOf l).record.toNat / 2 ^ 288 % 2 ^ 32 * 1024 : Nat) - (s.launchOf l).charged).toNat / 1024)
    ∧ s.csrRead 0x51 = (match (s.launchOf l).sliceEnd with | some e => BitVec.ofNat 64 ((e - s.cycle) / 1024) | none => 0) := by
  have hl := State.millLaunch_of_some h
  constructor
  · have hwait : fieldOf (s.launchOf l).record 319 288 = _ := fieldOf_eq _ rfl
    rw [← hwait]
    simp [State.csrRead, hl]
  · cases he : (s.launchOf l).sliceEnd <;> simp [State.csrRead, hl, he]

theorem State.csrRead_extset (s : State) : s.csrRead 0x18 = if s.cur / 16 % 8 < 4 then 1 else 0 := by
  by_cases h : s.cur / 16 % 8 < 4 <;> simp [State.csrRead, hasG, coreIx, h]

theorem State.csrRead_featAcc (s : State) {n : Nat} (hn : n < 4) : s.csrRead (0x100 + n) = BitVec.ofNat 64
    ((s.context (s.launchOf s.me.launch).ctx).record.toNat / 2 ^ (256 + 64 * n) % 2 ^ 64) := by
  have hacc : (s.context (s.launchOf s.me.launch).ctx).featAcc n = _ := fieldOf_eq _ (n := 64) (by omega)
  rw [← hacc]
  obtain rfl | rfl | rfl | rfl : n = 0 ∨ n = 1 ∨ n = 2 ∨ n = 3 := by omega
  all_goals rfl

theorem Slot.latepend_of_none {x : Slot} (h : x.late = none) : x.latepend = 0 := by
  rw [Slot.latepend, h]

theorem Slot.latepend_of_some {x : Slot} {c q : Nat} (h : x.late = some (c, q)) :
    x.latepend = BitVec.ofNat 64 (2 ^ 63 + c * 2 ^ 32 + q) := by
  rw [Slot.latepend, h]

end Sys2Proof.Machine
end

section
/-! PROOFS. Marker: what it writes, and how it ends (R14, R19). -/

namespace Sys2Proof.Machine

open Sys2Proof

/-- What a marker that finds every entry landed writes (R14, R19): the entries without a fault leave the return buffer, in issue order; each
writes its registers and flags, ends its place in the ring, and ends the loan of the job it received. -/
def State.markerWrites (s : State) : State :=
  let good := s.me.rb.filter (fun e => e.fault.isNone)
  let y := good.foldl Slot.writeEntry { s.me with rb := s.me.rb.filter (fun e => e.fault.isSome) }
  let z := good.foldl (fun (y : Slot) e => match e.seq with | some q => y.ringDone q e.flags | none => y) y
  good.foldl (fun (t : State) e => match e.job with | some j => t.endLoan j | none => t) (s.setMe z)

/-- No entry that a marker writes raises a flag whose trap is enabled (R206). -/
def State.noLateTrap (s : State) : Prop :=
  ∀ e ∈ s.me.rb, ∀ q, e.fault = none → e.seq = some q → s.me.traps e.flags = false

/-- The late FPX of an entry that slot `x` at `g` writes, where its flags meet an enabled trap (R206, R223). -/
def State.lateTrap (x : Slot) (g : Nat) (u : State) (e : Entry) : State :=
  match e.seq with
  | some q =>
    if x.traps e.flags then
      (u.updMe (fun y => { y with lateDue := u.cycle + 24 })).post (u.cycle + 24) 8 g .lateFault [g, fcFpx, q, e.flags, x.thread, u.ctxOfSlot g]
    else u
  | none => u

/-- The report of the earliest faulted entry, in the state that a marker's writes leave (R19). -/
def State.reportEntry (u : State) (g : Nat) (e : Entry) : State :=
  let f := e.fault.getD (0, 0)
  let m := trapMsg g (u.ctxOfSlot g) f.1 1 e.ix f.2 0 0 false
  (u.updMe (fun t => { t with st := .stopped f.1, due := none, trapped := some m })).reportFault g (u.cycle + 8) m

theorem State.reportEntry_of_fault {u : State} {g code va : Nat} {e : Entry} (hf : e.fault = some (code, va)) :
    u.reportEntry g e =
      let m := trapMsg g (u.ctxOfSlot g) code 1 e.ix va 0 0 false
      (u.updMe (fun t => { t with st := .stopped code, due := none, trapped := some m })).reportFault g (u.cycle + 8) m := by
  rw [State.reportEntry, hf]
  rfl

/-- How a marker ends: done, or with the report of the earliest of the faulted entries. -/
def Marked.ofFaulted (u : State) (g : Nat) : List Entry → Marked
  | [] => .done u
  | e :: _ => .faulted (u.reportEntry g e)

theorem State.marker_eq (s : State) (h : s.me.rb.any (fun e => !e.landed) = false) :
    s.marker = Marked.ofFaulted ((s.me.rb.filter (fun e => e.fault.isNone)).foldl (State.lateTrap s.me s.cur) s.markerWrites) s.cur
      (s.me.rb.filter (fun e => e.fault.isSome)) := by
  unfold State.marker
  rw [if_neg (by simp [h])]
  rfl

theorem State.marker_of_landed {s : State} (hl : ∀ e ∈ s.me.rb, e.landed = true) (ht : s.noLateTrap) :
    s.marker = Marked.ofFaulted s.markerWrites s.cur (s.me.rb.filter (fun e => e.fault.isSome)) := by
  rw [State.marker_eq s (by simpa using hl), foldl_of_fixed]
  intro u e he
  obtain ⟨he, hf⟩ := List.mem_filter.mp he
  unfold State.lateTrap
  split
  · rename_i q hq
    rw [ht e he q (by simpa using hf) hq]
    rfl
  · rfl

theorem State.stopContext_frame (s : State) (die ctx : Nat) : (s.stopContext die ctx).slots = s.slots ∧ (s.stopContext die ctx).cur = s.cur := by
  unfold State.stopContext
  split <;> exact ⟨rfl, rfl⟩

theorem State.checkBudget_frame (s : State) (l : Nat) : (s.checkBudget l).slots = s.slots ∧ (s.checkBudget l).cur = s.cur := by
  unfold State.checkBudget
  dsimp only
  split
  · exact State.stopContext_frame _ _ _
  · exact ⟨rfl, rfl⟩

/-- A charge to a waiting budget touches no slot. -/
theorem State.chargeWait_frame (s : State) (g : Nat) : (s.chargeWait g).slots = s.slots ∧ (s.chargeWait g).cur = s.cur := by
  unfold State.chargeWait
  refine List.foldlRecOn (motive := fun t : State => t.slots = s.slots ∧ t.cur = s.cur) _ _ ⟨rfl, rfl⟩ ?_
  intro t ⟨hs, hc⟩ kl _
  dsimp only
  split
  · obtain ⟨hs', hc'⟩ := (t.setLaunch kl.1 { kl.2 with charged := kl.2.charged + 1 }).checkBudget_frame kl.1
    exact ⟨hs'.trans hs, hc'.trans hc⟩
  · exact ⟨hs, hc⟩

theorem State.chargeWait_me (s : State) (g : Nat) : (s.chargeWait g).me = s.me := by
  obtain ⟨hs, hc⟩ := s.chargeWait_frame g
  rw [State.me, State.slot, hs, hc]
  rfl

theorem State.marker_of_waiting {s : State} (h : ∃ e ∈ s.me.rb, e.landed = false) :
    ∃ t, s.marker = .parked t ∧ t.me = (s.park s.cur .marker).me := by
  have hany : s.me.rb.any (fun e => !e.landed) = true := by simpa using h
  unfold State.marker
  dsimp only
  rw [if_pos hany]
  refine ⟨_, rfl, ?_⟩
  split
  · exact State.chargeWait_me _ _
  · rfl

/-- Entries of no coprocessor instruction and of no job write their registers and flags and nothing else. -/
theorem State.markerWrites_of_plain {s : State} (h : ∀ e ∈ s.me.rb, e.fault = none ∧ e.seq = none ∧ e.job = none) :
    s.markerWrites = s.setMe (s.me.rb.foldl Slot.writeEntry { s.me with rb := [] }) := by
  have hgood : s.me.rb.filter (fun e => e.fault.isNone) = s.me.rb :=
    List.filter_eq_self.mpr (fun e he => by simp [(h e he).1])
  have hbad : s.me.rb.filter (fun e => e.fault.isSome) = [] :=
    List.filter_eq_nil_iff.mpr (fun e he => by simp [(h e he).1])
  unfold State.markerWrites
  rw [hgood, hbad]
  dsimp only
  rw [foldl_of_fixed _ (fun t e he => by rw [(h e he).2.2]), foldl_of_fixed _ (fun y e he => by rw [(h e he).2.1])]

end Sys2Proof.Machine
end

section
/-! PROOFS. Barriers and fences (R33 to R35, R314 to R316). -/

namespace Sys2Proof.Machine

open Sys2Proof

/-- The number of the barrier that the operands of the running thread name (R33). -/
def State.barKeyOf (s : State) (x : Args) : Nat :=
  barKey (s.launchOfSlot s.cur).id x.b.immInt.toNat x.c.immInt.toNat (s.unitAt s.cur x.b.immInt.toNat)

/-- That barrier as an arrival finds it: a new one takes its launch, level, id and unit. -/
def State.barOf (s : State) (x : Args) : Barrier :=
  let b := s.barrier (s.barKeyOf x)
  if b.count == 0 && b.gen == 0 && b.completed == 0 then
    { b with launch := (s.launchOfSlot s.cur).id, level := x.b.immInt.toNat, id := x.c.immInt.toNat, unit_ := s.unitAt s.cur x.b.immInt.toNat }
  else b

/-- Operands that name a barrier of the thread's launch: a level above LANE and CORE, an id of the level, a count that is not 0 (R33). -/
def State.namesBarrier (s : State) (x : Args) : Prop :=
  2 ≤ x.b.immInt.toNat ∧ x.b.immInt.toNat ≤ 7 ∧ 0 ≤ x.c.immInt ∧ x.c.immInt.toNat < barIds x.b.immInt.toNat
  ∧ ((s.launchOfSlot s.cur).counts[barBase x.b.immInt.toNat + x.c.immInt.toNat]?).getD 0 ≠ 0

theorem barCheck_of_names {op fn : Nat} {x : Args} {s : State} (go : Nat → Barrier → State → State) (h : s.namesBarrier x) :
    barCheck op fn x go s = go (s.barKeyOf x) (s.barOf x) s := by
  obtain ⟨h1, h2, h3, h4, h5⟩ := h
  unfold barCheck
  dsimp only
  rw [if_neg]
  · rfl
  · simp only [Bool.or_eq_true, decide_eq_true_eq, beq_iff_eq, not_or]
    exact ⟨⟨⟨⟨by omega, by omega⟩, by omega⟩, by omega⟩, h5⟩

theorem barCheck_of_not_names {op fn : Nat} {x : Args} {s : State} (go : Nat → Barrier → State → State) (h : ¬ s.namesBarrier x) :
    barCheck op fn x go s = s.raise fcIllop (illopDetail (encWord op fn x)) := by
  unfold barCheck
  dsimp only
  rw [if_pos]
  simp only [Bool.or_eq_true, decide_eq_true_eq, beq_iff_eq]
  unfold State.namesBarrier at h
  by_contra hc
  simp only [not_or] at hc
  obtain ⟨⟨⟨⟨h1, h2⟩, h3⟩, h4⟩, h5⟩ := hc
  exact h ⟨by omega, by omega, by omega, by omega, h5⟩

/-- The state in which an arrival of the running thread at its barrier is recorded (R35, R315). -/
def State.arrived (s : State) (x : Args) : State :=
  let t := s.setBarrier (s.barKeyOf x) (s.barOf x)
  ({ t with uid := t.uid + 1, arrivals := tput {} t.arrivals t.uid { key := s.barKeyOf x, waits := t.me.awaitedByBar } } : State).updMe
    (fun y => { y with gens := tput 0 y.gens (s.barKeyOf x) (2 * t.uid + 1) })

theorem barBody_of_names {x : Args} {s : State} (h : s.namesBarrier x) :
    barBody x s = if s.me.awaitedByBar = [] then
      ((s.arrived x).post (if (s.arrived x).me.lastPerf = 0 then (s.arrived x).cycle else (s.arrived x).me.lastPerf + 16) 3 700
        .barrierArrival [s.cur, s.uid]).advance
      else (s.arrived x).advance := by
  rw [barBody, barCheck_of_names _ h]
  simp only [List.isEmpty_iff, beq_iff_eq, apply_ite State.advance]
  rfl

/-- The state in which `recv.bar` has taken its entry, for the generation of the thread's latest arrival (R314). -/
def State.awaitsBar (s : State) (x : Args) : State :=
  ({ s with uid := s.uid + 1 } : State).takeEntry
    { uid := s.uid, form := .bar (s.barKeyOf x) (tget 0 s.me.gens (s.barKeyOf x)), writes := regS x }

theorem recvBarBody_of_names {x : Args} {s : State} (h : s.namesBarrier x) :
    recvBarBody x s =
      if tget 0 s.me.gens (s.barKeyOf x) = 0
          ∨ (tget 0 s.me.gens (s.barKeyOf x) % 2 = 0 ∧ tget 0 s.me.gens (s.barKeyOf x) < 2 * (s.barOf x).completed + 2) then
        (((s.awaitsBar x).updEntry s.cur s.uid (fun e => { e.orVal 0 (BitVec.ofNat 2048 (s.barOf x).completed) with claimed := true })).landAt
          s.cur s.uid (s.cycle + 8)).advance
      else (s.awaitsBar x).advance := by
  rw [recvBarBody, barCheck_of_names _ h]
  simp only [Bool.or_eq_true, Bool.and_eq_true, decide_eq_true_eq, beq_iff_eq, apply_ite State.advance]
  rfl

end Sys2Proof.Machine
end

section
/-! PROOFS. G instructions: their issue on a core with G and on any other (R71, R424, R425). -/

namespace Sys2Proof.Machine

open Sys2Proof

/-- A G instruction that begins on a core with G is its own effect, as a vector instruction's is (R424, R425). -/
theorem gIssue_with_g {fn : Nat} {x : Args} {f : Args → State → GResult} {s r : State} (hg : s.cur / 16 % 8 < 4)
    (hb : s.begins 0xD0 fn x false false = some r) : gIssue fn x f s = .next (gBody fn x f r) := by
  have hG : hasG s.cur = true := decide_eq_true hg
  unfold gIssue
  rw [hG]
  exact congrArg Host.Outcome.next (State.issue_begins _ hb)

/-- One that begins on any other core migrates (R20, R71). -/
theorem gIssue_without_g {fn : Nat} {x : Args} {f : Args → State → GResult} {s r : State} (hg : 4 ≤ s.cur / 16 % 8)
    (hb : s.begins 0xD0 fn x false true = some r) : gIssue fn x f s = .next (gMigrate r) := by
  have hG : hasG s.cur = false := decide_eq_false (Nat.not_lt.mpr hg)
  unfold gIssue
  rw [hG]
  exact congrArg Host.Outcome.next (State.issue_begins _ hb)

/-- The parked thread keeps the cycle until which late faults may arrive, so that cycle m is that of its issue (R71). -/
theorem gMigrate_eq (s : State) : gMigrate s =
    (s.updMe (fun y => { y with st := .parked .migration, due := none, parkedAt := s.cycle })).post
      (if s.me.lateDue = 0 then s.cycle else max s.cycle (s.me.lateDue + 1)) 3 (s.cur % 128) .migrationStart [s.cur] := by
  have hme := s.updMe_me (fun y => { y with st := .parked .migration, due := none, parkedAt := s.cycle }) (by simp)
  unfold gMigrate
  dsimp only
  rw [hme]
  simp only [beq_iff_eq]
  rfl

theorem gBody_of_no_fault {fn : Nat} {x : Args} {f : Args → State → GResult} {s : State}
    (h : (f x (s.enterRing 0xD0 fn).2).late = none) :
    gBody fn x f s = ((s.enterRing 0xD0 fn).2.updMe (f x (s.enterRing 0xD0 fn).2).write).finishVector s.me.copseq.toNat
      (f x (s.enterRing 0xD0 fn).2).fl := by
  unfold gBody
  dsimp only
  rw [h]
  rfl

theorem gBody_of_fault {fn code : Nat} {x : Args} {f : Args → State → GResult} {s : State}
    (h : (f x (s.enterRing 0xD0 fn).2).late = some code) :
    gBody fn x f s = (((s.enterRing 0xD0 fn).2.updMe (fun z => ((f x (s.enterRing 0xD0 fn).2).write z).ringDone s.me.copseq.toNat 0)).lateIn24
      code s.me.copseq.toNat (if code = 0x01 then (encWord 0xD0 fn x).toNat / 2 ^ 32 else 0)).advance := by
  unfold gBody
  dsimp only
  rw [h]
  simp only [beq_iff_eq]
  rfl

end Sys2Proof.Machine
end

section
/-! PROOFS. Events of the millrace, of messages and of barriers, one lemma each. -/

namespace Sys2Proof.Machine

open Sys2Proof

/-! Flits. -/

theorem flitHop_injects {s : State} {u k : Nat} (ha : s.arg = [u, k]) (hne : (s.packet u).src ≠ (s.packet u).dst)
    (hf : (s.packet u).flits = []) :
    let p := s.packet u
    let t := s.setPacket u { p with flits := (List.range p.len).map (fun j => (j, (⟨p.src, 0, 0, s.cycle + j, none⟩ : Flit))) }
    execFlitHop s = .next ((t.setFifo (fifoKey p.die p.src 0 p.lane) (t.fifoOf (fifoKey p.die p.src 0 p.lane) ++ [u])).postHop u 0 s.cycle) := by
  obtain ⟨hu, hk⟩ := State.arg_two ha
  unfold execFlitHop
  rw [hu, hk]
  dsimp only
  rw [if_neg (by simp [ha]), if_neg (by simpa using hne), if_pos (by simp [hf])]
  rfl

theorem flitHop_hops {s : State} {u k : Nat} (ha : s.arg = [u, k]) (hne : (s.packet u).src ≠ (s.packet u).dst)
    (hf : (s.packet u).flits ≠ []) :
    let p := s.packet u
    let f : Flit := tget ⟨p.dst, 0, 0, 0, none⟩ p.flits k
    execFlitHop s = .next (if s.cycle < f.ready ∧ f.port ≠ 0 then s.postHop u k f.ready
      else if f.stop = p.dst then ejectFlit u k p f s else moveFlit u k p f s) := by
  obtain ⟨hu, hk⟩ := State.arg_two ha
  unfold execFlitHop
  rw [hu, hk]
  dsimp only
  rw [if_neg (by simp [ha]), if_neg (by simpa using hne), if_neg (by simpa using hf)]
  simp only [Bool.and_eq_true, decide_eq_true_eq, bne_iff_ne, beq_iff_eq]

theorem flitHop_takes {s : State} {u k old : Nat} (ha : s.arg = [u, k, old]) : execFlitHop s = .next (takeSlot u k old s) := by
  obtain ⟨hu, hk⟩ := State.arg_two ha
  have hold : s.arg.getD 2 0 = old := by rw [ha]; rfl
  unfold execFlitHop
  rw [hu, hk, hold]
  exact if_pos (by simp [ha])

/-! Crew accesses. -/

/-- Of a lane held as the earliest so far and another one, the one whose turn begins first; the first of two at once. -/
def earlierLane (time : Nat → Nat) (b : Option (Nat × Nat)) (c : Nat) : Option (Nat × Nat) :=
  match b with
  | some (t, _) => if time c < t then some (time c, c) else b
  | none => some (time c, c)

theorem foldl_earlierLane_keeps {time : Nat → Nat} {c : Nat} (l : List Nat) (h : ∀ k ∈ l, k ≠ c → time c < time k) :
    l.foldl (earlierLane time) (some (time c, c)) = some (time c, c) := by
  induction l with
  | nil => rfl
  | cons k l ih =>
    have hk : ¬ time k < time c := by
      by_cases hkc : k = c
      · rw [hkc]; omega
      · have := h k (by simp) hkc; omega
    rw [List.foldl_cons, earlierLane, if_neg hk]
    exact ih (fun j hj => h j (by simp [hj]))

/-- Among lanes of which one's turn begins before every other's, the fold finds that one. -/
theorem foldl_earlierLane {time : Nat → Nat} {c : Nat} (l : List Nat) (b : Option (Nat × Nat)) (hc : c ∈ l)
    (h : ∀ k ∈ l, k ≠ c → time c < time k) (hb : ∀ t k, b = some (t, k) → time c < t) :
    l.foldl (earlierLane time) b = some (time c, c) := by
  induction l generalizing b with
  | nil => simp at hc
  | cons k l ih =>
    have hl : ∀ j ∈ l, j ≠ c → time c < time j := fun j hj => h j (by simp [hj])
    rw [List.foldl_cons]
    by_cases hkc : k = c
    · have hstep : earlierLane time b k = some (time c, c) := by
        rw [hkc]
        unfold earlierLane
        split
        · rename_i t j
          rw [if_pos (hb t j rfl)]
        · rfl
      rw [hstep]
      exact foldl_earlierLane_keeps l hl
    · refine ih _ ((List.mem_cons.mp hc).resolve_left (Ne.symm hkc)) hl ?_
      intro t j hstep
      have hk := h k (by simp) hkc
      unfold earlierLane at hstep
      split at hstep
      · rename_i t' j'
        split at hstep
        · cases hstep; exact hk
        · exact hb t j hstep
      · cases hstep; exact hk

theorem crewAccessArrive_enters {s : State} {u c : Nat} {a : Access} {stop : Nat} (ha : s.arg = [u])
    (hp : (s.packet u).payload = .crewReq a stop) (hc : c < 4) :
    let mill := s.millAt (s.packet u).die stop
    let b := { a with addr := a.addr % 2 ^ 21, elems := a.elems.map (fun e => { e with addr := e.addr % 2 ^ 21 }) }
    let time := fun k => (s.mill mill).faces k (offGroup (a.addr % 2 ^ 21)) s.cycle
    (s.cluster (mill * 4 + c)).retired = false →
    (∀ k, k < 4 → k ≠ c → (s.cluster (mill * 4 + k)).retired = false → time c < time k) →
    (s.port (portY (mill * 4 + c) 6)).length + b.words.length ≤ 16 → s.parksAccess mill b = false → s.crewBefore (s.packet u) a stop = false →
    (∀ kp ∈ s.ports, kp.1 / 64 = mill → kp.1 ≠ portY (mill * 4 + c) 6 → ∀ q ∈ kp.2, q.packet ≠ none →
      s.follow q.acc.slot = s.follow a.slot → ∀ w ∈ (if q.block then q.acc.places else [q.off / 64]), b.places.contains w = false) →
    execCrewAccessArrive s = .next ((s.dropPacket u).enqueuePond b (portY (mill * 4 + c) 6) s.cycle (some u)) := by
  intro mill b time hlive hfirst hroom hpark hbefore hbehind
  have hbest : ((List.range 4).filter (fun k => !(s.cluster (mill * 4 + k)).retired)).foldl (earlierLane time) none = some (time c, c) := by
    refine foldl_earlierLane _ none (by simp [hc, hlive]) ?_ (by simp)
    intro k hk hkc
    simp only [List.mem_filter, List.mem_range, Bool.not_eq_true'] at hk
    exact hfirst k hk.1 hkc hk.2
  unfold execCrewAccessArrive
  simp only [ha, List.headD_cons, hp, hbefore, Bool.false_eq_true, if_false]
  generalize hx : List.foldl _ (none : Option (Nat × Nat)) _ = best
  obtain rfl : best = some (time c, c) := hx.symm.trans hbest
  refine if_neg ?_
  simp only [Bool.or_eq_true, decide_eq_true_eq, List.any_eq_true, Bool.and_eq_true, beq_iff_eq, bne_iff_ne, ne_eq]
  rintro ((hfull | hparks) | ⟨kp, hkp, ⟨hmill, hport⟩, q, hq, ⟨hpacket, hthread⟩, w, hw, hshared⟩)
  · exact absurd hroom (Nat.not_le.mpr hfull)
  · exact absurd (hparks.symm.trans hpark) (by decide)
  · have hapart := hbehind kp hkp hmill hport q hq (Option.isSome_iff_ne_none.mp hpacket) hthread w hw
    exact absurd (hshared.symm.trans hapart) (by decide)

/-! Messages. -/

/-- The delivery of a message that is still under way goes on by its destination. -/
theorem messageDelivery_of_sent {s : State} {u : Nat} {rest : List Nat} (ha : s.arg = u :: rest) (hs : (s.sents.lookup u).isSome = true) :
    s.arg.headD 0 = u ∧ (s.sents.lookup u).isNone = false :=
  ⟨State.arg_one ha, Option.isNone_eq_false_iff.mpr hs⟩


theorem messageDelivery_slot {s t : State} {u g : Nat} {rest : List Nat} (ha : s.arg = u :: rest) (hs : (s.sents.lookup u).isSome = true)
    (hd : (s.sent u).dest = .slot g) (hlost : s.noticeLost g (s.sent u) = false)
    (h3 : (s.sent u).msg.kind ≠ 3) (h9 : (s.sent u).msg.kind ≠ 9)
    (hsaved : (s.sent u).thread = 0 ∨ s.savedSlots.lookup (s.sent u).thread = none) (hok : s.deliverSlot g u (s.sent u).msg = .ok t) :
    let d := s.destStop (.slot g)
    execMessageDelivery s = .next ((t.replyStatus (s.sent u) d.1 d.2.1 d.2.2 0).delSent u) := by
  have hsave : ((s.sent u).thread != 0 && (s.savedSlots.lookup (s.sent u).thread).isSome) = false := by
    rcases hsaved with h | h <;> simp [h]
  obtain ⟨hu, hn⟩ := messageDelivery_of_sent ha hs
  unfold execMessageDelivery
  simp only [hu, hn, hd, Bool.false_eq_true, if_false]
  simp [hlost, h3, h9, hsave, hok]

theorem foldl_entries (l : List Sent) (n : Nat) : l.foldl (fun n y => n + y.msg.entries) n = n + (l.map (fun y => y.msg.entries)).sum := by
  induction l generalizing n with
  | nil => rfl
  | cons y l ih => rw [List.foldl_cons, ih, List.map_cons, List.sum_cons, Nat.add_assoc]

theorem messageDelivery_dispatcher_busy {s : State} {u die ctx : Nat} {rest : List Nat} (ha : s.arg = u :: rest)
    (hs : (s.sents.lookup u).isSome = true) (hd : (s.sent u).dest = .dispatcher die ctx) (hrec : (s.context ctx).record ≠ 0)
    (hat : tget 0 (s.die die).boxAt ctx = s.cycle + 1) :
    execMessageDelivery s = .next (s.post (s.cycle + 1) 1 50 .messageDelivery [u]) := by
  obtain ⟨hu, hn⟩ := messageDelivery_of_sent ha hs
  unfold execMessageDelivery
  simp only [hu, hn, hd, Bool.false_eq_true, if_false]
  simp [fieldOf_all_ne_zero hrec, hat]

theorem messageDelivery_dispatcher_enters {s : State} {u die ctx : Nat} {rest : List Nat} (ha : s.arg = u :: rest)
    (hs : (s.sents.lookup u).isSome = true) (hd : (s.sent u).dest = .dispatcher die ctx) (hrec : (s.context ctx).record ≠ 0)
    (hat : tget 0 (s.die die).boxAt ctx ≠ s.cycle + 1) :
    let box := tget [] (s.die die).boxes ctx
    (s.sent u).msg.kind ≠ 10 ∨ ((box ++ [s.sent u]).map (fun y => y.msg.entries)).sum ≤ 8 →
    execMessageDelivery s = .next ((s.updDie die (fun y => { y with
      boxes := tput [] y.boxes ctx (box ++ [s.sent u]), boxAt := tput 0 y.boxAt ctx (s.cycle + 1) })).post
      s.cycle 3 850 .launchRecord [die, ctx, u]) := by
  intro box hroom
  have hfits : ¬ ((s.sent u).msg.kind = 10 ∧ 8 < box.foldl (fun n y => n + y.msg.entries) (s.sent u).msg.entries) := by
    rw [foldl_entries]
    simp only [List.map_append, List.sum_append, List.map_cons, List.map_nil, List.sum_cons, List.sum_nil] at hroom
    omega
  obtain ⟨hu, hn⟩ := messageDelivery_of_sent ha hs
  unfold execMessageDelivery
  simp only [hu, hn, hd, Bool.false_eq_true, if_false]
  rw [if_neg (by simp [hat]), if_neg]
  · rfl
  · simpa [fieldOf_all_ne_zero hrec] using hfits

theorem sendStatus_replies {s : State} {u v : Nat} (ha : s.arg = [0, u, v]) :
    let d := s.destStop (s.sent u).dest
    execSendStatus s = .next (s.replyStatus (s.sent u) d.1 d.2.1 d.2.2 v) := by
  obtain ⟨hform, hu⟩ := State.arg_two ha
  have hv : s.arg.getD 2 0 = v := by rw [ha]; rfl
  unfold execSendStatus
  rw [hform, hu, hv]
  rfl

theorem heldMessageRetry_delivers {s t : State} {g u : Nat} {rest : List Nat} (ha : s.arg = [g]) (hheld : tget [] s.heldMsgs g = u :: rest)
    (hlost : s.noticeLost g (s.sent u) = false) (hok : s.deliverSlot g u (s.sent u).msg = .ok t) :
    execHeldMessageRetry s = .next ((t.retryHeld g).delSent u) := by
  unfold execHeldMessageRetry
  simp [ha, hheld, hlost, hok]

theorem dispenserHandout_hands {s t : State} {c : Nat} {rest : List Item} (ha : s.arg = [c]) (hm : (s.mill (c / 4)).stopping = false)
    (hr : (s.cluster c).retired = false) (hh : ∀ t, (s.cluster c).handed = some t → t < s.cycle)
    (hp : s.placeOldest c (s.cluster c).disp = some (t, rest)) :
    let v := t.updCluster c (fun k => { k with disp := rest, handed := some s.cycle })
    execDispenserHandout s = .next (if rest = [] then v else v.post (s.cycle + 1) 3 900 .dispenserHandout [c]) := by
  have hfree : (s.cluster c).handed.any (fun t => decide (s.cycle ≤ t)) = false := by
    cases e : (s.cluster c).handed with
    | none => rfl
    | some k => simpa using hh k e
  unfold execDispenserHandout
  simp [ha, hm, hr, hfree, hp]

theorem tlbiComplete_done {s : State} {g : Nat} {l : List Nat} (ha : s.arg = g :: l) (ho : stillOpen s l = []) :
    execTlbiComplete s = .next (s.sendAt s.cycle { msg := { hdr := unitHdr 2 5 (g / 32768) 0xFFF0 0 }, dest := .slot g }) := by
  unfold execTlbiComplete
  simp [ha, ho, dieOf]

theorem tlbiComplete_waits {s : State} {g : Nat} {l : List Nat} (ha : s.arg = g :: l) (ho : stillOpen s l ≠ []) :
    execTlbiComplete s = .next (s.post (s.cycle + 1) 3 750 .tlbiComplete (g :: stillOpen s l)) := by
  unfold execTlbiComplete
  simp [ha]

theorem barDelay_eq (level : Nat) : barDelay level =
    if level = 2 then 8 else if level = 3 then 12 else if level = 4 then 16 else if level = 5 then 48 else 432 := by
  unfold barDelay
  split <;> simp_all

theorem barrierArrival_eq {s : State} {g a : Nat} (ha : s.arg = [g, a]) :
    let r : Arrival := tget {} s.arrivals a
    let b := s.barrier r.key
    let t := { s with arrivals := tdel s.arrivals a }.updSlot (s.follow g) (fun x => x.resolveGen r.key a b.gen)
    let need := ((s.launchOf b.launch).counts[barBase b.level + b.id]?).getD 0
    execBarrierArrival s = .next (if b.count + 1 < need then t.setBarrier r.key { b with count := b.count + 1 }
      else (t.setBarrier r.key { b with count := 0, gen := b.gen + 1 }).post (s.cycle + barDelay b.level) 3 710 .barrierComplete [r.key]) := by
  intro r b t need
  obtain ⟨hg, hn⟩ := State.arg_two ha
  rw [apply_ite Host.Outcome.next]
  unfold execBarrierArrival
  rw [hg, hn]
  rfl

theorem barrierComplete_eq {s : State} {k : Nat} (ha : s.arg = [k]) :
    let b := s.barrier k
    let t := s.setBarrier k { b with completed := b.completed + 1, doneAt := s.cycle }
    execBarrierComplete s = .next (t.slots.foldl (fun s kx => s.landBar kx.1 k (b.completed + 1)) t) := by
  unfold execBarrierComplete
  rw [State.arg_one ha]

end Sys2Proof.Machine
end

section
/-! PROOFS. The obligations of cores, slots and the hierarchy. -/

open Sys2Proof Sys2Proof.Machine

/-- Settles O49: such an instruction is one register write and going on, and each of the two leaves what its own lemma says. -/
theorem registerInstructionFrame : Obligations.RegisterInstructionFrame := by
  intro i op fn x s r t hi hop hb hst ht
  obtain ⟨w, he⟩ := exec_register hi hop hb
  obtain rfl : (r.writeA x w).advance = t := Host.Outcome.next.inj (he.symm.trans ht)
  have hcur : (r.writeA x w).cur = r.cur := by rw [State.writeA_shape]
  have hcyc : (r.writeA x w).cycle = r.cycle := by rw [State.writeA_shape]
  have hme : (r.writeA x w).advance.me =
      { r.me.putReg x.a w with pc := (r.me.putReg x.a w).pc + 1, st := .running, due := some (issueAt r.cur (r.cycle + 1)) } := by
    rw [State.advance_me, State.writeA_me x w hst, hcur, hcyc]
  refine ⟨?_, ?_, ?_, ?_, ?_, ?_, ?_⟩
  · rw [State.advance_shape, State.writeA_shape]
  · intro g hg
    rw [State.advance_slot_other _ (by rwa [hcur]), State.writeA_slot_other x w hst hg]
  · rw [hme, Slot.putReg_frame]
  · intro m k ha
    rw [hme, ha]
    exact r.me.putReg_s m k w
  · intro m k ha
    rw [hme, ha]
    exact r.me.putReg_p m k w
  · intro m k ha
    rw [hme, ha]
    exact r.me.putReg_k m k w
  · rw [hme]
    exact r.me.putReg_wf x.a w

/-- Settles O1, by the lemmas of the step, the turn and the word. -/
theorem stepRunsDecodedInstruction : Obligations.StepRunsDecodedInstruction := by
  intro s s' d rest g w i hf ha hw hd ht hi
  rw [step_of_agenda hf ha, runDue, hw]
  exact (runTurn_of_word hd ht).trans (issueWord_of_decode hi s')

/-- Settles O2. -/
theorem stepRunsDueEvent : Obligations.StepRunsDueEvent := by
  intro s d rest i a hf ha hw
  rw [step_of_agenda hf ha, runDue, hw]

/-- Settles O7: every instruction is issued, and the issue takes check 3 of R47; the CSRs by their numbers. -/
theorem privilegedNeedsSupervisor : Obligations.PrivilegedNeedsSupervisor := by
  refine ⟨?_, ?_, ?_, ?_⟩
  · intro i op fn x s hi hfeat hfmt hpriv hcur
    obtain ⟨takes, always, body, e⟩ := exec_eq_issue hi s
    exact ⟨_, e.trans (congrArg Host.Outcome.next (State.issue_priv body hfeat hfmt hpriv (by simpa [isSupervisor] using hcur)))⟩
  · intro x op fn h
    refine isPrivileged_of_op ?_ fn x
    simp only [List.mem_cons, Prod.mk.injEq, List.not_mem_nil, or_false] at h
    omega
  · intro x fn n h
    have hn : csrOperand fn x = n := by
      simp only [List.mem_cons, Prod.mk.injEq, List.not_mem_nil, or_false] at h
      rcases h with ⟨rfl, rfl⟩ | ⟨rfl, rfl⟩ | ⟨rfl, rfl⟩ <;> rfl
    rw [isPrivileged_csr_iff, hn]
  · intro x op fn h
    simp only [List.mem_cons, List.not_mem_nil, or_false, not_or] at h
    simp [isPrivileged, h]

/-- Settles O9: without a late trap a marker ends with its writes and the earliest faulted entry. -/
theorem markerWritesEntries : Obligations.MarkerWritesEntries := by
  refine ⟨?_, fun s h => State.marker_of_waiting h, ?_⟩
  · intro s _ h
    have hl : ∀ e ∈ s.me.rb, e.landed = true := fun e he => (h e he).1
    have hplain : ∀ e ∈ s.me.rb, e.fault = none ∧ e.seq = none ∧ e.job = none := fun e he => (h e he).2
    have ht : s.noLateTrap := fun e he q _ hq => by simp [(hplain e he).2.1] at hq
    have hbad : s.me.rb.filter (fun e => e.fault.isSome) = [] :=
      List.filter_eq_nil_iff.mpr (fun e he => by simp [(hplain e he).1])
    refine ⟨_, ?_, State.markerWrites_of_plain hplain⟩
    rw [State.marker_of_landed hl ht, hbad]
    rfl
  · intro s hl ht
    have hm := State.marker_of_landed hl ht
    refine ⟨fun hbad => hm.trans (congrArg _ hbad), ?_⟩
    intro e rest code va hbad hf
    exact hm.trans ((congrArg _ hbad).trans (congrArg Marked.faulted (State.reportEntry_of_fault hf)))

/-- Settles O10. -/
theorem issueCycles : Obligations.IssueCycles := by
  intro g t
  simp only [issueAt, nextAt, slotIx]
  omega

/-- Settles O20. -/
theorem exitNopTrap : Obligations.ExitNopTrap := by
  intro x s r
  refine ⟨plain_begins _, plain_begins _, plain_begins _, ?_⟩
  intro m ha hb
  have hn : r.opVal x.a - 1 = BitVec.allOnes 64 := by rw [ha]; rfl
  have hz : x.a.idx = 0 := by rw [ha]; rfl
  refine ⟨(plain_begins (dbrBody x) hb).trans ?_, fun y => y.setS_zero _⟩
  simp only [dbrBody, hn, hz]
  rfl

/-- csrr, csrw and csrx, and what a write of each writable CSR sets. -/
theorem csrAccess_holds : Claims.CsrAccess := by
  refine ⟨fun x s r => ⟨plain_begins _, plain_begins _, plain_begins _⟩, ?_⟩
  intro r w
  refine ⟨rfl, rfl, ?_, rfl, ?_, ?_⟩
  · have hsel : bits w.toNat 58 56 = w.toNat / 2 ^ 56 % 8 := bits_eq _ _ _
    rw [← hsel]
    rfl
  · intro h
    exact (State.csr_budget_of_none h).1 w
  · intro l h
    dsimp only
    rw [State.csrWrite_waitbud_of_some w h, State.csrWrite_tslice_of_some w h, fieldOf_eq _ rfl, Nat.mul_comm w.toNat 1024]
    exact ⟨rfl, rfl⟩

/-- What each CSR reads. -/
theorem csrValues_hold : Claims.CsrValues := by
  intro r
  dsimp only
  -- a CSR that reads a field of the state is that field by its number; those that take more follow
  refine ⟨rfl, rfl, rfl, ?_, ?_, rfl, rfl, ?_, ?_, rfl, rfl, rfl, ?_, ?_, rfl, rfl, rfl, rfl, rfl, rfl, rfl, ?_, rfl, rfl, rfl, rfl, ?_, ?_, rfl⟩
  · exact congrArg (BitVec.ofNat 64) (fieldOf_eq _ rfl)
  · exact congrArg (BitVec.ofNat 64) (fieldOf_eq _ rfl)
  · exact congrArg (BitVec.ofNat 64) (fieldOf_eq _ rfl)
  · intro n hn
    exact State.csrRead_featAcc r hn
  · intro h
    exact (State.csr_budget_of_none h).2
  · intro k h
    exact State.csrRead_budget_of_some h
  · exact r.csrRead_extset
  · exact Slot.latepend_of_none
  · exact fun c q => Slot.latepend_of_some

/-- Settles O21. -/
theorem csrs : Obligations.Csrs := ⟨csrAccess_holds, csrValues_hold⟩

/-- What `bar` and `recv.bar` do where their operands name a barrier. -/
theorem barriers_hold : Claims.Barriers := by
  intro x s r
  dsimp only
  intro h1 h2 h3 h4 h5
  have hn : r.namesBarrier x := ⟨h1, h2, h3, h4, h5⟩
  exact ⟨fun hb => (plain_begins (barBody x) hb).trans (congrArg Host.Outcome.next (barBody_of_names hn)),
    fun hb => (buffered_begins (recvBarBody x) hb).trans (congrArg Host.Outcome.next (recvBarBody_of_names hn))⟩

/-- ILLOP where they name none, and fence. -/
theorem barrierFaultsAndFences_hold : Claims.BarrierFaultsAndFences := by
  constructor
  · intro x s r p hp hb
    dsimp only
    intro hbad
    have hn : ¬ r.namesBarrier x := by
      rintro ⟨h1, h2, h3, h4, h5⟩
      omega
    simp only [List.mem_cons, List.not_mem_nil, or_false] at hp
    rcases hp with rfl | rfl
    · exact (plain_begins (barBody x) hb).trans (congrArg Host.Outcome.next (barCheck_of_not_names _ hn))
    · exact (buffered_begins (recvBarBody x) hb).trans (congrArg Host.Outcome.next (barCheck_of_not_names _ hn))
  · intro x s r hb
    exact plain_begins (fenceBody x) hb

/-- Settles O38. -/
theorem barriersAndFences : Obligations.BarriersAndFences := ⟨barriers_hold, barrierFaultsAndFences_hold⟩

/-- Settles O45. -/
theorem gInstructions : Obligations.GInstructions := by
  intro x s r p hp
  have he : exec p.1 s = gIssue p.2.1 x p.2.2 s := by
    simp only [List.mem_cons, List.not_mem_nil, or_false] at hp
    rcases hp with rfl | rfl | rfl | rfl | rfl <;> rfl
  rw [he]
  refine ⟨fun hg hb => (gIssue_with_g hg hb).trans (congrArg Host.Outcome.next ?_),
    fun hg hb => (gIssue_without_g hg hb).trans (congrArg Host.Outcome.next (gMigrate_eq r))⟩
  split
  · rename_i hlate
    exact gBody_of_no_fault hlate
  · rename_i code hlate
    exact gBody_of_fault hlate

/-- Settles O53, one lemma for each event. -/
theorem networkAndMessageEvents : Obligations.NetworkAndMessageEvents := by
  refine ⟨?_, ?_, fun s u k old ha => flitHop_takes ha, ?_, ?_, ?_, ?_, ?_, ?_, ?_, ?_, ?_⟩
  · intro s g u ha
    refine ⟨?_, ?_⟩
    · show execResultLands s = _
      simp only [execResultLands, ha]
    · obtain ⟨hg, hu⟩ := State.arg_two ha
      show execCrewResponse s = _
      rw [execCrewResponse, hg, hu]
  · exact fun s u k ha hne => ⟨flitHop_injects ha hne, flitHop_hops ha hne⟩
  · exact fun s u c a stop ha hp hc => crewAccessArrive_enters ha hp hc
  · exact fun s t u g rest ha hs hd hlost h3 h9 hsaved hok => messageDelivery_slot ha hs hd hlost h3 h9 hsaved hok
  · exact fun s u die ctx rest ha hs hd hrec =>
      ⟨messageDelivery_dispatcher_busy ha hs hd hrec, messageDelivery_dispatcher_enters ha hs hd hrec⟩
  · exact fun s t g u rest ha hheld hlost hok => heldMessageRetry_delivers ha hheld hlost hok
  · exact fun s u v ha => sendStatus_replies ha
  · exact fun s t c rest ha hm hr hh hp => dispenserHandout_hands ha hm hr hh hp
  · exact fun s g l ha => ⟨tlbiComplete_done ha, tlbiComplete_waits ha⟩
  · intro s g a ha
    dsimp only
    rw [← barDelay_eq]
    exact barrierArrival_eq ha
  · exact fun s k ha => barrierComplete_eq ha

end

section
/-! PROOFS. Instruction words: what a field, the operands and a word encode and name (R36, R41, R42, R66). -/

namespace Sys2Proof

/-! Fields. -/

@[simp] theorem Cls.ofCode_code (cls : Cls) : Cls.ofCode cls.code = some cls := by cases cls <;> rfl

theorem Cls.code_ofCode {n : Nat} {cls : Cls} (h : Cls.ofCode n = some cls) : cls.code = n := by
  revert h
  fun_cases Cls.ofCode n <;> rintro ⟨⟩ <;> rfl

theorem Cls.code_lt (cls : Cls) : cls.code < 6 := by cases cls <;> decide

theorem Operand.enc_lt (o : Operand) : o.enc < 2 ^ 24 := by
  cases o with
  | reg cls m i => have := cls.code_lt; have := m.isLt; have := i.isLt; simp only [Operand.enc]; omega
  | imm v => have := v.isLt; simp only [Operand.enc]; omega
  | limm v => have := v.isLt; simp only [Operand.enc]; omega
  | none m => have := m.isLt; simp only [Operand.enc]; omega

theorem ofNat_of_eq_toNat {w n : Nat} {v : BitVec w} (h : n = v.toNat) : BitVec.ofNat w n = v := by
  rw [h, BitVec.ofNat_toNat, BitVec.setWidth_eq]

/-! The four kinds of a field (R41). -/

theorem Operand.dec_reg {n : Nat} (h : n / 4194304 % 4 = 0) :
    Operand.dec n = (Cls.ofCode (n / 524288 % 8)).map
      (fun cls => .reg cls (BitVec.ofNat 7 (n / 4096 % 128)) (BitVec.ofNat 12 (n % 4096))) := by
  simp [Operand.dec, h]

theorem Operand.dec_imm {n : Nat} (h : n / 4194304 % 4 = 1) : Operand.dec n = some (.imm (BitVec.ofNat 22 (n % 4194304))) := by
  simp [Operand.dec, h]

theorem Operand.dec_limm {n : Nat} (h : n / 4194304 % 4 = 2) : Operand.dec n = some (.limm (BitVec.ofNat 22 (n % 4194304))) := by
  simp [Operand.dec, h]

theorem Operand.dec_none {n : Nat} (h : n / 4194304 % 4 = 3) :
    Operand.dec n = if n / 524288 % 8 = 0 ∧ n % 4096 = 0 then some (.none (BitVec.ofNat 7 (n / 4096 % 128))) else .none := by
  simp [Operand.dec, h]

/-- A field names the operand it was made of. -/
@[simp] theorem Operand.dec_enc (o : Operand) : Operand.dec o.enc = some o := by
  cases o with
  | reg cls m i =>
    have hcls := cls.code_lt
    have hm := m.isLt
    have hi := i.isLt
    have e : (Operand.reg cls m i).enc = cls.code * 524288 + m.toNat * 4096 + i.toNat := rfl
    have hcode : (Operand.reg cls m i).enc / 524288 % 8 = cls.code := by omega
    rw [Operand.dec_reg (by omega), hcode, Cls.ofCode_code, Option.map_some, ofNat_of_eq_toNat (v := m) (by omega),
      ofNat_of_eq_toNat (v := i) (by omega)]
  | imm v =>
    have hv := v.isLt
    have e : (Operand.imm v).enc = 4194304 + v.toNat := rfl
    rw [Operand.dec_imm (by omega), ofNat_of_eq_toNat (v := v) (by omega)]
  | limm v =>
    have hv := v.isLt
    have e : (Operand.limm v).enc = 8388608 + v.toNat := rfl
    rw [Operand.dec_limm (by omega), ofNat_of_eq_toNat (v := v) (by omega)]
  | none m =>
    have hm := m.isLt
    have e : (Operand.none m).enc = 12582912 + m.toNat * 4096 := rfl
    rw [Operand.dec_none (by omega), if_pos (by omega), ofNat_of_eq_toNat (v := m) (by omega)]

/-- 24 bits that name an operand are that operand's. -/
theorem Operand.enc_of_dec {n : Nat} {o : Operand} (hn : n < 2 ^ 24) (h : Operand.dec n = some o) : o.enc = n := by
  obtain hk | hk | hk | hk : n / 4194304 % 4 = 0 ∨ n / 4194304 % 4 = 1 ∨ n / 4194304 % 4 = 2 ∨ n / 4194304 % 4 = 3 := by omega
  · rw [Operand.dec_reg hk] at h
    obtain ⟨cls, hcls, rfl⟩ := Option.map_eq_some_iff.mp h
    simp only [Operand.enc, Cls.code_ofCode hcls, BitVec.toNat_ofNat]
    omega
  · rw [Operand.dec_imm hk] at h
    cases h
    simp only [Operand.enc, BitVec.toNat_ofNat]
    omega
  · rw [Operand.dec_limm hk] at h
    cases h
    simp only [Operand.enc, BitVec.toNat_ofNat]
    omega
  · rw [Operand.dec_none hk] at h
    obtain ⟨⟨h1, h2⟩, h⟩ := Option.ite_none_right_eq_some.mp h
    cases h
    simp only [Operand.enc, BitVec.toNat_ofNat]
    omega

theorem ite_one_eq_toNat (b : Bool) : (if b then 1 else 0) = b.toNat := by cases b <;> rfl

theorem toNat_mod_two_beq_one (n : Nat) : (n % 2 == 1).toNat = n % 2 := by
  rcases Nat.mod_two_eq_zero_or_one n with h | h <;> rw [h] <;> rfl

theorem beq_one_of_eq_toNat {n : Nat} {b : Bool} (h : n = b.toNat) : (n == 1) = b := by
  rw [h]; cases b <;> rfl

/-- The layout of the 82 bits below FN (R36). -/
theorem Args.enc_eq (x : Args) : x.enc = x.neg.toNat * 2 ^ 81 + x.g.toNat * 2 ^ 78 + x.j.toNat * 2 ^ 77 + x.d.toNat * 2 ^ 76
    + x.bud.toNat * 2 ^ 72 + x.a.enc * 2 ^ 48 + x.b.enc * 2 ^ 24 + x.c.enc := by
  simp only [Args.enc, ite_one_eq_toNat]

/-- Each part of a word below FN fits its bits. -/
theorem Args.fields_lt (x : Args) : x.neg.toNat < 2 ∧ x.g.toNat < 8 ∧ x.j.toNat < 2 ∧ x.d.toNat < 2 ∧ x.bud.toNat < 16
    ∧ x.a.enc < 2 ^ 24 ∧ x.b.enc < 2 ^ 24 ∧ x.c.enc < 2 ^ 24 :=
  ⟨x.neg.toNat_lt, x.g.isLt, x.j.toNat_lt, x.d.toNat_lt, x.bud.isLt, x.a.enc_lt, x.b.enc_lt, x.c.enc_lt⟩

theorem Args.enc_lt (x : Args) : x.enc < 2 ^ 82 := by
  obtain ⟨hneg, hg, hj, hd, hbud, ha, hb, hc⟩ := x.fields_lt
  rw [x.enc_eq]
  omega

/-- No bit of the operands is lost. -/
@[simp] theorem Args.dec_enc (x : Args) : Args.dec x.enc = some x := by
  obtain ⟨hneg, hg, hj, hd, hbud, ha, hb, hc⟩ := x.fields_lt
  have e := x.enc_eq
  have ea : x.enc / 2 ^ 48 % 2 ^ 24 = x.a.enc := by omega
  have eb : x.enc / 2 ^ 24 % 2 ^ 24 = x.b.enc := by omega
  have ec : x.enc % 2 ^ 24 = x.c.enc := by omega
  rw [Args.dec, ea, eb, ec, Operand.dec_enc, Operand.dec_enc, Operand.dec_enc]
  simp only [beq_one_of_eq_toNat (b := x.neg) (n := x.enc / 2 ^ 81 % 2) (by omega),
    beq_one_of_eq_toNat (b := x.j) (n := x.enc / 2 ^ 77 % 2) (by omega),
    beq_one_of_eq_toNat (b := x.d) (n := x.enc / 2 ^ 76 % 2) (by omega),
    ofNat_of_eq_toNat (v := x.g) (n := x.enc / 2 ^ 78 % 8) (by omega),
    ofNat_of_eq_toNat (v := x.bud) (n := x.enc / 2 ^ 72 % 16) (by omega)]

/-- What 82 bits that name operands say of each part. -/
theorem Args.of_dec {n : Nat} {x : Args} (h : Args.dec n = some x) :
    Operand.dec (n / 2 ^ 48 % 2 ^ 24) = some x.a ∧ Operand.dec (n / 2 ^ 24 % 2 ^ 24) = some x.b ∧ Operand.dec (n % 2 ^ 24) = some x.c
    ∧ x.neg.toNat = n / 2 ^ 81 % 2 ∧ x.g.toNat = n / 2 ^ 78 % 8 ∧ x.j.toNat = n / 2 ^ 77 % 2 ∧ x.d.toNat = n / 2 ^ 76 % 2
    ∧ x.bud.toNat = n / 2 ^ 72 % 16 := by
  unfold Args.dec at h
  split at h
  · rename_i a b c ha hb hc
    cases h
    refine ⟨ha, hb, hc, toNat_mod_two_beq_one _, ?_, toNat_mod_two_beq_one _, toNat_mod_two_beq_one _, ?_⟩
    · rw [BitVec.toNat_ofNat]; omega
    · rw [BitVec.toNat_ofNat]; omega
  · cases h

/-- 82 bits are the sum of their fields. -/
theorem eq_sum_of_fields {n : Nat} (hn : n < 2 ^ 82) : n / 2 ^ 81 % 2 * 2 ^ 81 + n / 2 ^ 78 % 8 * 2 ^ 78 + n / 2 ^ 77 % 2 * 2 ^ 77
    + n / 2 ^ 76 % 2 * 2 ^ 76 + n / 2 ^ 72 % 16 * 2 ^ 72 + n / 2 ^ 48 % 2 ^ 24 * 2 ^ 48 + n / 2 ^ 24 % 2 ^ 24 * 2 ^ 24 + n % 2 ^ 24 = n := by
  omega

/-- 82 bits that name operands are those operands'. -/
theorem Args.enc_of_dec {n : Nat} {x : Args} (hn : n < 2 ^ 82) (h : Args.dec n = some x) : x.enc = n := by
  obtain ⟨ha, hb, hc, hneg, hg, hj, hd, hbud⟩ := Args.of_dec h
  rw [x.enc_eq, Operand.enc_of_dec (by omega) ha, Operand.enc_of_dec (by omega) hb, Operand.enc_of_dec (by omega) hc,
    hneg, hg, hj, hd, hbud, eq_sum_of_fields hn]

/-! OP and FN (R36, R66). -/

/-- The pair of R66 and the operands determine the instruction, and it names them. -/
theorem Instr.opFn_of_instrOf {op fn : Nat} {x : Args} {i : Instr} (h : instrOf op fn x = some i) :
    i.opFn = some (op, fn, x) := by
  revert h
  fun_cases instrOf op fn x <;> rintro ⟨⟩
  all_goals try split -- the `.g` forms, told by F (R304)
  all_goals rfl

theorem Instr.opFn_lt {i : Instr} {op fn : Nat} {x : Args} (h : i.opFn = some (op, fn, x)) : op < 0xE0 ∧ fn < 64 := by
  cases i <;> cases h <;> decide

/-- Whether R66 assigns a pair does not depend on the operands. -/
theorem assigned_of_instrOf {op fn : Nat} {x : Args} {i : Instr} (h : instrOf op fn x = some i) : assigned op fn = true := by
  revert h
  fun_cases instrOf op fn x <;> rintro ⟨⟩ <;> rfl

theorem lt_of_assigned {op fn : Nat} (h : assigned op fn = true) : op < 0xE0 := by
  obtain ⟨i, hi⟩ := Option.isSome_iff_exists.mp h
  exact (Instr.opFn_lt (Instr.opFn_of_instrOf hi)).1

theorem encWord_toNat {op fn : Nat} (x : Args) (ho : op < 256) (hf : fn < 64) :
    (encWord op fn x).toNat = op * 2 ^ 88 + fn * 2 ^ 82 + x.enc := by
  have hx := x.enc_lt
  rw [encWord, BitVec.toNat_ofNat]
  omega

/-- A word is the OP, the FN and the operands that it names. -/
theorem encWord_of_dec {w : BitVec 96} {x : Args} (h : Args.dec (w.toNat % 2 ^ 82) = some x) : encWord (opOf w) (fnOf w) x = w := by
  have hw := w.isLt
  apply BitVec.eq_of_toNat_eq
  rw [encWord_toNat x (by unfold opOf; omega) (by unfold fnOf; omega), Args.enc_of_dec (by omega) h]
  unfold opOf fnOf
  omega

/-! Words and instructions. -/

theorem encode_of_opFn {i : Instr} {op fn : Nat} {x : Args} (h : i.opFn = some (op, fn, x)) : encode i = some (encWord op fn x) := by
  unfold encode
  split
  · cases h
  · rw [h]; rfl

theorem decode_of_unassigned {w : BitVec 96} (h : assigned (opOf w) (fnOf w) = false) : decode w = some (.unassignedOpcode w) := by
  rw [decode, if_neg (by simp [h])]

/-- A word of an assigned pair decodes where its fields name operands of a sound format. -/
theorem decode_eq_some_iff {w : BitVec 96} {i : Instr} (h : assigned (opOf w) (fnOf w) = true) : decode w = some i ↔
    ∃ x, Args.dec (w.toNat % 2 ^ 82) = some x ∧ formatOk (opOf w) (fnOf w) x = true ∧ instrOf (opOf w) (fnOf w) x = some i := by
  rw [decode, if_pos h]
  cases Args.dec (w.toNat % 2 ^ 82) with
  | none => simp
  | some x => simp

/-- The fields of an encoded word are those that it was made of. -/
theorem fields_encWord {op fn : Nat} (x : Args) (ho : op < 256) (hf : fn < 64) :
    opOf (encWord op fn x) = op ∧ fnOf (encWord op fn x) = fn ∧ Args.dec ((encWord op fn x).toNat % 2 ^ 82) = some x := by
  have hx := x.enc_lt
  have hlow : (encWord op fn x).toNat % 2 ^ 82 = x.enc := by rw [encWord_toNat x ho hf]; omega
  refine ⟨?_, ?_, ?_⟩
  · rw [opOf, encWord_toNat x ho hf]; omega
  · rw [fnOf, encWord_toNat x ho hf]; omega
  · rw [hlow, Args.dec_enc]

theorem decode_encWord {op fn : Nat} {x : Args} {i : Instr} (hf : formatOk op fn x = true) (hi : instrOf op fn x = some i) :
    decode (encWord op fn x) = some i := by
  obtain ⟨ho, hn⟩ := Instr.opFn_lt (Instr.opFn_of_instrOf hi)
  obtain ⟨eo, en, ex⟩ := fields_encWord x (Nat.lt_trans ho (by decide)) hn
  rw [decode_eq_some_iff (by rw [eo, en]; exact assigned_of_instrOf hi), eo, en]
  exact ⟨x, ex, hf, hi⟩

/-- A well-formed instruction is a word that no pair assigns, or the instruction that its pair and its operands spell. -/
theorem Instr.wellFormed_iff {i : Instr} : i.wellFormed = true ↔
    (∃ w, i = .unassignedOpcode w ∧ assigned (opOf w) (fnOf w) = false)
    ∨ ∃ op fn x, formatOk op fn x = true ∧ instrOf op fn x = some i := by
  constructor
  · intro h
    unfold Instr.wellFormed at h
    split at h
    · exact .inl ⟨_, rfl, by simpa using h⟩
    · cases h
    · split at h
      · simp only [Bool.and_eq_true, beq_iff_eq] at h
        exact .inr ⟨_, _, _, h⟩
      · cases h
  · rintro (⟨w, rfl, h⟩ | ⟨op, fn, x, hf, hi⟩)
    · simp [Instr.wellFormed, h]
    · have ho := Instr.opFn_of_instrOf hi
      unfold Instr.wellFormed
      split
      · cases ho
      · cases ho; cases hi
      · simp [ho, hf, hi]

end Sys2Proof
end

section
/-! PROOFS. Exact faults, words that decode to nothing, and transfers of control (R47, R67, R92 to R94, R370, R371). -/

namespace Sys2Proof.Machine

open Sys2Proof

/-- The message of an exact fault of the running slot (R371). -/
def State.exactMsg (s : State) (code detail : Nat) : Msg :=
  trapMsg s.cur (s.ctxOfSlot s.cur) code 0 s.me.pc.toNat detail 0 0 false

/-- The running slot stopped by an exact fault, whose message it keeps (R370). -/
def State.stopped (s : State) (code detail : Nat) : State :=
  s.setMe { s.me with st := .stopped code, due := none, trapped := some (s.exactMsg code detail) }

/-- An exact fault outside a supervisor slot stops the slot and sends its message to the cluster's supervisor slot. -/
theorem State.raise_of_slot {s : State} (h : s.cur % 128 ≠ 127) (code detail : Nat) : s.raise code detail =
    (s.stopped code detail).sendAt (s.cycle + 8) { msg := s.exactMsg code detail, dest := .slot (s.cur / 128 * 128 + 127) } := by
  have hn : isSupervisor s.cur = false := beq_false_of_ne h
  rw [State.raise, State.reportFault, hn]
  rfl

/-- In a supervisor slot it stops the slot and its message is firmware's. -/
theorem State.raise_of_supervisor {s : State} (h : s.cur % 128 = 127) (code detail : Nat) : s.raise code detail =
    { s.stopped code detail with answers := s.answers ++ [(4096, .trap s.cur (s.exactMsg code detail))] } := by
  have hy : isSupervisor s.cur = true := beq_iff_eq.mpr h
  rw [State.raise, State.reportFault, hy]
  rfl

theorem issueWord_of_undecoded {w : BitVec 96} (h : decode w = none) (s : State) :
    issueWord w s = .next (s.raise fcIllop (illopDetail w)) := by
  rw [issueWord, h]
  rfl

/-- A transfer to a target that an index of an instruction holds. -/
theorem State.branchTo_inside {s : State} {target : Int} (f : State → State) (h0 : 0 ≤ target) (h1 : target < 2 ^ 32) :
    s.branchTo target f = (f s).jump (BitVec.ofInt 32 target) := by
  rw [State.branchTo, if_neg (by simp; omega)]

/-- A transfer to any other target raises SPACE. -/
theorem State.branchTo_outside {s : State} {target : Int} (f : State → State) (h : target < 0 ∨ 2 ^ 32 ≤ target) :
    s.branchTo target f = s.raise fcSpace (ofSigned 64 target) := by
  rw [State.branchTo, if_pos (by simpa using h)]

/-- dbr whose register is not 0 after the decrement branches. -/
theorem dbrBody_branches {x : Args} {s : State} (hi : x.a.idx ≠ 0) (hn : s.opVal x.a - 1 ≠ 0) :
    dbrBody x s = s.branchTo (s.relTarget x) (fun s => s.writeA x (s.opVal x.a - 1)) := by
  unfold dbrBody
  exact if_pos (by rw [if_neg (mt beq_iff_eq.mp hi)]; exact bne_iff_ne.mpr hn)

/-- dbr whose register is 0 after the decrement goes on. -/
theorem dbrBody_goes_on {x : Args} {s : State} (hn : s.opVal x.a - 1 = 0) : dbrBody x s = (s.writeA x 0).advance := by
  simp only [dbrBody, hn, ite_self, bne_self_eq_false, Bool.false_eq_true, if_false]

end Sys2Proof.Machine
end

section
/-! PROOFS. Events of fetch, walks, slices and the LLC, one lemma for each case (R105, R115 to R121, R306, R434, R436). -/

namespace Sys2Proof.Machine

open Sys2Proof

/-! Code (R436). -/

/-- A slot's missed line is asked for. -/
theorem icacheMiss_asks {s : State} {g line : Nat} (ha : s.arg = [g, line]) :
    exec .icacheMiss s = .next (s.askLine (g / 128) (s.ctxOfSlot g) (64 * line) (.fetch g line)) := by
  show execIcacheMiss s = _
  rw [execIcacheMiss, ha]
  rfl

/-- A line whose page's translation the cluster's TLB holds is asked of its home, if the page is executable and the line absent. -/
theorem State.askLine_translated {s t : State} {c ctx va : Nat} {w : Waiter} {e : Trans} (hva : va < 2 ^ 57)
    (htlb : s.tlb c ctx va = (some e, t)) (hx : atX e.leaf.toNat = true) (hmiss : (t.cluster c).icache.lookup (e.pa va / 64) = none) :
    s.askLine c ctx va w = t.icacheAsk c (e.pa va) (e.attr va) := by
  rw [State.askLine, if_neg (Nat.not_le.mpr hva), htlb]
  simp [hx, hmiss]

/-- Where the TLB holds none, a walk is asked for. -/
theorem State.askLine_untranslated {s t : State} {c ctx va : Nat} {w : Waiter} (hva : va < 2 ^ 57)
    (htlb : s.tlb c ctx va = (none, t)) : s.askLine c ctx va w = t.missTlb c ctx va w := by
  rw [State.askLine, if_neg (Nat.not_le.mpr hva), htlb]

/-- A cluster that awaits a line of code. -/
def State.awaitsLine (s : State) (c line : Nat) : State :=
  s.setCluster c { s.cluster c with ifill := (s.cluster c).ifill ++ [line] }

/-- A line of device memory that is not on its way is asked of its slice. -/
theorem State.icacheAsk_of_absent {s : State} {c pa attr : Nat} (hfill : (s.cluster c).ifill.contains (pa / 64) = false)
    (hw : attr.testBit 51 = false) : s.icacheAsk c pa attr =
      (s.awaitsLine c (pa / 64)).toSlice
        { (s.awaitsLine c (pa / 64)).mkReq { kind := .load } (c * 8) (pa / 64 * 64) attr s.cycle [] (.icache c) with wmask := 0 } s.cycle := by
  unfold State.icacheAsk
  simp only [hfill, hw, Bool.false_eq_true, if_false]
  rfl

/-- A line of code that has come, as the cluster then holds it. -/
def State.codeFilled (s t : State) (c line r : Nat) (d : Line) : State :=
  (t.setCluster c { s.cluster c with
    icache := ((line, d) :: (s.cluster c).icache.filter (fun l => l.1 != line)).take icacheLines
    ifill := (s.cluster c).ifill.filter (fun l => l != line) }).delReq r

/-- The stores to lines of code, looked at, with a cluster's copy of a line no longer older than any of them. -/
def State.settledFor (s : State) (c line : Nat) : State :=
  let u := s.settleCode
  { u with codeStores := u.codeStores.map (fun (x : CodeStore) => { x with stale := x.stale.filter (fun y => y != (c, u.ownLine line)) }) }

theorem icacheFill_eq {s : State} {c line r : Nat} (ha : s.arg = [c, line, r]) :
    exec .icacheFill s = .next (s.codeFilled (s.settledFor c line) c line r
      ((s.settledFor c line).codeView c line (s.req r).attr (s.req r).rdata)) := by
  show execIcacheFill s = _
  rw [execIcacheFill, ha]
  rfl

theorem State.settledFor_of_nil {s : State} (h : s.codeStores = []) (c line : Nat) : s.settledFor c line = s := by
  rw [State.settledFor, s.settleCode_of_nil h]
  cases s
  simp_all

/-- Where no store to code is under way, a fill brings its request's data. -/
theorem icacheFill_of_nil {s : State} {c line r : Nat} (ha : s.arg = [c, line, r]) (h : s.codeStores = []) :
    exec .icacheFill s = .next (s.codeFilled s c line r (s.req r).rdata) := by
  rw [icacheFill_eq ha, State.settledFor_of_nil h, State.codeView_of_nil s c line _ _ h]

/-! Walks (R105). -/

theorem tlbMissWalk_arrives {s : State} {k : Nat} (ha : s.arg = [k]) : exec .tlbMissWalk s = .next (s.walkArrives k) := by
  show execTlbMissWalk s = _
  rw [execTlbMissWalk, ha]
  rfl

theorem walkRetry_arrives {s : State} {k : Nat} (ha : s.arg = [k]) : exec .walkRetry s = .next (s.walkArrives k) := by
  show execWalkRetry s = _
  rw [execWalkRetry, ha]
  rfl

/-- What a walk does with the entry it has read at a level. -/
def State.walkGoesOn (t : State) (k level : Nat) (w : Walk) (e : Nat) : State :=
  match t.walkEntry w.ctx (w.block * 65536) level e with
  | .next b => t.readEntry k (level - 1) b
  | .leaf l => t.walkDone k (.inl l)
  | .fault c => t.walkDone k (.inr c)

/-- An entry that a walk read has come, and the walk goes on with it. -/
theorem tlbMissWalk_reads {s : State} {k level r : Nat} (ha : s.arg = [k, level, r]) :
    exec .tlbMissWalk s = .next (State.walkGoesOn { s with reqs := tdel s.reqs r } k level (tget {} s.walks k)
      (bits (s.req r).rdata.toNat (8 * ((s.req r).pa % 64) + 127) (8 * ((s.req r).pa % 64)))) := by
  show execTlbMissWalk s = _
  simp only [execTlbMissWalk, ha, State.walkGoesOn, List.headD_cons, List.drop_succ_cons, List.drop_zero]
  split <;> simp_all

/-- A leaf that nothing waits for enters the cluster's TLB. -/
theorem walkAnswer_of_leaf {s : State} {k : Nat} {e : Trans} (ha : s.arg = [k]) (hans : (tget {} s.walks k : Walk).answer = some (.inl e))
    (hw : (tget {} s.walks k : Walk).waiters = []) :
    exec .walkAnswer s = .next (({ s with walks := tdel s.walks k }.updCluster (tget {} s.walks k : Walk).cluster (fun c =>
      { c with walks := c.walks.filter (fun j => j != k) })).updCluster (tget {} s.walks k : Walk).cluster
        (fun c => { c with tlb := useTrans 512 c.tlb e })) := by
  show execWalkAnswer s = _
  simp only [execWalkAnswer, State.arg_one ha, hans, hw, List.foldl_nil]

/-! Slices (R115 to R119). -/

/-- The slice goes on while it has a request. -/
def State.sliceGoesOn (t : State) (l : Nat) : State :=
  if (t.slice l).answer = [] ∧ (t.slice l).queue = [] then t.setSlice l { t.slice l with busy := false }
  else t.post (t.cycle + 1) 1 (300 + l % 128) .sliceServe [l]

/-- A request of a filled miss list comes first. -/
theorem sliceServe_answers {s : State} {l r : Nat} {rest : List Nat} (ha : s.arg = [l]) (h : (s.slice l).answer = r :: rest) :
    exec .sliceServe s = .next (State.sliceGoesOn
      (((s.setSlice l { s.slice l with answer := rest }).serveReq l r).dropAnswered l ((s.req r).pa / 64)) l) := by
  show execSliceServe s = _
  simp only [execSliceServe, State.arg_one ha, h, State.sliceGoesOn, Bool.and_eq_true, List.isEmpty_iff]

/-- Else one of the queue. -/
theorem sliceServe_queue {s : State} {l r : Nat} {rest : List Nat} (ha : s.arg = [l]) (h : (s.slice l).answer = [])
    (hq : (s.slice l).queue = r :: rest) :
    exec .sliceServe s = .next (((s.setSlice l { s.slice l with queue := rest }).serveReq l r).sliceGoesOn l) := by
  show execSliceServe s = _
  simp only [execSliceServe, State.arg_one ha, h, hq, State.sliceGoesOn, Bool.and_eq_true, List.isEmpty_iff]

/-- A line whose fill has come, in its set. -/
def State.filledLine (t : State) (l line : Nat) (f : GReq) : State :=
  t.setL2 l (l2Set (line * 64)) ((t.l2Lines l (l2Set (line * 64))).map (fun y =>
    if y.tag == line then { y with data := f.rdata, valid := BitVec.allOnes 64, miss := none, fe := f.fe.getD 0 } else y))

theorem State.filledLine_eq (t : State) (l line : Nat) (f : GReq) : t.filledLine l line f =
    t.setL2 l (l2Set (line * 64)) ((t.l2Lines l (l2Set (line * 64))).map (fun y =>
      if y.tag = line then { y with data := f.rdata, valid := BitVec.allOnes 64, miss := none, fe := f.fe.getD 0 } else y)) := by
  simp only [State.filledLine, beq_iff_eq]

/-- The miss list of a filled line, which the slice answers. -/
def State.answersList (u : State) (l line : Nat) (list : List Nat) : State :=
  (u.setSlice l { u.slice l with answer := (u.slice l).answer ++ list, busy := true }).dropAnswered l line

/-- A fill gives a slice's line its data and lets its miss list be answered. -/
theorem l2Fill_fills {s : State} {l line f : Nat} {c : CLine} (ha : s.arg = [l, line, f])
    (hc : ((s.delReq f).l2Lines l (l2Set (line * 64))).find? (fun y => y.tag == line) = some c) :
    let u := (s.delReq f).filledLine l line (s.req f)
    let v := u.answersList l line (c.miss.getD [])
    exec .l2Fill s = .next (if (u.slice l).busy then v else v.post v.cycle 1 (300 + l % 128) .sliceServe [l]) := by
  show execL2Fill s = _
  simp only [execL2Fill, ha, List.headD_cons, List.getD_cons_succ, List.getD_cons_zero, hc]
  rfl

/-- A line whose read budget is spent leaves its slice. -/
theorem readBudgetExpiry_frees {s : State} {l line : Nat} {c : CLine} {d : Bool} (ha : s.arg = [l, line])
    (hc : (s.l2Lines l (l2Set (line * 64))).find? (fun y => y.tag == line) = some c) (hb : c.bud = some (0, d)) :
    let t := s.setL2 l (l2Set (line * 64)) ((s.l2Lines l (l2Set (line * 64))).filter (fun y => y.tag != line))
    exec .readBudgetExpiry s = .next (if c.isDirty && !d then t.wbL2 l { c with bud := none } {} .none else t) := by
  obtain ⟨hl, hline⟩ := State.arg_two ha
  show execReadBudgetExpiry s = _
  simp only [execReadBudgetExpiry, hl, hline, State.expireL2, hc, hb]

/-! Requests that are sent again, and the LLC (R116, R120, R121, R306). -/

theorem missListRetry_eq {s : State} {r : Nat} (ha : s.arg = [r]) : exec .missListRetry s =
    .next (s.offerTo (s.req r).die (s.req r).stop ((s.req r).slice / 128) (sliceStop (s.req r).slice) (s.req r).lane 1 (s.cycle + 6) 0 (.req r)) := by
  show execMissListRetry s = _
  rw [execMissListRetry, State.arg_one ha]

theorem feTableRetry_eq {s : State} {r : Nat} (ha : s.arg = [r]) :
    let q := s.req r
    let t := s.setReq r { q with at_ := s.cycle }
    exec .feTableRetry s = .next (if q.llc then t.post (s.cycle + 150 + 48 * dieClass q.die (homeStack q.pa q.attr)) 3 100 .feHomeServe [r]
      else t.offerTo q.die q.stop (q.slice / 128) (sliceStop q.slice) q.lane 1 (s.cycle + 6) 0 (.req r)) := by
  show execFeTableRetry s = _
  rw [execFeTableRetry, State.arg_one ha]
  rfl

theorem llcAccess_serves {s : State} {r : Nat} (ha : s.arg = [r]) : exec .llcAccess s = .next (s.llcServe r) := by
  show execLlcAccess s = _
  rw [execLlcAccess, State.arg_one ha]

theorem feHomeServe_serves {s : State} {r : Nat} (ha : s.arg = [r]) : exec .feHomeServe s = .next (s.llcServe r) := by
  show execFeHomeServe s = _
  rw [execFeHomeServe, State.arg_one ha]

/-- A fill from HBM lets the requests that await it be performed. -/
theorem hbmFill_fills {s : State} {line r : Nat} {l : List Nat} (ha : s.arg = [line]) (hf : tget [] s.fills line = r :: l) :
    exec .hbmFill s = .next ((r :: l).foldl (fun t i => t.post t.cycle 3 95 .llcAccess [i])
      (({ s with fills := tput [] s.fills line [] }).llcFill line (s.req r).attr)) := by
  show execHbmFill s = _
  rw [execHbmFill, State.arg_one ha, hf]
  rfl

/-- A slice's write-back that carries no full/empty bits is a write at the LLC. -/
theorem writeBack_writes {s : State} {r : Nat} (ha : s.arg = [1, r]) (hfe : (s.req r).fe = none) :
    let q := s.req r
    let u := unitOf (homeStack q.pa q.attr) q.pa
    let t := ({ s with unitBusy := tput 0 s.unitBusy u (max (tget 0 s.unitBusy u) (s.cycle + 1)) }.llcFill (q.pa / 64) q.attr).llcWrite
      (q.pa / 64) q.attr q.wdata q.wmask
    exec .writeBack s = .next ((t.reqDone r).delReq r) := by
  obtain ⟨hk, hr⟩ := State.arg_two ha
  show execWriteBack s = _
  simp only [execWriteBack, hk, hr, hfe, beq_self_eq_true, if_true]

theorem writeBack_evicts {s : State} {line : Nat} (ha : s.arg = [2, line]) : exec .writeBack s = .next (s.llcEvict line) := by
  show execWriteBack s = _
  rw [execWriteBack, ha]
  rfl

end Sys2Proof.Machine
end

section
/-! PROOFS. The obligations of instruction words, of control, and of fetch and the caches. -/

open Sys2Proof Sys2Proof.Machine

/-- Settles O4: a word keeps OP, FN and the operands of the instruction it encodes, and the pair with its operands spells the
instruction. -/
theorem encodeDecode : Obligations.EncodeDecode := by
  intro i hi
  obtain ⟨w, rfl, hw⟩ | ⟨op, fn, x, hf, he⟩ := Instr.wellFormed_iff.mp hi
  · exact ⟨w, rfl, decode_of_unassigned hw⟩
  · exact ⟨encWord op fn x, encode_of_opFn (Instr.opFn_of_instrOf he), decode_encWord hf he⟩

/-- Settles O5: the fields of a word are those of the operands that it names, and the pair tells the instruction. -/
theorem decodeEncode : Obligations.DecodeEncode := by
  intro w i h
  cases ha : assigned (opOf w) (fnOf w) with
  | false =>
    obtain rfl : .unassignedOpcode w = i := Option.some.inj ((decode_of_unassigned ha).symm.trans h)
    exact ⟨rfl, Instr.wellFormed_iff.mpr (.inl ⟨w, rfl, ha⟩)⟩
  | true =>
    obtain ⟨x, hx, hf, hi⟩ := (decode_eq_some_iff ha).mp h
    refine ⟨?_, Instr.wellFormed_iff.mpr (.inr ⟨_, _, x, hf, hi⟩)⟩
    rw [encode_of_opFn (Instr.opFn_of_instrOf hi), encWord_of_dec hx]

/-- Settles O3: the decoder, evaluated at each of the words. -/
theorem specWordsDecode : Obligations.SpecWordsDecode := by
  unfold Obligations.SpecWordsDecode
  decide

/-- The pairs that R66 leaves out, and all that a word of such a pair does. -/
theorem unassignedRaisesIllop_holds : Claims.UnassignedRaisesIllop := by
  refine ⟨fun w hw => decode_of_unassigned hw, ?_, ?_⟩
  · intro op fn hop
    cases ha : assigned op fn with
    | false => rfl
    | true => exact absurd (lt_of_assigned ha) (Nat.not_lt.mpr hop)
  · intro w s
    exact ⟨fun h => congrArg Host.Outcome.next (State.raise_of_slot h _ _),
      fun h => congrArg Host.Outcome.next (State.raise_of_supervisor h _ _)⟩

theorem illFormedRaisesIllop_holds : Claims.IllFormedRaisesIllop := by
  intro i op fn x s hi hbad
  obtain ⟨takes, always, body, e⟩ := exec_eq_issue hi s
  exact e.trans (congrArg Host.Outcome.next (State.issue_illop body hbad))

theorem undecodedRaisesIllop_holds : Claims.UndecodedRaisesIllop :=
  ⟨fun _ s h => issueWord_of_undecoded h s, fun _ _ _ r hd ht h => (runTurn_of_word hd ht).trans (issueWord_of_undecoded h r)⟩

/-- Settles O6. -/
theorem illegalWords : Obligations.IllegalWords :=
  ⟨unassignedRaisesIllop_holds, illFormedRaisesIllop_holds, undecodedRaisesIllop_holds⟩

/-- Settles O8: every instruction is issued, and the issue looks at the guard after its marker. -/
theorem falseGuardHasNoEffect : Obligations.FalseGuardHasNoEffect := by
  intro i op fn x s hi hacc hg
  obtain ⟨takes, always, body, e⟩ := exec_eq_issue hi s
  rw [e]
  refine ⟨fun hj => ?_, fun t hj hm => ?_, fun t hj hm => ?_⟩
  · rw [State.issue_skips body hacc hg hj]
  · rw [State.issue_skips_marked body hacc hg hj hm]
  · rw [State.issue_marker body hacc (by simp [hj]) hm]

theorem controlTransfers_hold : Claims.ControlTransfers := by
  intro x s r
  dsimp only
  intro p hp hb
  simp only [List.mem_cons, List.not_mem_nil, or_false] at hp
  rcases hp with rfl | rfl | rfl | rfl | rfl
  all_goals
    exact ⟨fun h0 h1 => (plain_begins _ hb).trans (congrArg Host.Outcome.next (State.branchTo_inside _ h0 h1)),
      fun h => (plain_begins _ hb).trans (congrArg Host.Outcome.next (State.branchTo_outside _ h))⟩

theorem decrementAndBranch_holds : Claims.DecrementAndBranch := by
  intro x s r m i ha hi hb
  have hidx : x.a.idx ≠ 0 := by
    rw [ha]
    exact fun h => hi (BitVec.eq_of_toNat_eq h)
  have hval : r.opVal x.a = r.me.sreg i.toNat := by rw [ha]; rfl
  have he : exec (.dbr x) s = .next (dbrBody x r) := plain_begins (dbrBody x) hb
  rw [he, ← hval]
  refine ⟨fun hn => ?_, fun hn h0 h1 => ?_, fun hn h => ?_, fun h0 => ?_⟩
  · rw [dbrBody_goes_on hn]
  · rw [dbrBody_branches hidx hn]
    exact congrArg Host.Outcome.next (State.branchTo_inside _ h0 h1)
  · rw [dbrBody_branches hidx hn]
    exact congrArg Host.Outcome.next (State.branchTo_outside _ h)
  · rw [h0]
    rfl

/-- Settles O19. -/
theorem Sys2Proof.control : Obligations.Control := ⟨controlTransfers_hold, decrementAndBranch_holds⟩

/-- Settles O52, one lemma for each event. -/
theorem fetchAndCacheEvents : Obligations.FetchAndCacheEvents := by
  refine ⟨?_, ?_, ?_, ?_, ?_, ?_, ?_, ?_, ?_, ?_, ?_, ?_, ?_⟩
  · intro s s' g line e ha hva htlb hx hmiss
    have hask : exec .icacheMiss s = .next (s'.icacheAsk (g / 128) (e.pa (64 * line)) (e.attr (64 * line))) :=
      (icacheMiss_asks ha).trans (congrArg Host.Outcome.next (State.askLine_translated hva htlb hx hmiss))
    exact ⟨hask, fun hfill hw => hask.trans (congrArg Host.Outcome.next (State.icacheAsk_of_absent hfill hw))⟩
  · intro s s' g line ha hva htlb
    exact (icacheMiss_asks ha).trans (congrArg Host.Outcome.next (State.askLine_untranslated hva htlb))
  · exact fun s c line r ha => ⟨fun h => icacheFill_of_nil ha h, icacheFill_eq ha⟩
  · exact fun s k ha => ⟨tlbMissWalk_arrives ha, walkRetry_arrives ha⟩
  · exact fun s k level r ha => tlbMissWalk_reads ha
  · exact fun s k e ha hans hw => walkAnswer_of_leaf ha hans hw
  · intro s l r rest ha h
    rcases h with h | ⟨h, hq⟩
    · have hne : (s.slice l).answer ≠ [] := by rw [h]; exact List.cons_ne_nil r rest
      dsimp only
      rw [if_neg hne]
      exact sliceServe_answers ha h
    · dsimp only
      rw [if_pos h]
      exact sliceServe_queue ha h hq
  · exact fun s r ha => ⟨missListRetry_eq ha, feTableRetry_eq ha, llcAccess_serves ha, feHomeServe_serves ha⟩
  · exact fun s line r l ha hf => hbmFill_fills ha hf
  · intro s l line f c ha
    dsimp only
    rw [← State.filledLine_eq]
    exact fun hc => l2Fill_fills ha hc
  · exact fun s r ha hfe => writeBack_writes ha hfe
  · exact fun s line ha => writeBack_evicts ha
  · exact fun s l line c d ha hc hb => readBudgetExpiry_frees ha hc hb

end

section
/-! PROOFS. Migration: the transfer to a G slot, the queue of a cluster, and the arrival (R71 to R75). -/

namespace Sys2Proof.Machine

open Sys2Proof

/-- A thread whose move is due takes the lowest empty G slot of its cluster, or waits in the cluster's queue. -/
theorem migrationStart_moves {s : State} {g : Nat} (ha : s.arg = [g]) (hst : (s.slot g).st = .parked .migration)
    (hm : (s.mill (g / 512)).stopping = false) : exec .migrationStart s = match s.gSlot (g / 128) with
      | some d => .next (s.transfer g d)
      | none => .next ((s.updSlot g (fun x => { x with st := .migrating, link := none })).updCluster
          (g / 128) (fun k => { k with migq := k.migq ++ [g] })) := by
  show execMigrationStart s = _
  rw [execMigrationStart, State.arg_one ha]
  exact if_neg (by simp [hst, millOf, hm])

theorem migrationQueueServe_serves {s : State} {c : Nat} (ha : s.arg = [c]) :
    exec .migrationQueueServe s = .next (s.serveQueue c (s.cluster c).migq.length) := by
  show execMigrationQueueServe s = _
  rw [execMigrationQueueServe, State.arg_one ha]

/-- Where no thread waits or no G slot is empty, nothing moves. -/
theorem State.serveQueue_idle {s : State} {c : Nat} (h : (s.cluster c).migq = [] ∨ s.gSlot c = none) (n : Nat) :
    s.serveQueue c n = s := by
  cases n with
  | zero => rfl
  | succ n =>
    rw [State.serveQueue]
    split
    · next hq hd => simp [hq, hd] at h
    · rfl

/-- The oldest of the queue takes an empty G slot. -/
theorem State.serveQueue_succ {s : State} {c g d : Nat} {rest : List Nat} (hq : (s.cluster c).migq = g :: rest)
    (hd : s.gSlot c = some d) (n : Nat) : s.serveQueue c (n + 1) =
      ((s.updCluster c (fun k => { k with migq := rest })).transfer g d).serveQueue c n := by
  rw [State.serveQueue, hq, hd]

theorem migrationQueueServe_lets_go {s : State} {c g d : Nat} {rest : List Nat} (ha : s.arg = [c])
    (hq : (s.cluster c).migq = g :: rest) (hd : s.gSlot c = some d) : exec .migrationQueueServe s =
      .next (((s.updCluster c (fun k => { k with migq := rest })).transfer g d).serveQueue c rest.length) := by
  rw [migrationQueueServe_serves ha, hq, List.length_cons, State.serveQueue_succ hq hd]

/-- What an arrival leaves in the slots: the thread goes on in the G slot with what it held, and its old slot forwards. -/
def State.movedTo (s : State) (src dst : Nat) : State :=
  let x := s.slot src
  let d := s.slot dst
  ((s.emptyL1 (dst / 16) .none).setSlot dst { x with
    st := .running, link := some src, flush := none, heldLate := [], due := none, lastLine := none
    open_ := d.open_ ++ x.open_.map (fun p => { p with moved := true }), held := d.held ++ x.held
    sending := d.sending ++ x.sending }).setSlot src { st := .forwarding, link := some dst, thread := x.thread }

/-- The messages held for the old slot are held for the new one, after its own. -/
def State.rehold (s : State) (src dst : Nat) : State :=
  { s with heldMsgs := tput [] (tdel s.heldMsgs src) dst (tget [] s.heldMsgs dst ++ tget [] s.heldMsgs src) }

/-- A thread whose write-backs are performed and that holds no late fault goes on in its new slot. -/
theorem migrationArrive_goes_on {s : State} {src dst : Nat} (ha : s.arg = [src, dst]) (hst : (s.slot src).st = .migrating)
    (hlink : (s.slot src).link = some dst) (hres : (s.slot dst).st = .reserved) (hflush : (s.slot src).flush = none)
    (hlate : (s.slot src).heldLate = []) :
    let w := ((((s.movedTo src dst).rehold src dst).retryHeld dst).sendOn dst (s.slot src).sending).drain dst
    exec .migrationArrive s = .next (w.turnAt dst w.cycle) := by
  obtain ⟨hsrc, hdst⟩ := State.arg_two ha
  show execMigrationArrive s = _
  simp only [execMigrationArrive, hsrc, hdst]
  rw [if_neg (by simp [hst, hlink, hres]), if_neg (by simp [hflush]), if_pos (by simp [hlate])]
  rfl

end Sys2Proof.Machine
end

section
/-! PROOFS. Late faults, traps and the restart of a supervisor (R19, R370, R371). -/

namespace Sys2Proof.Machine

open Sys2Proof

/-- A slot's ring once a late fault has marked the entry of its sequence number. -/
def Slot.marked (x : Slot) (code seq : Nat) : List RingEntry :=
  x.ring.map (fun r => if r.seq = seq then { r with flt := true, code := code } else r)

/-- The message of a late fault of the thread in a slot: it names the ring entry, or says that it is lost. -/
def Slot.lateMsg (x : Slot) (h ctx code seq detail : Nat) : Msg :=
  let hit := x.ring.find? (fun r => r.seq == seq)
  trapMsg h ctx code 2 (match hit with | some r => r.ix | none => 2 ^ 32 - 1) detail seq
    (match (x.marked code seq).find? (fun r => r.seq == seq) with | some r => r.pack | none => 0) hit.isNone

/-- The slot of a thread that a late fault stops: LATEPEND keeps the first one. -/
def Slot.stoppedLate (x : Slot) (code seq : Nat) (m : Msg) : Slot :=
  { x with late := if x.late.isNone then some (code, seq) else x.late
           ring := x.marked code seq, due := none, trapped := some m, st := .stopped code }

section
variable {s : State} {g code seq detail thread ctx : Nat}

/-- A late fault of a thread that is neither under way nor held by a save is delivered. -/
theorem lateFault_delivers (ha : s.arg = [g, code, seq, detail, thread, ctx]) (hsaved : s.savedSlots.lookup thread = none)
    (h : (s.slot (s.follow g)).thread = thread → (s.slot (s.follow g)).st ≠ .migrating) :
    exec .lateFault s = .next (s.lateFault g code seq detail thread ctx) := by
  show execLateFault s = _
  simp only [execLateFault, ha]
  rw [if_neg (by simpa using fun hst ht => h ht hst), hsaved]

/-- A thread under way keeps it. -/
theorem lateFault_held (ha : s.arg = [g, code, seq, detail, thread, ctx]) (ht : (s.slot (s.follow g)).thread = thread)
    (hst : (s.slot (s.follow g)).st = .migrating) : exec .lateFault s = .next (s.setSlot (s.follow g)
      { s.slot (s.follow g) with heldLate := (s.slot (s.follow g)).heldLate ++ [(code, seq, detail)] }) := by
  show execLateFault s = _
  simp only [execLateFault, ha]
  rw [if_pos (by simp [hst, ht])]

/-- A late fault stops its thread where it runs or is parked. -/
theorem State.lateFault_stops (ht : (s.slot (s.follow g)).thread = thread)
    (hst : (s.slot (s.follow g)).st = .running ∨ ∃ p, (s.slot (s.follow g)).st = .parked p) :
    let x := s.slot (s.follow g)
    let m := x.lateMsg (s.follow g) ctx code seq detail
    s.lateFault g code seq detail thread ctx =
      (s.setSlot (s.follow g) (x.stoppedLate code seq m)).reportFault (s.follow g) (s.cycle + 8) m := by
  have hhere : ((s.slot (s.follow g)).st.hasThread && (s.slot (s.follow g)).thread == thread) = true := by
    obtain hr | ⟨p, hp⟩ := hst
    · simp [hr, ht, SlotSt.hasThread]
    · simp [hp, ht, SlotSt.hasThread]
  simp only [State.lateFault, hhere, if_true, beq_iff_eq]
  obtain hr | ⟨p, hp⟩ := hst
  · rw [hr]
    rfl
  · rw [hp]
    rfl

/-- A late fault of a thread that has gone is reported with its entry lost. -/
theorem State.lateFault_gone (ht : (s.slot (s.follow g)).thread ≠ thread) : s.lateFault g code seq detail thread ctx =
    s.reportFault (s.follow g) (s.cycle + 8) (trapMsg (s.follow g) ctx code 2 (2 ^ 32 - 1) detail seq 0 true) := by
  have hgone : ((s.slot (s.follow g)).st.hasThread && (s.slot (s.follow g)).thread == thread) = false := by simp [ht]
  simp only [State.lateFault, hgone, Bool.false_eq_true, if_false]
  rfl

end

/-- Firmware forwards the message that it takes for a supervisor slot, and the message has then gone. -/
theorem trapForward_forwards {s : State} {u g : Nat} (ha : s.arg = [u]) (hd : (s.sent u).dest = .slot g) :
    exec .trapForward s = .next ((s.forwardTrap (s.sent u).msg g).delSent u) := by
  show execTrapForward s = _
  rw [execTrapForward, ha]
  simp only [List.headD_cons, hd]

theorem State.forwardTrap_logs {s : State} {m : Msg} (h : s.ctxExists m.owner = false) (g : Nat) :
    s.forwardTrap m g = s.sendAt s.cycle { msg := m, dest := .log (g / 32768) } := by
  simp only [State.forwardTrap, h, Bool.not_false, if_true, dieOf]

/-- A message that no slot's thread handles goes to the host. -/
theorem State.forwardTrap_to_host {s : State} {m : Msg} (hc : s.ctxExists m.owner = true)
    (h : s.fpol m.owner ≠ 1 ∨ (s.slot (s.follow (s.hslot m.owner))).st.hasThread = false) (g : Nat) :
    s.forwardTrap m g = s.toHost (g / 32768) (s.hnode m.owner) (s.fmbox m.owner) m := by
  have hno : (s.fpol m.owner == 1 && (s.slot (s.follow (s.hslot m.owner))).st.hasThread) = false := by
    rcases h with h | h <;> simp [h]
  simp only [State.forwardTrap, hc, hno, Bool.not_true, Bool.false_eq_true, if_false, dieOf]

theorem State.forwardTrap_to_handler {s : State} {m : Msg} (hc : s.ctxExists m.owner = true) (hp : s.fpol m.owner = 1)
    (ht : (s.slot (s.follow (s.hslot m.owner))).st.hasThread = true) (g : Nat) : s.forwardTrap m g =
      ((s.fresh.2).setSent s.uid { msg := { m with uid := s.uid }, dest := .slot (s.hslot m.owner) }).routeMsg s.uid g := by
  simp [State.forwardTrap, hc, hp, ht, State.fresh]

/-- A message to a slot is one of the messages under way under its own number. -/
theorem State.sent_setSent_slot (s : State) (k h : Nat) (m : Msg) :
    (s.setSent k { msg := m, dest := .slot h }).sent k = { msg := m, dest := .slot h } :=
  tget_tput_same' _ _ _ _ (fun e => nomatch congrArg Sent.dest e)

/-- A message to a slot of the sender's mill is delivered 6 cycles later; to any other it is a packet. -/
theorem State.routeMsg_to_slot {s : State} {u h : Nat} {m : Msg} (hx : s.sent u = { msg := m, dest := .slot h }) (g : Nat) :
    let d := s.destStop (.slot h)
    let stop := s.part.stopOf (g / 512)
    s.routeMsg u g = if d.1 = g / 32768 ∧ d.2.1 = stop then s.post (s.cycle + 6) 1 (200 + g % 512) .messageDelivery [u]
      else s.offerTo (g / 32768) stop d.1 d.2.1 d.2.2 m.entries (s.cycle + 6) 0 (.msg u) := by
  simp only [State.routeMsg, hx, dieOf, millOf, Bool.and_eq_true, beq_iff_eq]

/-- Firmware lets a stopped supervisor go on and sends what waited for it. -/
theorem supervisorRestart_restarts {s : State} {c code : Nat} (ha : s.arg = [c])
    (hst : (s.slot (s.follow (c * 128 + 127))).st = .stopped code) :
    let g := s.follow (c * 128 + 127)
    let x := s.slot g
    let t := ({ s with free := s.free + 1 }.setSlot g { x with
      st := .running, late := none, trapped := none, pc := (Config.openStatus s.free).setWidth 32
      rb := x.rb.filter (fun e => e.fault.isNone) }).turnAt g (s.cycle + 1)
    exec .supervisorRestart s = .next ((t.cluster c).supHeld.foldl (fun t y => t.sendAt t.cycle y)
      (t.updCluster c (fun k => { k with supHeld := [] }))) := by
  show execSupervisorRestart s = _
  rw [execSupervisorRestart, State.arg_one ha, supervisorOf, hst]
  rfl

end Sys2Proof.Machine
end

section
/-! PROOFS. Machine checks and the windows of the feather (R157, R366, R377, R435). -/

namespace Sys2Proof.Machine

open Sys2Proof

/-- A corrected error of a pond bank is counted, and the 64th retires the bank. -/
theorem machineCheck_corrects {s : State} {die p : Nat} {rest : List Nat} (ha : s.arg = 0 :: die :: p :: rest) :
    exec .machineCheck s = .next (s.correct (die * 64 + p / 32) (p % 32)) := by
  show execMachineCheck s = _
  rw [execMachineCheck, ha]
  rfl

theorem machineCheck_parity {s : State} {die g : Nat} (ha : s.arg = [6, die, g]) :
    exec .machineCheck s = .next (s.updSlot g (fun x => { x with fetchFault := some (0x0C, 0) })) := by
  show execMachineCheck s = _
  rw [execMachineCheck, ha]
  rfl

theorem machineCheck_vacated {s : State} {die p lid ctx : Nat} (ha : s.arg = [5, die, p, lid, ctx]) :
    exec .machineCheck s = .next (s.sendAt s.cycle { msg := checkMsg 5 die ctx 0 0 lid p 0, dest := .log die }) := by
  show execMachineCheck s = _
  rw [execMachineCheck, ha]
  rfl

theorem State.correct_eq (s : State) (mill bank : Nat) :
    let m := s.mill mill
    let l := (s.cycle :: tget [] m.corrections bank).filter (fun t => s.cycle < t + 2 ^ 20)
    let t := s.setMill mill { m with corrections := tput [] m.corrections bank l }
    s.correct mill bank = if 64 ≤ l.length ∧ m.bankRet.getLsbD bank = false then
      t.post t.cycle 0 4 .bankRetireDecided [mill, bank] else t := by
  simp [State.correct]

/-! A window draws the headroom of each die and then the energies of its mills, so a mill's values are known by its number. -/

/-- The feather of a mill after a window that begins with the values drawn from `free` on, with `n` live mills on each die. -/
def State.nextLevel (s : State) (n m : Nat) : Nat :=
  nextFeather (s.mill m).feather (Config.millEnergy (s.free + m / 64 * (n + 1) + 1 + m % 64))
    (Config.thermalHeadroom (s.free + m / 64 * (n + 1)))

/-- The mills of the dies below `d` and the first `k` of die `d`, of `n` live ones each. -/
def windowDone (n d k m : Nat) : Prop := m / 64 < d ∧ m % 64 < n ∨ m / 64 = d ∧ m % 64 < k

/-- A state `t` in which a window that began in `s` has drawn `drawn` values and set the mills in `done`, and nothing else. -/
structure State.Feathers (s : State) (done : Nat → Prop) (drawn : Nat) (t : State) : Prop where
  frame : t = { s with mills := t.mills, free := s.free + drawn }
  wf : Tab.wf {} t.mills = true
  set : ∀ m, done m → t.mill m = { s.mill m with feather := s.nextLevel s.part.liveMills m }
  kept : ∀ m, ¬ done m → t.mill m = s.mill m

/-- The level of one mill is set, from the next value drawn. -/
def State.setLevel (d headroom : Nat) (s : State) (m : Nat) : State :=
  s.draw.2.updMill (d * 64 + m) (fun k => { k with
    feather := nextFeather k.feather (Config.millEnergy s.free) (Config.thermalHeadroom headroom) })

/-- The levels of one die's mills are set. -/
def State.setLevels (s : State) (d : Nat) : State :=
  (List.range s.part.liveMills).foldl (State.setLevel d s.free) s.draw.2

theorem featherWindowEnd_eq (s : State) : exec .featherWindowEnd s =
    .next (((List.range 8).foldl State.setLevels s).post (((List.range 8).foldl State.setLevels s).cycle + 1050) 0 0 .featherWindowEnd []) := rfl

theorem Part.liveMills_le (p : Part) : p.liveMills ≤ 38 := by
  unfold Part.liveMills
  split <;> omega

section
variable {s t : State} {n d k c : Nat}

theorem State.Feathers.congr {p q : Nat → Prop} (h : s.Feathers p c t) (e : ∀ m, p m ↔ q m) : s.Feathers q c t :=
  (funext fun m => propext (e m) : p = q) ▸ h

theorem State.Feathers.part_eq {p : Nat → Prop} (h : s.Feathers p c t) : t.part = s.part := by rw [h.frame]
theorem State.Feathers.free_eq {p : Nat → Prop} (h : s.Feathers p c t) : t.free = s.free + c := by rw [h.frame]

/-- An event posted then is posted as if in the state where the window began. -/
theorem State.Feathers.post_frame {p : Nat → Prop} (h : s.Feathers p c t) (delay cls pri : Nat) (i : Instr) (arg : List Nat) :
    t.post (t.cycle + delay) cls pri i arg =
      { s with mills := t.mills, free := s.free + c, agenda := (s.post (s.cycle + delay) cls pri i arg).agenda } := by
  rw [h.frame]
  rfl

/-- A value drawn is counted, whatever it is for. -/
theorem State.Feathers.draw {p : Nat → Prop} (h : s.Feathers p c t) : s.Feathers p (c + 1) t.draw.2 :=
  ⟨by rw [h.frame]; rfl, h.wf, h.set, h.kept⟩

/-- The first mill that is not yet set is set. -/
theorem State.Feathers.setLevel (hn : n = s.part.liveMills) (hk : k < 64) (h : s.Feathers (windowDone n d k) (d * (n + 1) + 1 + k) t) :
    s.Feathers (windowDone n d (k + 1)) (d * (n + 1) + 1 + (k + 1)) (t.setLevel d (s.free + d * (n + 1)) k) := by
  have hdiv : (d * 64 + k) / 64 = d := by omega
  have hmod : (d * 64 + k) % 64 = k := by omega
  have hnew : t.mill (d * 64 + k) = s.mill (d * 64 + k) := h.kept _ (by unfold windowDone; omega)
  have hother : ∀ m, m ≠ d * 64 + k → (t.setLevel d (s.free + d * (n + 1)) k).mill m = t.mill m :=
    fun m hm => tget_tput_other _ _ _ _ _ h.wf hm
  refine ⟨by rw [h.frame]; rfl, Tab.wf_tput _ _ _ _ h.wf, fun m hm => ?_, fun m hm => ?_⟩
  · by_cases hmk : m = d * 64 + k
    · subst hmk
      have hfree : t.free = s.free + d * (n + 1) + 1 + k := by rw [h.free_eq]; omega
      refine (tget_tput_same _ _ _ _ h.wf).trans ?_
      show ({ t.mill (d * 64 + k) with
        feather := nextFeather (t.mill (d * 64 + k)).feather (Config.millEnergy t.free) _ } : Mill) = _
      rw [hnew, hfree, State.nextLevel, hdiv, hmod, ← hn]
    · exact (hother m hmk).trans (h.set m (by unfold windowDone at *; omega))
  · exact (hother m (by rintro rfl; unfold windowDone at hm; omega)).trans (h.kept m (by unfold windowDone at *; omega))

/-- The mills of the first die that is not yet set are set. -/
theorem State.Feathers.setLevels (hn : n = s.part.liveMills) (h : s.Feathers (windowDone n d 0) (d * (n + 1)) t) :
    s.Feathers (windowDone n (d + 1) 0) ((d + 1) * (n + 1)) (t.setLevels d) := by
  have hle : n ≤ 38 := hn ▸ s.part.liveMills_le
  have hfirst : ∀ k ≤ n, s.Feathers (windowDone n d k) (d * (n + 1) + 1 + k)
      ((List.range k).foldl (State.setLevel d (s.free + d * (n + 1))) t.draw.2) := by
    intro k
    induction k with
    | zero => exact fun _ => h.draw
    | succ k ih =>
      intro hk
      rw [List.range_succ, List.foldl_append]
      exact (ih (by omega)).setLevel hn (by omega)
  have hall := hfirst n (Nat.le_refl n)
  rw [State.setLevels, h.part_eq, h.free_eq, ← hn, Nat.add_mul, Nat.one_mul, ← Nat.add_assoc, Nat.add_right_comm]
  exact hall.congr fun m => by unfold windowDone; omega

/-- A window sets the mills of die after die. -/
theorem State.feathers_dies (hn : n = s.part.liveMills) (hwf : Tab.wf {} s.mills = true) (d : Nat) :
    s.Feathers (windowDone n d 0) (d * (n + 1)) ((List.range d).foldl State.setLevels s) := by
  induction d with
  | zero =>
    refine ⟨by rw [Nat.zero_mul]; rfl, hwf, fun m hm => ?_, fun _ _ => rfl⟩
    unfold windowDone at hm
    omega
  | succ d ih =>
    rw [List.range_succ, List.foldl_append]
    exact ih.setLevels hn

end

theorem nextFeather_eq (f energy headroom : Nat) : nextFeather f energy headroom =
    if 1000 < energy ∨ headroom < 50 then min (f + 1) 12 else if energy < 850 ∧ 100 ≤ headroom then f - 1 else f := by
  simp only [nextFeather, Bool.or_eq_true, Bool.and_eq_true, decide_eq_true_eq]

end Sys2Proof.Machine
end

section
/-! PROOFS. The obligation of migration, late faults, traps, machine checks and feather windows. -/

open Sys2Proof Sys2Proof.Machine

theorem migrations_hold : Claims.Migrations := by
  refine ⟨fun s g ha hst hm => ⟨fun d hd => ?_, fun hd => ?_⟩, fun s c ha => ⟨fun h => ?_, fun g d hq hd => ?_, fun g d rest hq hd => ?_⟩, ?_⟩
  · rw [migrationStart_moves ha hst hm, hd]
    rfl
  · rw [migrationStart_moves ha hst hm, hd]
  · rw [migrationQueueServe_serves ha, State.serveQueue_idle h]
  · exact migrationQueueServe_lets_go ha hq hd
  · exact migrationQueueServe_lets_go ha hq hd
  · exact fun _ _ _ => migrationArrive_goes_on

theorem lateFaults_hold : Claims.LateFaults := by
  refine ⟨fun s g code seq detail thread ctx ha hsaved => ⟨fun ht hst => ?_, lateFault_held ha, fun ht => ?_⟩,
    fun s u g ha hd => ⟨fun hc => ?_, fun hc hp ht => ?_, fun hc h => ?_⟩, fun s c code ha hst => supervisorRestart_restarts ha hst⟩
  · have hstays : (s.slot (s.follow g)).st ≠ .migrating := by
      obtain hr | ⟨p, hp⟩ := hst
      · simp [hr]
      · simp [hp]
    rw [lateFault_delivers ha hsaved fun _ => hstays, State.lateFault_stops ht hst]
    rfl
  · rw [lateFault_delivers ha hsaved fun h => absurd h ht, State.lateFault_gone ht]
  · rw [trapForward_forwards ha hd, State.forwardTrap_logs hc]
  · rw [trapForward_forwards ha hd, State.forwardTrap_to_handler hc hp ht, State.routeMsg_to_slot (State.sent_setSent_slot ..)]
    rfl
  · rw [trapForward_forwards ha hd, State.forwardTrap_to_host hc h]

theorem machineChecks_hold : Claims.MachineChecks := by
  refine ⟨fun s die p rest ha => ?_, fun s die g ha => machineCheck_parity ha, fun s die p lid ctx ha => machineCheck_vacated ha,
    fun s hwf => ?_⟩
  · rw [machineCheck_corrects ha, State.correct_eq]
  · have hend := featherWindowEnd_eq s
    have h := State.feathers_dies rfl hwf 8
    generalize (List.range 8).foldl State.setLevels s = u at hend h
    refine ⟨_, hend, h.post_frame .., fun m hm => ?_, fun m hm => h.kept m (by unfold windowDone; omega)⟩
    refine (h.set m (by unfold windowDone; omega)).trans ?_
    rw [State.nextLevel, nextFeather_eq]

/-- Settles O56: one lemma for each kind of event, and for a feather window an invariant of the mills that it has set. -/
theorem migrationAndFaultEvents : Obligations.MigrationAndFaultEvents :=
  ⟨migrations_hold, lateFaults_hold, machineChecks_hold⟩

end

section
/-! PROOFS. The values of scalar integer instructions: bit counts, integer arithmetic, bit fields, compares and immediates
(R76 to R84). -/

namespace Sys2Proof.Machine

open Sys2Proof

/-- An instruction begins only where its format is sound. -/
theorem State.formatOk_of_begins {s r : State} {op fn : Nat} {x : Args} {takes always : Bool}
    (h : s.begins op fn x takes always = some r) : formatOk op fn x = true := by
  cases hf : formatOk op fn x with
  | true => rfl
  | false => simp [State.begins, State.accepted, hf] at h

/-- A sound format is one of the rows of its pair. -/
theorem exists_fmt_ok {op fn : Nat} {x : Args} (h : formatOk op fn x = true) : ∃ f ∈ fmtOf op fn, f.ok x = true := by
  simp only [formatOk, Bool.and_eq_true] at h
  obtain ⟨⟨⟨⟨hrow, _⟩, _⟩, _⟩, _⟩ := h
  exact List.any_eq_true.mp hrow

/-- Where a pair has one row, its types are those of the row. -/
theorem ty_mem_of_begins {s r : State} {op fn : Nat} {x : Args} {takes always : Bool} {f : Fmt} (hf : fmtOf op fn = [f])
    (h : s.begins op fn x takes always = some r) : x.ty ∈ f.t := by
  obtain ⟨g, hg, hok⟩ := exists_fmt_ok (State.formatOk_of_begins h)
  obtain rfl : g = f := List.mem_singleton.mp (hf ▸ hg)
  simp only [Fmt.ok, Bool.and_eq_true] at hok
  obtain ⟨⟨⟨⟨⟨⟨_, ht⟩, _⟩, _⟩, _⟩, _⟩, _⟩ := hok
  exact List.contains_iff_mem.mp ht

theorem isSignedTy_of_mem_tI : ∀ t ∈ tI, isSignedTy t = true := by decide

theorem not_isSignedTy_of_mem_tN : ∀ t ∈ tN, isSignedTy t = false := by decide

/-! Bit counts (R80). -/

theorem lowT_lt (t : Nat) (y : Word) : lowT t y < 2 ^ tyBits t := Nat.mod_lt _ (Nat.two_pow_pos _)

theorem leadZeros_zero (n : Nat) : leadZeros n 0 = n := by simp [leadZeros]

/-- Above 0 the highest one bit, whose place is the logarithm, has all other bits but `leadZeros` below it. -/
theorem leadZeros_add_log2 {n u : Nat} (hu : u < 2 ^ n) (h0 : u ≠ 0) : leadZeros n u + (u.log2 + 1) = n := by
  have hlog : u.log2 < n := (Nat.log2_lt h0).mpr hu
  rw [leadZeros, Nat.mod_eq_of_lt hu, if_neg (by simpa using h0)]
  omega

theorem leadZeros_le {n u : Nat} (hu : u < 2 ^ n) : leadZeros n u ≤ n := by
  by_cases h0 : u = 0
  · rw [h0, leadZeros_zero]
  · have := leadZeros_add_log2 hu h0; omega

theorem testBit_above_leadZeros {n u j : Nat} (hu : u < 2 ^ n) (hj : n - leadZeros n u ≤ j) : u.testBit j = false := by
  by_cases h0 : u = 0
  · rw [h0, Nat.zero_testBit]
  · have hlog : u.log2 + 1 ≤ j := by have := leadZeros_add_log2 hu h0; omega
    exact Nat.testBit_lt_two_pow (Nat.lt_of_lt_of_le Nat.lt_log2_self (Nat.pow_le_pow_right (by decide) hlog))

theorem testBit_at_leadZeros {n u : Nat} (hu : u < 2 ^ n) (h : leadZeros n u < n) : u.testBit (n - 1 - leadZeros n u) = true := by
  have h0 : u ≠ 0 := fun h0 => by rw [h0, leadZeros_zero] at h; omega
  have hlog : n - 1 - leadZeros n u = u.log2 := by have := leadZeros_add_log2 hu h0; omega
  rw [hlog, Nat.testBit_log2 h0]

/-- Either every bit is 0 and `trailZeros` is the width, or it is the place of the lowest one bit. -/
theorem trailZeros_cases (n u : Nat) :
    (trailZeros n u = n ∧ ∀ j < n, u.testBit j = false) ∨
    (trailZeros n u < n ∧ u.testBit (trailZeros n u) = true ∧ ∀ j < trailZeros n u, u.testBit j = false) := by
  unfold trailZeros
  cases hfind : (List.range n).find? (fun i => u.testBit i) with
  | none => exact .inl ⟨rfl, by simpa using hfind⟩
  | some i =>
    obtain ⟨hbit, hin, hbelow⟩ := List.find?_range_eq_some.mp hfind
    exact .inr ⟨List.mem_range.mp hin, hbit, by simpa using hbelow⟩

theorem foldl_count {α : Type} (p : α → Bool) (l : List α) (a : Nat) :
    l.foldl (fun a i => a + if p i then 1 else 0) a = a + (l.filter p).length := by
  induction l generalizing a with
  | nil => rfl
  | cons i l ih => rw [List.foldl_cons, ih]; cases h : p i <;> simp [h]; omega

theorem popCount_eq (n u : Nat) : popCount n u = ((List.range n).filter u.testBit).length :=
  (foldl_count u.testBit _ 0).trans (Nat.zero_add _)

/-! Integer arithmetic (R78, R79). -/

/-- A quotient of signed values by 0 is -1. -/
theorem divQ_signed {t : Nat} (ht : isSignedTy t = true) (b c : Int) : divQ t b c = if c = 0 then -1 else b.tdiv c := by
  simp [divQ, ht]

/-- One of unsigned values by 0 is all ones. -/
theorem divQ_unsigned {t : Nat} (ht : isSignedTy t = false) (b c : Int) :
    divQ t b c = if c = 0 then 2 ^ tyBits t - 1 else b.tdiv c := by
  simp [divQ, ht]

theorem divR_eq (b c : Int) : divR b c = if c = 0 then b else b.tmod c := by simp [divR]

/-- `mulh` and `mulhn`: the upper half of the product. -/
theorem intOp_mulh {fn : Nat} (hfn : fn = 3 ∨ fn = 4) (t : Nat) (b c : Word) :
    intOp fn t b c = valT t b * valT t c / 2 ^ tyBits t := by
  rcases hfn with rfl | rfl <;> simp [intOp]

theorem intOp_shl (t : Nat) (b c : Word) : intOp 14 t b c = valT t b * 2 ^ (c.toNat % 64 % tyBits t) := by
  simp [intOp, shiftCount]

theorem intOp_sra (t : Nat) (b c : Word) : intOp 16 t b c = toSigned (tyBits t) b.toNat / 2 ^ (c.toNat % 64 % tyBits t) := by
  simp [intOp, shiftCount, signedB]

/-- An instruction of OP 0x10 that begins writes its exact integer, extended by its type. -/
theorem intBody_begins {s r : State} {fn : Nat} {x : Args} {v : Int} (h : s.begins 0x10 fn x false false = some r)
    (hv : intOp fn x.ty (r.opVal x.b) (r.opVal x.c) = v) :
    plain 0x10 fn x s (intBody fn x) = .next ((r.writeA x (extT x.ty v)).advance) := by
  rw [plain_begins _ h, intBody, hv]

/-! Bit fields (R81). -/

theorem fieldWidth_eq (c : Word) : fieldWidth c = min (c.toNat / 64 % 128) 64 := by
  rw [fieldWidth, bits_eq]; rfl

theorem fieldVal_eq (t : Nat) (b c : Word) :
    fieldVal t b c = b.toNat % 2 ^ tyBits t / 2 ^ (c.toNat % 64) % 2 ^ min (c.toNat / 64 % 128) 64 := by
  rw [fieldVal, fieldWidth_eq, Nat.shiftRight_eq_div_pow, lowT, fieldPos]

theorem bfxVal_eq (t : Nat) (b c : Word) :
    bfxVal t b c = extT t (if fieldWidth c = 0 then 0 else toSigned (fieldWidth c) (fieldVal t b c)) := by
  simp only [bfxVal, beq_iff_eq]

theorem bfiVal_eq (t : Nat) (a b c : Word) :
    let m := (2 ^ fieldWidth c - 1) * 2 ^ (c.toNat % 64) % 2 ^ tyBits t
    bfiVal t a b c = extT t ((a.toNat % 2 ^ tyBits t &&& (2 ^ tyBits t - 1 - m) ||| (b.toNat * 2 ^ (c.toNat % 64) &&& m) : Nat) : Int) := by
  simp only [bfiVal, lowT, fieldPos, Nat.shiftLeft_eq]

/-! Compares and immediates (R82, R84). -/

theorem bne_eq_decide {α : Type} [DecidableEq α] (b c : α) : (b != c) = decide (b ≠ c) := by
  rw [bne, beq_eq_decide, decide_not]

/-- A compare that begins writes whether its relation holds. -/
theorem cmpBody_begins {s r : State} {fn : Nat} {x : Args} {v : Bool} (h : s.begins 0x12 fn x false false = some r)
    (hv : intCompare fn (valT x.ty (r.opVal x.b)) (valT x.ty (r.opVal x.c)) = v) :
    plain 0x12 fn x s (cmpBody fn x) = .next ((r.writeA x (if v then 1 else 0)).advance) := by
  rw [plain_begins _ h, cmpBody, hv, boolWord]

theorem longImm_of_limm {x : Args} {b c : BitVec 22} (hb : x.b = .limm b) (hc : x.c = .limm c) :
    longImm x = (b ++ c).signExtend 64 := by
  simp only [longImm, hb, hc]

theorem limm_of_pat_ok {o : Operand} (h : Pat.limm.ok o = true) : ∃ v, o = .limm v := by
  cases o <;> simp_all [Pat.ok]

/-- The format of `li` takes long immediates alone. -/
theorem limm_of_formatOk_li {x : Args} (h : formatOk 0x18 0 x = true) : ∃ b c, x.b = .limm b ∧ x.c = .limm c := by
  obtain ⟨f, hf, hok⟩ := exists_fmt_ok h
  obtain rfl : f = { a := [pS], b := [.limm], c := [.limm] } := List.mem_singleton.mp hf
  simp only [Fmt.ok, Bool.and_eq_true, List.any_cons, List.any_nil, Bool.or_false] at hok
  obtain ⟨⟨⟨⟨⟨⟨⟨⟨_, hb⟩, hc⟩, _⟩, _⟩, _⟩, _⟩, _⟩, _⟩ := hok
  obtain ⟨b, hb⟩ := limm_of_pat_ok hb
  obtain ⟨c, hc⟩ := limm_of_pat_ok hc
  exact ⟨b, c, hb, hc⟩

/-- The word of `lih`: its immediate above the low 44 bits. -/
theorem lih_word (a c : Word) :
    BitVec.ofNat 64 (a.toNat % 2 ^ 44 + c.toNat % 2 ^ 20 * 2 ^ 44) = c.extractLsb' 0 20 ++ a.extractLsb' 0 44 := by
  apply BitVec.eq_of_toNat_eq
  rw [BitVec.toNat_append, ← Nat.shiftLeft_add_eq_or_of_lt (BitVec.isLt _), Nat.shiftLeft_eq]
  simp only [BitVec.extractLsb'_toNat, Nat.shiftRight_zero, BitVec.toNat_ofNat]
  omega

end Sys2Proof.Machine
end

section
/-! PROOFS. The values of scalar floating-point and predicate instructions (R86 to R91, R202). -/

namespace Sys2Proof.Machine

open Sys2Proof

/-- A scalar floating-point instruction ends by whether its flags meet an enabled trap (R87, R202). -/
theorem State.finishScalarFp_cases (r : State) (x : Args) (w : Word) (fl : Nat) :
    (r.me.fpctl.toNat % 32 &&& fl ≠ 0 → r.finishScalarFp x w fl = r.raise fcFpx fl)
    ∧ (r.me.fpctl.toNat % 32 &&& fl = 0 → r.finishScalarFp x w fl = ((r.updMe (fun y => y.orFlags fl)).writeA x w).advance) := by
  refine ⟨fun h => ?_, fun h => ?_⟩
  · exact if_pos (bne_iff_ne.mpr h)
  · exact if_neg (by simp [Slot.traps, h])

/-- A predicate instruction that begins writes its value in the predicate that A names. -/
theorem predBody_begins {s r : State} {fn : Nat} {x : Args} {m : BitVec 7} {i : BitVec 12} {f : Bool → Bool → Bool} {v : Bool}
    (ha : x.a = .reg .p m i) (h : s.begins 0x28 fn x false false = some r)
    (hv : f (decide (r.opVal x.b ≠ 0)) (decide (r.opVal x.c ≠ 0)) = v) :
    plain 0x28 fn x s (predBody f x) = .next ((r.updMe (fun y => y.setP i.toNat v)).advance) := by
  have hword : (boolWord v != 0) = v := by cases v <;> rfl
  rw [plain_begins _ h, predBody, bne_eq_decide, bne_eq_decide, hv, State.writeA, ha]
  simp only [hword]

end Sys2Proof.Machine
end

section
/-! PROOFS. The obligations of scalar and predicate instructions. -/

open Sys2Proof Sys2Proof.Machine

/-- Settles O13: the place of the highest and of the lowest one bit, and a sum of bits as a length. -/
theorem bitCounts : Obligations.BitCounts := by
  intro x s r
  have hu := lowT_lt x.ty (r.opVal x.b)
  refine ⟨fun hb => ?_, fun hb => ?_, fun hb => ?_⟩
  · exact ⟨_, plain_begins _ hb, leadZeros_le hu, fun j hj _ => testBit_above_leadZeros hu hj, testBit_at_leadZeros hu⟩
  · refine ⟨_, plain_begins _ hb, ?_⟩
    obtain ⟨hn, hzero⟩ | ⟨hlt, hone, hzero⟩ := trailZeros_cases (tyBits x.ty) (lowT x.ty (r.opVal x.b))
    · rw [hn]
      exact ⟨Nat.le_refl _, hzero, fun h => absurd h (Nat.lt_irrefl _)⟩
    · exact ⟨Nat.le_of_lt hlt, hzero, fun _ => hone⟩
  · exact (plain_begins _ hb).trans (by rw [countBody, popCount_eq, lowT])

/-- Settles O12: each row is its case of `intOp`; the quotients take the sign of the type from the format. -/
theorem integerResults : Obligations.IntegerResults := by
  intro x s r
  dsimp only
  intro p hp hb
  simp only [List.mem_cons, List.not_mem_nil, or_false] at hp
  rcases hp with rfl | rfl | rfl | rfl | rfl | rfl | rfl | rfl | rfl | rfl | rfl | rfl | rfl | rfl | rfl | rfl | rfl | rfl
    | rfl | rfl | rfl | rfl
  -- add, sub, mul, mulh, mulhn
  · exact intBody_begins hb rfl
  · exact intBody_begins hb rfl
  · exact intBody_begins hb rfl
  · exact intBody_begins hb (intOp_mulh (.inl rfl) ..)
  · exact intBody_begins hb (intOp_mulh (.inr rfl) ..)
  -- div, divn, rem, remn
  · exact intBody_begins hb (divQ_signed (isSignedTy_of_mem_tI _ (ty_mem_of_begins rfl hb)) ..)
  · exact intBody_begins hb (divQ_unsigned (not_isSignedTy_of_mem_tN _ (ty_mem_of_begins rfl hb)) ..)
  · exact intBody_begins hb (divR_eq ..)
  · exact intBody_begins hb (divR_eq ..)
  -- and, or, xor, andn, orn
  · exact intBody_begins hb rfl
  · exact intBody_begins hb rfl
  · exact intBody_begins hb rfl
  · exact intBody_begins hb rfl
  · exact intBody_begins hb rfl
  -- shl, shr, sra, rol
  · exact intBody_begins hb (intOp_shl ..)
  · exact intBody_begins hb rfl
  · exact intBody_begins hb (intOp_sra ..)
  · exact intBody_begins hb rfl
  -- min, minn, max, maxn
  · exact intBody_begins hb rfl
  · exact intBody_begins hb rfl
  · exact intBody_begins hb rfl
  · exact intBody_begins hb rfl

/-- Settles O14. -/
theorem bitFields : Obligations.BitFields := by
  intro x s r
  dsimp only
  refine ⟨fun hb => ?_, fun hb => ?_, fun hb => ?_⟩
  · exact (plain_begins _ hb).trans (by rw [bfxVal_eq, fieldVal_eq, fieldWidth_eq])
  · exact (plain_begins _ hb).trans (by rw [fieldVal_eq])
  · exact (plain_begins _ hb).trans (by rw [bfiVal_eq, fieldWidth_eq])

/-- Settles O15: the relation by FN. -/
theorem compares : Obligations.Compares := by
  intro x s r
  dsimp only
  intro p hp hb
  simp only [List.mem_cons, List.not_mem_nil, or_false] at hp
  rcases hp with rfl | rfl | rfl | rfl | rfl | rfl
  · exact cmpBody_begins hb (beq_eq_decide ..)
  · exact cmpBody_begins hb (bne_eq_decide ..)
  · exact cmpBody_begins hb rfl
  · exact cmpBody_begins hb rfl
  · exact cmpBody_begins hb rfl
  · exact cmpBody_begins hb rfl

/-- `sel` and `mov`: the operand that each writes, by its class. -/
theorem selectAndMove_holds : Claims.SelectAndMove := by
  intro x s r
  refine ⟨fun hb => ?_, fun hb => ?_⟩
  · have hsel : exec (.sel x) s = .next ((r.writeA x (if r.me.preg x.mask then r.opVal x.b else r.opVal x.c)).advance) :=
      plain_begins _ hb
    refine ⟨hsel, fun hm => ?_⟩
    rw [hsel, hm, Slot.preg_zero, if_pos rfl]
  · have hmov : exec (.mov x) s = .next ((r.writeA x (r.opVal x.b)).advance) := plain_begins _ hb
    refine ⟨fun m i h => ?_, fun m i h => ?_, fun m i h => ?_, hmov⟩
    all_goals
      rw [hmov, h]
      rfl

/-- `li` with long immediates and with any other kind, and `lih`. -/
theorem loadImmediates_hold : Claims.LoadImmediates := by
  intro x s r
  refine ⟨fun b c hxb hxc hb => ?_, fun hno => ?_, fun hb => ?_⟩
  · exact (plain_begins _ hb).trans (by rw [longImm_of_limm hxb hxc])
  · have hf : formatOk 0x18 0 x = false := by
      refine Bool.eq_false_iff.mpr fun hok => ?_
      obtain ⟨b, c, h⟩ := limm_of_formatOk_li hok
      exact hno b c h
    exact congrArg Host.Outcome.next (State.issue_illop _ (by rw [hf, Bool.and_false]))
  · exact (plain_begins _ hb).trans (by rw [lih_word])

/-- Settles O16. -/
theorem moveAndImmediates : Obligations.MoveAndImmediates := ⟨selectAndMove_holds, loadImmediates_hold⟩

/-- Settles O17: each row's body ends by `finishScalarFp` with the row's word and flags. -/
theorem scalarFloat : Obligations.ScalarFloat := by
  intro x s r
  dsimp only
  refine ⟨fun hb => plain_begins _ hb, fun p hp hb => ?_⟩
  have he : exec p.1 s = .next (r.finishScalarFp x p.2.2.2.1 p.2.2.2.2) := by
    simp only [List.mem_cons, List.not_mem_nil, or_false] at hp
    rcases hp with rfl | rfl | rfl | rfl | rfl | rfl | rfl | rfl | rfl | rfl | rfl | rfl | rfl | rfl
    all_goals exact plain_begins _ hb
  obtain ⟨htrap, hnone⟩ := r.finishScalarFp_cases x p.2.2.2.1 p.2.2.2.2
  rw [he]
  exact ⟨fun h => congrArg Host.Outcome.next (htrap h), fun h => congrArg Host.Outcome.next (hnone h)⟩

/-- Settles O18: each row's function of the truth of the two operands. -/
theorem predicateLogic : Obligations.PredicateLogic := by
  intro x s r m i ha
  dsimp only
  intro p hp hb
  simp only [List.mem_cons, List.not_mem_nil, or_false] at hp
  rcases hp with rfl | rfl | rfl | rfl | rfl
  all_goals exact predBody_begins ha hb rfl

end

section
/-! PROOFS. What each operation of the state that writes no byte of HBM, a pond or a save image leaves alone, one lemma each. -/

namespace Sys2Proof.Machine

open Sys2Proof

/-- What HBM and the ponds hold, and the save images that stand beside them. -/
def State.bytes (s : State) : Memory × Memory × List SaveArea := (s.mem, s.pond, s.saveAreas)

/-- `simp` asks which update made the state whose bytes are meant, and does not look inside it. -/
@[congr] theorem State.bytes_congr (s : State) : s.bytes = s.bytes := (rfl)

/-- A record that keeps the three fields holds the same bytes, whatever else it changes. -/
@[simp] theorem State.bytes_update (s : State) {cycle cur arg agenda frozen uid free part slots cores clusters mills dies slices net ports metAt reqs
      sents joins walks tiles copies controls rels runs links credits merges codeStores launches saves savedSlots vacates barriers arrivals heldMsgs
      contexts sessions gathers llc fills hbmAttr unitBusy full feWait versions windows fabric ports_ poison corrected skyUnsync skyTime skyAt skyPpm
      skyErr fwRel tableGen hostOut answers} :
    State.bytes ⟨cycle, cur, arg, agenda, frozen, uid, free, part, slots, cores, clusters, mills, dies, slices, net, ports, metAt, reqs, sents,
      joins, walks, tiles, copies, controls, rels, runs, links, credits, merges, codeStores, launches, saves, savedSlots, vacates, s.saveAreas,
      barriers, arrivals, heldMsgs, contexts, sessions, gathers, s.mem, s.pond, llc, fills, hbmAttr, unitBusy, full, feWait, versions, windows,
      fabric, ports_, poison, corrected, skyUnsync, skyTime, skyAt, skyPpm, skyErr, fwRel, tableGen, hostOut, answers⟩ = s.bytes := (rfl)

@[simp] theorem State.bytes_ite (c : Prop) [Decidable c] (s t : State) : (if c then s else t).bytes = if c then s.bytes else t.bytes :=
  apply_ite State.bytes c s t

@[simp] theorem State.bytes_foldl {β : Type} (l : List β) (f : State → β → State) (s : State) (h : ∀ s b, (f s b).bytes = s.bytes) :
    (l.foldl f s).bytes = s.bytes := by
  induction l generalizing s with
  | nil => rfl
  | cons b l ih => exact (ih _).trans (h s b)

/-- A fold that carries the state beside something else leaves the bytes alone where every step does. -/
theorem State.bytes_foldl_acc {α β : Type} (p : α → State) (l : List β) (f : α → β → α) (a : α)
    (h : ∀ a b, (p (f a b)).bytes = (p a).bytes) : (p (l.foldl f a)).bytes = (p a).bytes := by
  induction l generalizing a with
  | nil => rfl
  | cons b l ih => exact (ih _).trans (h a b)

/-- The state beside a value that a function answers with. -/
theorem State.bytes_of_snd {α : Type} {e : α × State} {a : α} {t : State} (h : e = (a, t)) : t.bytes = e.2.bytes := by rw [h]

theorem State.bytes_of_fst {α : Type} {e : State × α} {a : α} {t : State} (h : e = (t, a)) : t.bytes = e.1.bytes := by rw [h]

/-! The parts of the state and the agenda. -/

@[simp] theorem State.setSlot_bytes (s : State) (g : Nat) (x : Slot) : (s.setSlot g x).bytes = s.bytes := (rfl)

@[simp] theorem State.updSlot_bytes (s : State) (g : Nat) (f : Slot → Slot) : (s.updSlot g f).bytes = s.bytes := (rfl)

@[simp] theorem State.setCore_bytes (s : State) (c : Nat) (x : Core) : (s.setCore c x).bytes = s.bytes := (rfl)

@[simp] theorem State.setCluster_bytes (s : State) (c : Nat) (x : Cluster) : (s.setCluster c x).bytes = s.bytes := (rfl)

@[simp] theorem State.updCluster_bytes (s : State) (c : Nat) (f : Cluster → Cluster) : (s.updCluster c f).bytes = s.bytes := (rfl)

@[simp] theorem State.setMill_bytes (s : State) (m : Nat) (x : Mill) : (s.setMill m x).bytes = s.bytes := (rfl)

@[simp] theorem State.updMill_bytes (s : State) (m : Nat) (f : Mill → Mill) : (s.updMill m f).bytes = s.bytes := (rfl)

@[simp] theorem State.setDie_bytes (s : State) (d : Nat) (x : Die) : (s.setDie d x).bytes = s.bytes := (rfl)

@[simp] theorem State.updDie_bytes (s : State) (d : Nat) (f : Die → Die) : (s.updDie d f).bytes = s.bytes := (rfl)

@[simp] theorem State.setSlice_bytes (s : State) (l : Nat) (x : Slice) : (s.setSlice l x).bytes = s.bytes := (rfl)

@[simp] theorem State.setLaunch_bytes (s : State) (id : Nat) (x : Launch) : (s.setLaunch id x).bytes = s.bytes := (rfl)

@[simp] theorem State.updLaunch_bytes (s : State) (id : Nat) (f : Launch → Launch) : (s.updLaunch id f).bytes = s.bytes := (rfl)

@[simp] theorem State.setReq_bytes (s : State) (r : Nat) (x : GReq) : (s.setReq r x).bytes = s.bytes := (rfl)

@[simp] theorem State.setSent_bytes (s : State) (m : Nat) (x : Sent) : (s.setSent m x).bytes = s.bytes := (rfl)

@[simp] theorem State.setCopy_bytes (s : State) (c : Nat) (x : Copy) : (s.setCopy c x).bytes = s.bytes := (rfl)

@[simp] theorem State.setPort_bytes (s : State) (p : Nat) (x : List PondReq) : (s.setPort p x).bytes = s.bytes := (rfl)

@[simp] theorem State.fresh_bytes (s : State) : (s.fresh).2.bytes = s.bytes := (rfl)

@[simp] theorem State.draw_bytes (s : State) : (s.draw).2.bytes = s.bytes := (rfl)

@[simp] theorem State.post_bytes (s : State) (at_ cls pri : Nat) (i : Instr) (arg : List Nat) :
    (s.post at_ cls pri i arg).bytes = s.bytes := (rfl)

@[simp] theorem State.turnAt_bytes (s : State) (g t : Nat) : (s.turnAt g t).bytes = s.bytes := (rfl)

@[simp] theorem State.again_bytes (s : State) (g : Nat) : (s.again g).bytes = s.bytes := (rfl)

@[simp] theorem State.setMe_bytes (s : State) (x : Slot) : (s.setMe x).bytes = s.bytes := (rfl)

@[simp] theorem State.updMe_bytes (s : State) (f : Slot → Slot) : (s.updMe f).bytes = s.bytes := (rfl)

@[simp] theorem State.writeA_bytes (s : State) (x : Args) (w : Word) : (s.writeA x w).bytes = s.bytes := by
  unfold State.writeA
  split <;> simp

@[simp] theorem State.advance_bytes (s : State) : (s.advance).bytes = s.bytes := (rfl)

@[simp] theorem State.jump_bytes (s : State) (pc : BitVec 32) : (s.jump pc).bytes = s.bytes := (rfl)

@[simp] theorem State.park_bytes (s : State) (g : Nat) (why : Park) : (s.park g why).bytes = s.bytes := (rfl)

@[simp] theorem State.sendAt_bytes (s : State) (t : Nat) (x : Sent) : (s.sendAt t x).bytes = s.bytes := (rfl)

@[simp] theorem State.reportFault_bytes (s : State) (g t : Nat) (m : Msg) : (s.reportFault g t m).bytes = s.bytes := by
  unfold State.reportFault
  simp

@[simp] theorem State.raise_bytes (s : State) (code detail : Nat) : (s.raise code detail).bytes = s.bytes := by
  unfold State.raise
  simp

@[simp] theorem State.lateFault_bytes (s : State) (g0 code seq detail thread ctx : Nat) :
    (s.lateFault g0 code seq detail thread ctx).bytes = s.bytes := by
  unfold State.lateFault
  simp

@[simp] theorem State.enterRing_bytes (s : State) (op fn : Nat) : (s.enterRing op fn).2.bytes = s.bytes := (rfl)

@[simp] theorem State.stopContext_bytes (s : State) (die ctx : Nat) : (s.stopContext die ctx).bytes = s.bytes := by
  unfold State.stopContext
  simp

@[simp] theorem State.checkBudget_bytes (s : State) (l : Nat) : (s.checkBudget l).bytes = s.bytes := by
  unfold State.checkBudget
  simp

@[simp] theorem State.chargeWait_bytes (s : State) (g : Nat) : (s.chargeWait g).bytes = s.bytes := by
  unfold State.chargeWait
  simp

@[simp] theorem State.endLoan_bytes (s : State) (job : Nat) : (s.endLoan job).bytes = s.bytes := (rfl)

/-- The state that a marker leaves. -/
def Marked.state : Marked → State
  | .parked s => s
  | .faulted s => s
  | .done s => s

@[simp] theorem State.marker_bytes (s : State) : s.marker.state.bytes = s.bytes := by
  unfold State.marker
  dsimp only
  split
  · simp only [Marked.state]
    simp
  · split <;> simp only [Marked.state]
    · rw [State.bytes_foldl _ _ _ (fun s e => by split <;> simp), State.bytes_foldl _ _ _ (fun s e => by split <;> simp)]
      simp
    · simp only [State.reportFault_bytes, State.updMe_bytes]
      rw [State.bytes_foldl _ _ _ (fun s e => by split <;> simp), State.bytes_foldl _ _ _ (fun s e => by split <;> simp)]
      simp

@[simp] theorem State.takeEntry_bytes (s : State) (e : Entry) : (s.takeEntry e).bytes = s.bytes := (rfl)

@[simp] theorem State.updEntry_bytes (s : State) (g uid : Nat) (f : Entry → Entry) : (s.updEntry g uid f).bytes = s.bytes := (rfl)

@[simp] theorem State.landAt_bytes (s : State) (g uid t : Nat) : (s.landAt g uid t).bytes = s.bytes := (rfl)

@[simp] theorem State.faultEntry_bytes (s : State) (g uid t code detail : Nat) : (s.faultEntry g uid t code detail).bytes = s.bytes := (rfl)

/-- An instruction whose own effect leaves the bytes alone leaves them alone when it issues (R47). -/
theorem State.issue_bytes (op fn : Nat) (x : Args) (takes always : Bool) (body : State → State) (s : State)
    (h : ∀ s, (body s).bytes = s.bytes) : (s.issue op fn x takes always body).bytes = s.bytes := by
  have hm := s.marker_bytes
  unfold State.issue
  split
  · simp
  split
  · simp
  dsimp only
  split
  · split <;> rename_i hs <;> rw [hs] at hm
    · exact hm
    · exact hm
    · rw [← hm]; simp [h, Marked.state]
  · simp [h]

/-! Flags and the end of a scalar float. -/

@[simp] theorem State.finishScalarFp_bytes (s : State) (x : Args) (w : Word) (fl : Nat) : (s.finishScalarFp x w fl).bytes = s.bytes := by
  unfold State.finishScalarFp
  simp

@[simp] theorem State.lateIn24_bytes (s : State) (code seq detail : Nat) : (s.lateIn24 code seq detail).bytes = s.bytes := (rfl)

@[simp] theorem State.finishVector_bytes (s : State) (seq fl : Nat) : (s.finishVector seq fl).bytes = s.bytes := by
  unfold State.finishVector
  simp

@[simp] theorem vectorBody_bytes (op fn : Nat) (f : State → (Slot → Slot) × Nat) (s : State) : (vectorBody op fn f s).bytes = s.bytes := by
  unfold vectorBody
  simp

/-! Transfers of control. -/

@[simp] theorem State.branchTo_bytes (s : State) (target : Int) (f : State → State) (h : ∀ s, (f s).bytes = s.bytes) :
    (s.branchTo target f).bytes = s.bytes := by
  unfold State.branchTo
  split <;> simp [h]

@[simp] theorem brBody_bytes (x : Args) (s : State) : (brBody x s).bytes = s.bytes := by
  unfold brBody
  simp

@[simp] theorem briBody_bytes (x : Args) (s : State) : (briBody x s).bytes = s.bytes := by
  unfold briBody
  simp

@[simp] theorem callBody_bytes (x : Args) (s : State) : (callBody x s).bytes = s.bytes := by
  unfold callBody
  simp

@[simp] theorem calliBody_bytes (x : Args) (s : State) : (calliBody x s).bytes = s.bytes := by
  unfold calliBody
  simp

@[simp] theorem dbrBody_bytes (x : Args) (s : State) : (dbrBody x s).bytes = s.bytes := by
  unfold dbrBody
  simp

@[simp] theorem State.retryHeld_bytes (s : State) (g : Nat) : (s.retryHeld g).bytes = s.bytes := by
  unfold State.retryHeld
  split <;> simp

@[simp] theorem State.emptySlot_bytes (s : State) (g : Nat) : (s.emptySlot g).bytes = s.bytes := by
  unfold State.emptySlot
  dsimp only
  split <;> simp

/-! Scalar instructions. -/

@[simp] theorem intBody_bytes (fn : Nat) (x : Args) (s : State) : (intBody fn x s).bytes = s.bytes := by
  unfold intBody
  simp

@[simp] theorem countBody_bytes (f : Nat → Nat → Nat) (x : Args) (s : State) : (countBody f x s).bytes = s.bytes := by
  unfold countBody
  simp

@[simp] theorem cmpBody_bytes (fn : Nat) (x : Args) (s : State) : (cmpBody fn x s).bytes = s.bytes := by
  unfold cmpBody
  simp

@[simp] theorem fpBody_bytes (fn : Nat) (x : Args) (s : State) : (fpBody fn x s).bytes = s.bytes := by
  unfold fpBody
  simp

@[simp] theorem fpMinMaxBody_bytes (larger : Bool) (x : Args) (s : State) : (fpMinMaxBody larger x s).bytes = s.bytes := by
  unfold fpMinMaxBody
  simp

@[simp] theorem fcvtBody_bytes (x : Args) (s : State) : (fcvtBody x s).bytes = s.bytes := by
  unfold fcvtBody
  simp

@[simp] theorem fcmpBody_bytes (fn : Nat) (x : Args) (s : State) : (fcmpBody fn x s).bytes = s.bytes := by
  unfold fcmpBody
  simp

@[simp] theorem predBody_bytes (f : Bool → Bool → Bool) (x : Args) (s : State) : (predBody f x s).bytes = s.bytes := by
  unfold predBody
  simp

/-! Control registers. -/

@[simp] theorem State.csrWrite_bytes (s : State) (n : Nat) (w : Word) : (s.csrWrite n w).bytes = s.bytes := by
  unfold State.csrWrite
  (repeat' split) <;> simp

@[simp] theorem onTarget_bytes (fn : Nat) (x : Args) (self : Bool) (body : Nat → State → State) (s : State)
    (h : ∀ t s, (body t s).bytes = s.bytes) : (onTarget fn x self body s).bytes = s.bytes := by
  unfold onTarget
  dsimp only
  repeat' split
  all_goals simp [h]

@[simp] theorem slotrBody_bytes (x : Args) (s : State) : (slotrBody x s).bytes = s.bytes := by
  exact onTarget_bytes _ _ _ _ _ (fun t s => by dsimp only; (repeat' split) <;> simp)

@[simp] theorem slotwBody_bytes (x : Args) (s : State) : (slotwBody x s).bytes = s.bytes := by
  exact onTarget_bytes _ _ _ _ _ (fun t s => by dsimp only; (repeat' split) <;> simp)

@[simp] theorem slotstopBody_bytes (x : Args) (s : State) : (slotstopBody x s).bytes = s.bytes := by
  unfold slotstopBody
  simp

@[simp] theorem camwBody_bytes (x : Args) (s : State) : (camwBody x s).bytes = s.bytes := by
  unfold camwBody
  simp

@[simp] theorem camswBody_bytes (s : State) : (camswBody s).bytes = s.bytes := by
  unfold camswBody
  simp

/-! The G core. -/

@[simp] theorem gBody_bytes (fn : Nat) (x : Args) (f : Args → State → GResult) (s : State) : (gBody fn x f s).bytes = s.bytes := by
  unfold gBody
  dsimp only
  split <;> simp

@[simp] theorem gMigrate_bytes (s : State) : (gMigrate s).bytes = s.bytes := (rfl)

/-! The network. -/

@[simp] theorem State.setPacket_bytes (s : State) (u : Nat) (p : Packet) : (s.setPacket u p).bytes = s.bytes := (rfl)

@[simp] theorem State.setFifo_bytes (s : State) (k : Nat) (l : List Nat) : (s.setFifo k l).bytes = s.bytes := (rfl)

@[simp] theorem State.addHeld_bytes (s : State) (k n : Nat) : (s.addHeld k n).bytes = s.bytes := (rfl)

@[simp] theorem State.subHeld_bytes (s : State) (k n : Nat) : (s.subHeld k n).bytes = s.bytes := (rfl)

@[simp] theorem State.postHop_bytes (s : State) (u k t : Nat) : (s.postHop u k t).bytes = s.bytes := (rfl)

@[simp] theorem State.waitHop_bytes (s : State) (u k : Nat) (p : Packet) (f : Flit) : (s.waitHop u k p f).bytes = s.bytes := by
  unfold State.waitHop
  simp

@[simp] theorem State.offer_bytes (s : State) (die src dst lane len ready rank : Nat) (pl : Payload) :
    (s.offer die src dst lane len ready rank pl).bytes = s.bytes := by
  unfold State.offer
  simp

@[simp] theorem State.takeLink_bytes (s : State) (a b len t : Nat) : (s.takeLink a b len t).2.bytes = s.bytes := (rfl)

@[simp] theorem State.offerTo_bytes (s : State) (dieA src dieB dst lane len ready rank : Nat) (pl : Payload) :
    (s.offerTo dieA src dieB dst lane len ready rank pl).bytes = s.bytes := by
  unfold State.offerTo
  simp only [State.offer_bytes]
  exact State.bytes_foldl_acc (fun x : Nat × Nat × State => x.2.2) _ _ _ (fun a b => by simp)

@[simp] theorem State.offerOut_bytes (s : State) (die src lane len ready rank cls node : Nat) (ls : List Line) (kind id : Nat) :
    (s.offerOut die src lane len ready rank cls node ls kind id).bytes = s.bytes := by
  unfold State.offerOut
  simp

@[simp] theorem State.sendFlits_bytes (s : State) (die node cls : Nat) (ls : List Line) :
    (s.sendFlits die node cls ls).bytes = s.bytes := (rfl)

@[simp] theorem State.landReq_bytes (s : State) (r t : Nat) : (s.landReq r t).bytes = s.bytes := by
  unfold State.landReq
  split <;> simp

@[simp] theorem State.wakeSlice_bytes (s : State) (l : Nat) : (s.wakeSlice l).bytes = s.bytes := by
  unfold State.wakeSlice
  simp

@[simp] theorem State.arrive_bytes (s : State) (p : Packet) : (s.arrive p).bytes = s.bytes := by
  unfold State.arrive
  split <;> simp

@[simp] theorem State.freeFlit_bytes (s : State) (p : Packet) (f : Flit) : (s.freeFlit p f).bytes = s.bytes := by
  unfold State.freeFlit
  simp

@[simp] theorem State.nextFlit_bytes (s : State) (u k here : Nat) : (s.nextFlit u k here).bytes = s.bytes := by
  unfold State.nextFlit
  simp

@[simp] theorem State.popFifo_bytes (s : State) (p : Packet) (f : Flit) : (s.popFifo p f).bytes = s.bytes := (rfl)

@[simp] theorem State.dropPacket_bytes (s : State) (u : Nat) : (s.dropPacket u).bytes = s.bytes := by
  unfold State.dropPacket
  simp

@[simp] theorem ejectFlit_bytes (u k : Nat) (p : Packet) (f : Flit) (s : State) : (ejectFlit u k p f s).bytes = s.bytes := by
  unfold ejectFlit
  (repeat' split) <;> simp

@[simp] theorem leaveFlit_bytes (u k : Nat) (p : Packet) (f : Flit) (dir chan : Nat) (s : State) :
    (leaveFlit u k p f dir chan s).bytes = s.bytes := by
  unfold leaveFlit
  simp

@[simp] theorem takeSlot_bytes (u k old : Nat) (s : State) : (takeSlot u k old s).bytes = s.bytes := by
  unfold takeSlot
  dsimp only
  (repeat' split) <;> simp

@[simp] theorem moveFlit_bytes (u k : Nat) (p : Packet) (f : Flit) (s : State) : (moveFlit u k p f s).bytes = s.bytes := by
  unfold moveFlit
  dsimp only
  (repeat' split) <;> simp

/-! Translations and walks. -/

@[simp] theorem State.tlb_bytes (s : State) (cluster ctx va : Nat) : (s.tlb cluster ctx va).2.bytes = s.bytes := by
  unfold State.tlb
  split <;> simp

@[simp] theorem State.missTlb_bytes (s : State) (cluster ctx va : Nat) (w : Waiter) : (s.missTlb cluster ctx va w).bytes = s.bytes := by
  unfold State.missTlb
  dsimp only
  split <;> simp

@[simp] theorem State.setWalker_bytes (s : State) (die n : Nat) (w : Walker) : (s.setWalker die n w).bytes = s.bytes := (rfl)

@[simp] theorem State.answerWalk_bytes (s : State) (k : Nat) (a : Trans ⊕ Nat) (t : Nat) : (s.answerWalk k a t).bytes = s.bytes := by
  unfold State.answerWalk
  simp

@[simp] theorem State.readEntry_bytes (s : State) (k level table : Nat) : (s.readEntry k level table).bytes = s.bytes := (rfl)

@[simp] theorem State.walkArrives_bytes (s : State) (k : Nat) : (s.walkArrives k).bytes = s.bytes := by
  unfold State.walkArrives
  dsimp only
  (repeat' split) <;> simp

@[simp] theorem State.walkDone_bytes (s : State) (k : Nat) (a : Trans ⊕ Nat) : (s.walkDone k a).bytes = s.bytes := by
  unfold State.walkDone
  simp

/-! Requests and slices. -/

@[simp] theorem State.toSlice_bytes (s : State) (q : GReq) (t : Nat) : (s.toSlice q t).bytes = s.bytes := by
  unfold State.toSlice
  simp

@[simp] theorem State.toLlc_bytes (s : State) (q : GReq) (t : Nat) : (s.toLlc q t).bytes = s.bytes := (rfl)

@[simp] theorem State.toWindow_bytes (s : State) (q : GReq) : (s.toWindow q).bytes = s.bytes := by
  unfold State.toWindow
  simp

@[simp] theorem State.setL1_bytes (s : State) (core set : Nat) (ls : List CLine) : (s.setL1 core set ls).bytes = s.bytes := (rfl)

@[simp] theorem State.wbL1_bytes (s : State) (core : Nat) (l : CLine) (t : Nat) (sink : Sink) : (s.wbL1 core l t sink).bytes = s.bytes := by
  unfold State.wbL1
  simp

@[simp] theorem State.putL1_bytes (s : State) (core : Nat) (l : CLine) (t : Nat) : (s.putL1 core l t).bytes = s.bytes := by
  unfold State.putL1
  simp

@[simp] theorem State.flushL1_bytes (s : State) (core pa t : Nat) (sink : Sink) : (s.flushL1 core pa t sink).bytes = s.bytes := by
  unfold State.flushL1
  split <;> simp

@[simp] theorem State.takeL1_bytes (s : State) (core pa : Nat) : (s.takeL1 core pa).2.bytes = s.bytes := (rfl)

@[simp] theorem State.dropStale_bytes (s : State) (core : Nat) (hit : CLine → Bool) : (s.dropStale core hit).bytes = s.bytes := (rfl)

@[simp] theorem State.l1Load_bytes (s : State) (a : Access) (core pa attr t : Nat) (es : List Elem) :
    (s.l1Load a core pa attr t es).1.bytes = s.bytes := by
  unfold State.l1Load
  dsimp only
  (repeat' split) <;> simp

@[simp] theorem State.l1Store_bytes (s : State) (a : Access) (core pa attr t : Nat) (es : List Elem) :
    (s.l1Store a core pa attr t es).1.bytes = s.bytes := by
  unfold State.l1Store
  dsimp only
  (repeat' split) <;> simp

@[simp] theorem State.startLine_bytes (s : State) (a : Access) (core pa attr t : Nat) (es : List Elem) :
    (s.startLine a core pa attr t es).1.bytes = s.bytes := by
  unfold State.startLine
  dsimp only
  (repeat' split) <;> simp

@[simp] theorem State.accessFault_bytes (s : State) (a : Access) (code addr : Nat) : (s.accessFault a code addr).bytes = s.bytes := by
  unfold State.accessFault
  split <;> simp

@[simp] theorem State.provisional_bytes (s : State) (a : Access) : (s.provisional a).bytes = s.bytes := by
  unfold State.provisional
  simp

@[simp] theorem State.unrecord_bytes (s : State) (a : Access) : (s.unrecord a).bytes = s.bytes := by
  unfold State.unrecord
  simp

@[simp] theorem State.codeStore_bytes (s : State) (ls : List (Nat × Nat × BitVec 64)) : (s.codeStore ls).bytes = s.bytes := by
  unfold State.codeStore
  simp

@[simp] theorem State.postSend_bytes (s : State) (g uid : Nat) : (s.postSend g uid).bytes = s.bytes := (rfl)

@[simp] theorem State.startGlobal_bytes (s : State) (a : Access) : (s.startGlobal a).1.bytes = s.bytes := by
  unfold State.startGlobal
  dsimp only
  generalize hr : List.foldl _ _ _ = r
  have h : r.1.bytes = s.bytes := by
    rw [← hr]
    refine State.bytes_foldl_acc (fun r : State × List (Nat × Nat × Nat × List Elem) × List Nat × Option (Nat × Nat) => r.1) _ _ _
      (fun r g => ?_)
    split <;> simp
  split
  · simp [h]
  split
  · simp [h]
  split
  · simp [h]
  · split <;> simp [h]

@[simp] theorem State.postPond_bytes (s : State) (q : PondReq) (t : Nat) : (s.postPond q t).bytes = s.bytes := by
  unfold State.postPond
  simp

@[simp] theorem State.enqueuePond_bytes (s : State) (a : Access) (port entry : Nat) (packet : Option Nat) :
    (s.enqueuePond a port entry packet).bytes = s.bytes := by
  unfold State.enqueuePond
  exact State.bytes_foldl_acc (fun r : State × Nat => r.1) _ _ _ (fun r w => by simp)

@[simp] theorem State.startCrew_bytes (s : State) (a : Access) : (s.startCrew a).bytes = s.bytes := by
  unfold State.startCrew
  simp

@[simp] theorem State.startTile_bytes (s : State) (a : Access) : (s.startTile a).bytes = s.bytes := (rfl)

@[simp] theorem State.start_bytes (s : State) (a0 : Access) : (s.start a0).1.bytes = s.bytes := by
  unfold State.start
  dsimp only
  (repeat' split) <;> simp

@[simp] theorem State.finish_bytes (s : State) (g uid : Nat) (counts : Bool) : (s.finish g uid counts).bytes = s.bytes := by
  unfold State.finish
  simp

@[simp] theorem State.begin_bytes (s : State) (a : Access) : (s.begin a).bytes = s.bytes := by
  unfold State.begin
  simp

@[simp] theorem State.joinPages_bytes (s : State) (j : Nat) (n : Nat) : (s.joinPages j n).bytes = s.bytes := by
  induction n generalizing s with
  | zero => simp [State.joinPages]
  | succ n ih =>
    unfold State.joinPages
    dsimp only
    repeat' split
    all_goals simp [ih]

@[simp] theorem State.joinSkip_bytes (s : State) (j : Nat) : (s.joinSkip j).bytes = s.bytes := by
  unfold State.joinSkip
  simp

@[simp] theorem State.openJoin_bytes (s : State) (x : Join) : (s.openJoin x).bytes = s.bytes := by
  unfold State.openJoin
  simp

@[simp] theorem State.drainCluster_bytes (s : State) (c : Nat) (n : Nat) : (s.drainCluster c n).bytes = s.bytes := by
  induction n generalizing s with
  | zero => simp [State.drainCluster]
  | succ n ih =>
    unfold State.drainCluster
    dsimp only
    repeat' split
    all_goals simp [ih]

@[simp] theorem State.drain_bytes (s : State) (g : Nat) : (s.drain g).bytes = s.bytes := by
  unfold State.drain
  simp

@[simp] theorem State.issueAccess_bytes (s : State) (a0 : Access) (rel : Option Join := none) : (s.issueAccess a0 rel).bytes = s.bytes := by
  unfold State.issueAccess
  simp

@[simp] theorem State.done_bytes (s : State) (g0 uid : Nat) : (s.done g0 uid).bytes = s.bytes := by
  unfold State.done
  dsimp only
  split <;> simp

@[simp] theorem State.sendNext_bytes (s : State) (g0 uid : Nat) : (s.sendNext g0 uid).bytes = s.bytes := by
  unfold State.sendNext
  dsimp only
  (repeat' split) <;> simp

/-! The caches. -/

@[simp] theorem State.setJoin_bytes (s : State) (j : Nat) (x : Join) : (s.setJoin j x).bytes = s.bytes := (rfl)

@[simp] theorem State.joinEnd_bytes (s : State) (x : Join) : (s.joinEnd x).bytes = s.bytes := by
  unfold State.joinEnd
  (repeat' split) <;> simp

@[simp] theorem State.joinNext_bytes (s : State) (j : Nat) : (s.joinNext j).bytes = s.bytes := by
  unfold State.joinNext
  simp

@[simp] theorem State.joinDone_bytes (s : State) (j : Nat) : (s.joinDone j).bytes = s.bytes := by
  unfold State.joinDone
  simp

@[simp] theorem State.startJoin_bytes (s : State) (x : Join) : (s.startJoin x).bytes = s.bytes := by
  unfold State.startJoin
  simp

@[simp] theorem State.awaitReqs_bytes (s : State) (j : Nat) (pick : GReq → Bool) : (s.awaitReqs j pick).2.bytes = s.bytes := by
  unfold State.awaitReqs
  simp

@[simp] theorem State.llcFill_bytes (s : State) (line attr : Nat) : (s.llcFill line attr).bytes = s.bytes := by
  unfold State.llcFill
  split <;> simp

@[simp] theorem State.llcPut_bytes (s : State) (line attr : Nat) (data : Line) (mask : BitVec 64) :
    (s.llcPut line attr data mask).bytes = s.bytes := by
  unfold State.llcPut
  dsimp only
  split <;> simp

@[simp] theorem State.llcPoke_bytes (s : State) (pa attr n x : Nat) : (s.llcPoke pa attr n x).bytes = s.bytes := by
  induction n generalizing s pa x with
  | zero => rfl
  | succ n ih => exact (ih _ _ _).trans (by simp)

@[simp] theorem State.winStore_bytes (s : State) (w : BitVec 256) (k : Nat) (data : Line) : (s.winStore w k data).bytes = s.bytes := by
  unfold State.winStore
  dsimp only
  repeat' split
  all_goals simp

@[simp] theorem State.llcReplace_bytes (s : State) : (s.llcReplace).bytes = s.bytes := by
  unfold State.llcReplace
  dsimp only
  split <;> simp

@[simp] theorem State.setL2_bytes (s : State) (l set : Nat) (ls : List CLine) : (s.setL2 l set ls).bytes = s.bytes := (rfl)

@[simp] theorem State.touchL2_bytes (s : State) (l : Nat) (c : CLine) : (s.touchL2 l c).bytes = s.bytes := (rfl)

@[simp] theorem State.wbL2_bytes (s : State) (l : Nat) (c : CLine) (acc : Access) (sink : Sink) :
    (s.wbL2 l c acc sink).bytes = s.bytes := (rfl)

@[simp] theorem State.respond_bytes (s : State) (l r : Nat) : (s.respond l r).bytes = s.bytes := by
  unfold State.respond
  dsimp only
  split <;> simp

@[simp] theorem State.refuse_bytes (s : State) (l r : Nat) : (s.refuse l r).bytes = s.bytes := by
  unfold State.refuse
  simp

@[simp] theorem State.delReq_bytes (s : State) (r : Nat) : (s.delReq r).bytes = s.bytes := (rfl)

@[simp] theorem State.reqDone_bytes (s : State) (r : Nat) : (s.reqDone r).bytes = s.bytes := by
  unfold State.reqDone
  dsimp only
  split <;> simp

@[simp] theorem State.feSlice_bytes (s : State) (l r : Nat) (c : CLine) : (s.feSlice l r c).bytes = s.bytes := by
  unfold State.feSlice
  dsimp only
  (repeat' split) <;> simp

@[simp] theorem State.serveLine_bytes (s : State) (l r : Nat) (c : CLine) : (s.serveLine l r c).bytes = s.bytes := by
  unfold State.serveLine
  dsimp only
  (repeat' split) <;> simp

theorem State.roomL2_bytes {s t : State} {l set : Nat} (h : s.roomL2 l set = some t) : t.bytes = s.bytes := by
  unfold State.roomL2 at h
  dsimp only at h
  repeat' split at h
  all_goals cases h
  all_goals simp

@[simp] theorem State.missL2_bytes (s : State) (l r : Nat) : (s.missL2 l r).bytes = s.bytes := by
  unfold State.missL2
  dsimp only
  split
  · simp
  · rename_i h
    simp [State.roomL2_bytes h]

@[simp] theorem State.listRefuse_bytes (s : State) (l r : Nat) : (s.listRefuse l r).bytes = s.bytes := by
  unfold State.listRefuse
  simp

@[simp] theorem State.serveReq_bytes (s0 : State) (l r : Nat) : (State.serveReq s0 l r).bytes = s0.bytes := by
  unfold State.serveReq
  dsimp only
  (repeat' split) <;> simp

@[simp] theorem State.dropAnswered_bytes (s : State) (l line : Nat) : (s.dropAnswered l line).bytes = s.bytes := by
  unfold State.dropAnswered
  dsimp only
  split <;> simp

@[simp] theorem State.expireL2_bytes (s : State) (l line : Nat) : (s.expireL2 l line).bytes = s.bytes := by
  unfold State.expireL2
  dsimp only
  (repeat' split) <;> simp

@[simp] theorem State.llcRespond_bytes (s : State) (r : Nat) : (s.llcRespond r).bytes = s.bytes := by
  unfold State.llcRespond
  dsimp only
  split <;> simp

@[simp] theorem State.setLlc_bytes (s : State) (c : CLine) : (s.setLlc c).bytes = s.bytes := (rfl)

@[simp] theorem State.openFill_bytes (s : State) (line r : Nat) : (s.openFill line r).bytes = s.bytes := by
  unfold State.openFill
  simp

@[simp] theorem State.bringL2_bytes (s : State) (die pa attr : Nat) : (s.bringL2 die pa attr).bytes = s.bytes := by
  unfold State.bringL2
  dsimp only
  split
  · rfl
  · split
    · rfl
    · rename_i h
      split <;> simp [State.roomL2_bytes h]

@[simp] theorem State.readHome_bytes (s : State) (die pa attr : Nat) : (s.readHome die pa attr).2.bytes = s.bytes := by
  unfold State.readHome
  dsimp only
  (repeat' split) <;> simp

@[simp] theorem State.walkL1_bytes (s : State) (j : Nat) : (s.walkL1 j).bytes = s.bytes := by
  unfold State.walkL1
  simp

@[simp] theorem State.walkL2_bytes (s : State) (j : Nat) : (s.walkL2 j).bytes = s.bytes := by
  unfold State.walkL2
  simp

/-! Global accesses. -/

@[simp] theorem State.issueLoad_bytes (s : State) (a : Access) (ws : List RegW) (left ext : Nat) :
    (s.issueLoad a ws left ext).bytes = s.bytes := by
  unfold State.issueLoad
  simp

@[simp] theorem State.issueStore_bytes (s : State) (a : Access) : (s.issueStore a).bytes = s.bytes := by
  unfold State.issueStore
  simp

@[simp] theorem ldgBody_bytes (x : Args) (s : State) : (ldgBody x s).bytes = s.bytes := by
  unfold ldgBody
  dsimp only
  split <;> simp

@[simp] theorem stgBody_bytes (x : Args) (s : State) : (stgBody x s).bytes = s.bytes := by
  unfold stgBody
  dsimp only
  split <;> simp

@[simp] theorem vldgBody_bytes (x : Args) (s : State) : (vldgBody x s).bytes = s.bytes := by
  unfold vldgBody
  dsimp only
  split <;> simp

@[simp] theorem vstgBody_bytes (x : Args) (s : State) : (vstgBody x s).bytes = s.bytes := by
  unfold vstgBody
  dsimp only
  split <;> simp

@[simp] theorem vgthgBody_bytes (x : Args) (s : State) : (vgthgBody x s).bytes = s.bytes := by
  unfold vgthgBody
  dsimp only
  split <;> simp

@[simp] theorem vsctgBody_bytes (x : Args) (s : State) : (vsctgBody x s).bytes = s.bytes := by
  unfold vsctgBody
  dsimp only
  split <;> simp

@[simp] theorem pfgBody_bytes (x : Args) (s : State) : (pfgBody x s).bytes = s.bytes := by
  unfold pfgBody
  simp

@[simp] theorem clgBody_bytes (x : Args) (s : State) : (clgBody x s).bytes = s.bytes := by
  unfold clgBody
  dsimp only
  split <;> simp

@[simp] theorem emptyGBody_bytes (x : Args) (s : State) : (emptyGBody x s).bytes = s.bytes := by
  unfold emptyGBody
  split <;> simp

@[simp] theorem peekGBody_bytes (x : Args) (s : State) : (peekGBody x s).bytes = s.bytes := by
  unfold peekGBody
  split <;> simp

@[simp] theorem amogBody_bytes (form : Nat) (x : Args) (s : State) : (amogBody form x s).bytes = s.bytes := by
  unfold amogBody
  dsimp only
  split <;> simp

@[simp] theorem tlbiBody_bytes (x : Args) (s : State) : (tlbiBody x s).bytes = s.bytes := (rfl)

/-! The ponds. -/

@[simp] theorem State.pondLand_bytes (s : State) (mill : Nat) (a : Access) (i : Nat) (v : VReg) (flags : Nat) (flt : Option (Nat × Nat)) :
    (s.pondLand mill a i v flags flt).bytes = s.bytes := by
  unfold State.pondLand
  dsimp only
  (repeat' split) <;> simp

@[simp] theorem State.handWord_bytes (s : State) (slot uid v : Nat) : (s.handWord slot uid v).bytes = s.bytes := (rfl)

@[simp] theorem State.chkTest_bytes (s : State) (mill off : Nat) : (s.chkTest mill off).bytes = s.bytes := by
  unfold State.chkTest
  exact State.bytes_foldl _ _ _ (fun s w => by dsimp only; (repeat' split) <;> simp)

@[simp] theorem State.withdraw_bytes (s : State) (mill : Nat) (q : PondReq) : (s.withdraw mill q).bytes = s.bytes := by
  unfold State.withdraw
  simp

@[simp] theorem State.blockEnd_bytes (s : State) (mill port : Nat) (q : PondReq) : (s.blockEnd mill port q).bytes = s.bytes := by
  unfold State.blockEnd
  dsimp only
  split <;> simp

@[simp] theorem State.withdrawWaits_bytes (s : State) (mill bank : Nat) : (s.withdrawWaits mill bank).bytes = s.bytes := by
  unfold State.withdrawWaits
  simp

/-! Pond accesses. -/

@[simp] theorem pondIssue_bytes (off : Int) (n al banks : Nat) (mk : Nat → Access) (go : Access → State → State) (s : State)
    (h : ∀ a s, (go a s).bytes = s.bytes) : (pondIssue off n al banks mk go s).bytes = s.bytes := by
  unfold pondIssue
  dsimp only
  repeat' split
  all_goals simp [h]

@[simp] theorem loadOf_bytes (ws : List RegW) (left ext : Nat) (a : Access) (s : State) : (loadOf ws left ext a s).bytes = s.bytes := by
  unfold loadOf
  simp

@[simp] theorem storeOf_bytes (a : Access) (s : State) : (storeOf a s).bytes = s.bytes := by
  unfold storeOf
  simp

@[simp] theorem ldpBody_bytes (x : Args) (s : State) : (ldpBody x s).bytes = s.bytes := by
  unfold ldpBody
  simp

@[simp] theorem stpBody_bytes (x : Args) (s : State) : (stpBody x s).bytes = s.bytes := by
  unfold stpBody
  simp

@[simp] theorem vldpBody_bytes (x : Args) (s : State) : (vldpBody x s).bytes = s.bytes := by
  unfold vldpBody
  simp

@[simp] theorem vstpBody_bytes (x : Args) (s : State) : (vstpBody x s).bytes = s.bytes := by
  unfold vstpBody
  simp

@[simp] theorem blkldBody_bytes (x : Args) (s : State) : (blkldBody x s).bytes = s.bytes := by
  unfold blkldBody
  simp

@[simp] theorem blkstBody_bytes (x : Args) (s : State) : (blkstBody x s).bytes = s.bytes := by
  unfold blkstBody
  simp

@[simp] theorem fillBody_bytes (x : Args) (s : State) : (fillBody x s).bytes = s.bytes := by
  unfold fillBody
  simp

@[simp] theorem emptyBody_bytes (x : Args) (s : State) : (emptyBody x s).bytes = s.bytes := by
  unfold emptyBody
  simp

@[simp] theorem peekBody_bytes (x : Args) (s : State) : (peekBody x s).bytes = s.bytes := by
  unfold peekBody
  simp

@[simp] theorem recvOf_bytes (form : EForm) (ws : List RegW) (a : Access) (s : State) : (recvOf form ws a s).bytes = s.bytes := by
  unfold recvOf
  simp

@[simp] theorem recvFeBody_bytes (x : Args) (s : State) : (recvFeBody x s).bytes = s.bytes := by
  unfold recvFeBody
  simp

@[simp] theorem recvChkBody_bytes (x : Args) (s : State) : (recvChkBody x s).bytes = s.bytes := by
  unfold recvChkBody
  simp

@[simp] theorem amopBody_bytes (form : Nat) (x : Args) (s : State) : (amopBody form x s).bytes = s.bytes := by
  unfold amopBody
  simp

@[simp] theorem xaccBody_bytes (x : Args) (s : State) : (xaccBody x s).bytes = s.bytes := by
  unfold xaccBody
  simp

@[simp] theorem xrndSet_bytes (x : Args) (s : State) : (xrndSet x s).bytes = s.bytes := by
  unfold xrndSet
  simp

@[simp] theorem xrndScalar_bytes (x : Args) (s : State) : (xrndScalar x s).bytes = s.bytes := by
  unfold xrndScalar
  simp

@[simp] theorem xclrBody_bytes (x : Args) (s : State) : (xclrBody x s).bytes = s.bytes := by
  unfold xclrBody
  simp

/-! Crew accesses. -/

@[simp] theorem crewIssue_bytes (addr : Int) (n al : Nat) (mk : Nat → Access) (go : Access → State → State) (s : State)
    (h : ∀ a s, (go a s).bytes = s.bytes) : (crewIssue addr n al mk go s).bytes = s.bytes := by
  unfold crewIssue
  dsimp only
  repeat' split
  all_goals simp [h]

@[simp] theorem ldcBody_bytes (x : Args) (s : State) : (ldcBody x s).bytes = s.bytes := by
  unfold ldcBody
  simp

@[simp] theorem stcBody_bytes (x : Args) (s : State) : (stcBody x s).bytes = s.bytes := by
  unfold stcBody
  simp

@[simp] theorem vldcBody_bytes (x : Args) (s : State) : (vldcBody x s).bytes = s.bytes := by
  unfold vldcBody
  simp

@[simp] theorem vstcBody_bytes (x : Args) (s : State) : (vstcBody x s).bytes = s.bytes := by
  unfold vstcBody
  simp

@[simp] theorem amocBody_bytes (form : Nat) (x : Args) (s : State) : (amocBody form x s).bytes = s.bytes := by
  unfold amocBody
  simp

/-! Messages, bindings and the full/empty forms. -/

@[simp] theorem State.bindWalk_bytes (s : State) (cluster : Nat) (l : Launch) : (s.bindWalk cluster l).bytes = s.bytes := by
  unfold State.bindWalk
  refine State.bytes_foldl _ _ _ (fun s b => ?_)
  split <;> rename_i h
  · simp [State.bytes_of_snd h]
  · split <;> simp [State.bytes_of_snd h]

@[simp] theorem State.useBinds_bytes (s : State) : (s.useBinds).bytes = s.bytes := by
  unfold State.useBinds
  simp

@[simp] theorem State.setBind_bytes (s : State) (l : Launch) (i e : Nat) : (s.setBind l i e).bytes = s.bytes := by
  unfold State.setBind
  dsimp only
  split <;> simp

@[simp] theorem State.bindRecord_bytes (s : State) (a : Access) (ws : List RegW) (f : Nat × Nat) :
    (s.bindRecord a ws f).bytes = s.bytes := (rfl)

@[simp] theorem bindCheck_bytes (op : Nat) (x : Args) (f : Nat → Nat → Nat → Nat → State → State) (s : State)
    (h : ∀ a b c d s, (f a b c d s).bytes = s.bytes) : (bindCheck op x f s).bytes = s.bytes := by
  unfold bindCheck
  dsimp only
  repeat' split
  all_goals simp [h]

@[simp] theorem State.bindIn_bytes (s : State) (obj start len scope : Nat) : (s.bindIn obj start len scope).2.bytes = s.bytes := by
  unfold State.bindIn
  dsimp only
  split <;> simp

@[simp] theorem State.bindOut_bytes (s : State) (obj start len scope : Nat) : (s.bindOut obj start len scope).2.bytes = s.bytes := by
  unfold State.bindOut
  simp

@[simp] theorem bindBody_bytes (x : Args) (s : State) : (bindBody x s).bytes = s.bytes := by
  unfold bindBody
  simp

@[simp] theorem unbindBody_bytes (x : Args) (s : State) : (unbindBody x s).bytes = s.bytes := by
  unfold unbindBody
  simp

@[simp] theorem State.rebind_bytes (s : State) (op : Nat) (e : Entry) (a : Access) : (s.rebind op e a).bytes = s.bytes := by
  unfold State.rebind
  dsimp only
  (repeat' split) <;> simp

@[simp] theorem State.release_bytes (s : State) (es : List Nat) (j : Join) : (s.release es j).bytes = s.bytes := by
  unfold State.release
  simp

@[simp] theorem fillGBody_bytes (x : Args) (s : State) : (fillGBody x s).bytes = s.bytes := by
  unfold fillGBody
  split <;> simp

@[simp] theorem recvFeGBody_bytes (x : Args) (s : State) : (recvFeGBody x s).bytes = s.bytes := by
  unfold recvFeGBody
  dsimp only
  split <;> simp

@[simp] theorem State.claimOne_bytes (s : State) (g : Nat) (e : Entry) (m : Msg) : (s.claimOne g e m).bytes = s.bytes := by
  unfold State.claimOne
  simp

@[simp] theorem State.claims_bytes (s : State) (g : Nat) : (s.claims g).bytes = s.bytes := by
  unfold State.claims
  split
  · rfl
  · exact State.bytes_foldl _ _ _ (fun s e => by (repeat' split) <;> simp)

@[simp] theorem State.replyStatus_bytes (s : State) (m : Sent) (die stop lane val : Nat) :
    (s.replyStatus m die stop lane val).bytes = s.bytes := by
  unfold State.replyStatus
  (repeat' split) <;> simp

@[simp] theorem State.discard_bytes (s : State) (g : Nat) (m : Msg) : (s.discard g m).bytes = s.bytes := by
  unfold State.discard
  split <;> simp

@[simp] theorem State.received_bytes (s : State) (g : Nat) (m : Msg) : (s.received g m).bytes = s.bytes := by
  unfold State.received
  dsimp only
  (repeat' split) <;> simp

@[simp] theorem State.holdFor_bytes (s : State) (thread u : Nat) : (s.holdFor thread u).bytes = s.bytes := by
  unfold State.holdFor
  simp

@[simp] theorem State.delSent_bytes (s : State) (u : Nat) : (s.delSent u).bytes = s.bytes := (rfl)

@[simp] theorem State.hasLeft_bytes (s : State) (node box : Nat) (m : Msg) : (s.hasLeft node box m).bytes = s.bytes := (rfl)

@[simp] theorem State.toHost_bytes (s : State) (die node box : Nat) (m : Msg) : (s.toHost die node box m).bytes = s.bytes := by
  unfold State.toHost
  simp

@[simp] theorem State.noticeHost_bytes (s : State) (u : Nat) (x : Sent) : (s.noticeHost u x).bytes = s.bytes := by
  unfold State.noticeHost
  simp

@[simp] theorem State.answered_bytes (s : State) (u : Nat) (x : Sent) (node box status : Nat) :
    (s.answered u x node box status).bytes = s.bytes := by
  unfold State.answered
  split <;> simp

@[simp] theorem State.routeMsg_bytes (s : State) (u from_ : Nat) : (s.routeMsg u from_).bytes = s.bytes := by
  unfold State.routeMsg
  dsimp only
  split <;> simp

@[simp] theorem State.sendFrom_bytes (s : State) (die stop : Nat) (x : Sent) : (s.sendFrom die stop x).bytes = s.bytes := by
  unfold State.sendFrom
  simp

@[simp] theorem State.sendOff_bytes (s : State) (u from_ : Nat) : (s.sendOff u from_).bytes = s.bytes := by
  unfold State.sendOff
  simp

@[simp] theorem State.sendRelease_bytes (s : State) (es : List Nat) (m : Nat) : (s.sendRelease es m).bytes = s.bytes := by
  unfold State.sendRelease
  simp

@[simp] theorem sendBody_bytes (fn : Nat) (x : Args) (s : State) : (sendBody fn x s).bytes = s.bytes := by
  unfold sendBody
  simp

@[simp] theorem recvMbBody_bytes (x : Args) (s : State) : (recvMbBody x s).bytes = s.bytes := by
  unfold recvMbBody
  dsimp only
  split <;> simp

@[simp] theorem recvJobBody_bytes (x : Args) (s : State) : (recvJobBody x s).bytes = s.bytes := by
  unfold recvJobBody
  simp

@[simp] theorem probeBody_bytes (x : Args) (s : State) : (probeBody x s).bytes = s.bytes := (rfl)

/-! Barriers and fences. -/

@[simp] theorem State.setBarrier_bytes (s : State) (k : Nat) (b : Barrier) : (s.setBarrier k b).bytes = s.bytes := (rfl)

@[simp] theorem barCheck_bytes (op fn : Nat) (x : Args) (go : Nat → Barrier → State → State) (s : State)
    (h : ∀ k b s, (go k b s).bytes = s.bytes) : (barCheck op fn x go s).bytes = s.bytes := by
  unfold barCheck
  dsimp only
  split <;> simp [h]

@[simp] theorem barBody_bytes (x : Args) (s : State) : (barBody x s).bytes = s.bytes := by
  unfold barBody
  simp

@[simp] theorem State.landBar_bytes (s : State) (g k completed : Nat) : (s.landBar g k completed).bytes = s.bytes := by
  unfold State.landBar
  split
  · rfl
  · exact State.bytes_foldl _ _ _ (fun s e => by split <;> simp)

@[simp] theorem recvBarBody_bytes (x : Args) (s : State) : (recvBarBody x s).bytes = s.bytes := by
  unfold recvBarBody
  dsimp only
  simp

@[simp] theorem fenceBody_bytes (x : Args) (s : State) : (fenceBody x s).bytes = s.bytes := (rfl)

/-! The matrix engine. -/

@[simp] theorem State.updCore_bytes (s : State) (c : Nat) (f : Core → Core) : (s.updCore c f).bytes = s.bytes := (rfl)

@[simp] theorem State.ringNow_bytes (s : State) (op fn : Nat) : (s.ringNow op fn).bytes = s.bytes := (rfl)

@[simp] theorem mshapeBody_bytes (x : Args) (s : State) : (mshapeBody x s).bytes = s.bytes := by
  unfold mshapeBody
  simp

@[simp] theorem mzeroBody_bytes (x : Args) (s : State) : (mzeroBody x s).bytes = s.bytes := by
  unfold mzeroBody
  simp

@[simp] theorem mmaBody_bytes (x : Args) (s : State) : (mmaBody x s).bytes = s.bytes := by
  unfold mmaBody
  dsimp only
  split <;> simp

@[simp] theorem State.updEngine_bytes (s : State) (c : Nat) (f : Engine → Engine) : (s.updEngine c f).bytes = s.bytes := (rfl)

@[simp] theorem State.wakeEngine_bytes (s : State) (c : Nat) : (s.wakeEngine c).bytes = s.bytes := by
  unfold State.wakeEngine
  simp

@[simp] theorem State.registerBatches_bytes (s : State) (c limit : Nat) (n : Nat) : (s.registerBatches c limit n).bytes = s.bytes := by
  induction n generalizing s with
  | zero => simp [State.registerBatches]
  | succ n ih =>
    unfold State.registerBatches
    dsimp only
    repeat' split
    all_goals simp [ih]

@[simp] theorem State.queueBatches_bytes (s : State) (c : Nat) (n : Nat) : (s.queueBatches c n).bytes = s.bytes := by
  induction n generalizing s with
  | zero => simp [State.queueBatches]
  | succ n ih =>
    unfold State.queueBatches
    dsimp only
    repeat' split
    all_goals simp [ih]

@[simp] theorem State.letIn_bytes (s : State) (c : Nat) : (s.letIn c).bytes = s.bytes := by
  unfold State.letIn
  dsimp only
  split <;> simp

@[simp] theorem mcommitBody_bytes (x : Args) (s : State) : (mcommitBody x s).bytes = s.bytes := by
  unfold mcommitBody
  simp

@[simp] theorem State.finishBatch_bytes (s : State) (c : Nat) (b : Batch) : (s.finishBatch c b).bytes = s.bytes := by
  unfold State.finishBatch
  dsimp only
  split <;> simp

@[simp] theorem State.startStep_bytes (s : State) (c : Nat) (n : Nat) : (s.startStep c n).bytes = s.bytes := by
  induction n generalizing s with
  | zero => simp [State.startStep]
  | succ n ih =>
    unfold State.startStep
    dsimp only
    repeat' split
    all_goals simp [ih]

@[simp] theorem State.claimTurn_bytes (s : State) (c : Nat) : (s.claimTurn c).bytes = s.bytes := (rfl)

@[simp] theorem State.turnCycle_bytes (s : State) (c : Nat) : (s.turnCycle c).bytes = s.bytes := by
  unfold State.turnCycle
  split <;> simp

@[simp] theorem State.endMove_bytes (s : State) (c : Nat) (v : Move) : (s.endMove c v).bytes = s.bytes := by
  unfold State.endMove
  simp

@[simp] theorem State.turnEnd_bytes (s : State) (c : Nat) : (s.turnEnd c).bytes = s.bytes := by
  unfold State.turnEnd
  dsimp only
  (repeat' split) <;> simp

@[simp] theorem moveBody_bytes (store : Bool) (fn : Nat) (x : Args) (s : State) : (moveBody store fn x s).bytes = s.bytes := by
  unfold moveBody
  dsimp only
  split <;> simp

/-! Copies. -/

@[simp] theorem State.copyReq_bytes (s : State) (c : Copy) (t : Trans) (kind : AccKind) (line tag : Nat) (pkg : Bool)
    (data : Line) (mask : BitVec 64) (at_ : Nat) :
    (s.copyReq c t kind line tag pkg data mask at_).bytes = s.bytes := by
  unfold State.copyReq
  simp

@[simp] theorem State.flushL2_bytes (s : State) (die pa attr : Nat) (inval : Bool) : (s.flushL2 die pa attr inval).bytes = s.bytes := by
  unfold State.flushL2
  dsimp only
  split <;> simp

@[simp] theorem State.updCopy_bytes (s : State) (id : Nat) (f : Copy → Copy) : (s.updCopy id f).bytes = s.bytes := (rfl)

@[simp] theorem State.updCu_bytes (s : State) (c : Nat) (f : CopyUnit → CopyUnit) : (s.updCu c f).bytes = s.bytes := (rfl)

@[simp] theorem State.copyAdvance_bytes (s : State) (cl : Nat) (n : Nat) : (s.copyAdvance cl n).bytes = s.bytes := by
  induction n generalizing s with
  | zero => simp [State.copyAdvance]
  | succ n ih =>
    unfold State.copyAdvance
    dsimp only
    repeat' split
    all_goals simp [ih]

@[simp] theorem State.sendLines_bytes (s : State) (id : Nat) (lines : List Nat) : (s.sendLines id lines).bytes = s.bytes := by
  unfold State.sendLines
  exact State.bytes_foldl _ _ _ (fun s l => by split <;> simp)

@[simp] theorem State.copySend_bytes (s : State) (cl : Nat) (n : Nat) : (s.copySend cl n).bytes = s.bytes := by
  induction n generalizing s with
  | zero => simp [State.copySend]
  | succ n ih =>
    unfold State.copySend
    dsimp only
    repeat' split
    all_goals simp [ih]

@[simp] theorem State.copyGo_bytes (s : State) (id : Nat) : (s.copyGo id).bytes = s.bytes := by
  unfold State.copyGo
  simp

@[simp] theorem State.copyFlush_bytes (s : State) (id : Nat) : (s.copyFlush id).bytes = s.bytes := by
  unfold State.copyFlush
  simp

@[simp] theorem State.copyPages_bytes (s : State) (id : Nat) : (s.copyPages id).bytes = s.bytes := by
  unfold State.copyPages
  dsimp only
  generalize hr : List.foldl _ (s, (s.copy id).pages, []) _ = r
  have h : r.1.bytes = s.bytes := by
    rw [← hr]
    refine State.bytes_foldl_acc (fun r : State × List Trans × List Nat => r.1) _ _ _ (fun r b => ?_)
    split
    · rfl
    · split <;> exact (State.bytes_of_snd ‹_›).trans (State.tlb_bytes _ _ _ _)
  split
  · simp [h]
  · split <;> simp [h]

@[simp] theorem State.copyDesc_bytes (s : State) (id : Nat) : (s.copyDesc id).bytes = s.bytes := by
  unfold State.copyDesc
  dsimp only
  split <;> rename_i h <;> simp [State.bytes_of_snd h]

@[simp] theorem State.copyBegin_bytes (s : State) (id : Nat) : (s.copyBegin id).bytes = s.bytes := by
  unfold State.copyBegin
  simp

@[simp] theorem State.copyNext_bytes (s : State) (cl : Nat) : (s.copyNext cl).bytes = s.bytes := by
  unfold State.copyNext
  simp

@[simp] theorem State.laneChunk_bytes (s : State) (port id i : Nat) (kind : AccKind) (off : Nat) (data : VPair) (t : Nat) :
    (s.laneChunk port id i kind off data t).bytes = s.bytes := by
  unfold State.laneChunk
  simp

@[simp] theorem State.deliverChunk_bytes (s : State) (c : Copy) (i : Nat) (data : VPair) (t : Nat) :
    (s.deliverChunk c i data t).bytes = s.bytes := by
  unfold State.deliverChunk
  simp

@[simp] theorem State.finishCopy_bytes (s : State) (id fault : Nat) : (s.finishCopy id fault).bytes = s.bytes := by
  unfold State.finishCopy
  dsimp only
  split <;> simp

@[simp] theorem State.copyCheck_bytes (s : State) (id : Nat) : (s.copyCheck id).bytes = s.bytes := by
  unfold State.copyCheck
  simp

@[simp] theorem State.storeChunk_bytes (s : State) (id i : Nat) : (s.storeChunk id i).bytes = s.bytes := by
  unfold State.storeChunk
  simp only [State.copyCheck_bytes, State.updCopy_bytes]
  refine State.bytes_foldl_acc (fun r : State × Nat => r.1) _ _ _ (fun r l => ?_)
  split <;> simp

@[simp] theorem copyBody_bytes (kind : Nat) (x : Args) (s : State) : (copyBody kind x s).bytes = s.bytes := by
  unfold copyBody
  dsimp only
  split <;> simp

/-! Tiles. -/

@[simp] theorem State.setTile_bytes (s : State) (o : Nat) (x : Tile) : (s.setTile o x).bytes = s.bytes := (rfl)

@[simp] theorem State.tileFault_bytes (s : State) (o code addr : Nat) : (s.tileFault o code addr).bytes = s.bytes := by
  unfold State.tileFault
  simp

@[simp] theorem State.tileBegin_bytes (s : State) (o : Nat) : (s.tileBegin o).bytes = s.bytes := by
  unfold State.tileBegin
  dsimp only
  split
  · simp [State.bytes_of_snd ‹_›]
  rename_i t s' h0
  have h1 : s'.bytes = s.bytes := (State.bytes_of_snd h0).trans (State.tlb_bytes _ _ _ _)
  split
  · simp [h1]
  generalize hr : List.foldl _ _ _ = r
  have h : r.1.bytes = s.bytes := by
    rw [← hr, ← h1]
    refine State.bytes_foldl_acc (fun r : State × List Trans × List Nat => r.1) _ _ _ (fun r b => ?_)
    split <;> exact (State.bytes_of_snd ‹_›).trans (State.tlb_bytes _ _ _ _)
  repeat' split
  all_goals simp [h]

@[simp] theorem State.tilePond_bytes (s : State) (o : Nat) : (s.tilePond o).bytes = s.bytes := by
  unfold State.tilePond
  simp

@[simp] theorem State.tileLine_bytes (s : State) (o l t : Nat) : (s.tileLine o l t).bytes = s.bytes := by
  unfold State.tileLine
  dsimp only
  split <;> simp

@[simp] theorem State.tileLines_bytes (s : State) (o : Nat) : (s.tileLines o).bytes = s.bytes := by
  unfold State.tileLines
  simp

@[simp] theorem State.tileMissed_bytes (s : State) (o : Nat) : (s.tileMissed o).bytes = s.bytes := by
  unfold State.tileMissed
  simp

@[simp] theorem State.tileTry_bytes (s : State) (o : Nat) : (s.tileTry o).bytes = s.bytes := by
  unfold State.tileTry
  simp

@[simp] theorem State.tileServed_bytes (s : State) (o : Nat) : (s.tileServed o).bytes = s.bytes := by
  unfold State.tileServed
  simp

@[simp] theorem State.tileEnd_bytes (s : State) (o : Nat) : (s.tileEnd o).bytes = s.bytes := by
  unfold State.tileEnd
  simp

@[simp] theorem tileBody_bytes (kind : AccKind) (x : Args) (s : State) : (tileBody kind x s).bytes = s.bytes := by
  unfold tileBody
  simp

/-! The combine buffer. -/

@[simp] theorem State.setQueue_bytes (s : State) (die q : Nat) (x : CQueue) : (s.setQueue die q x).bytes = s.bytes := (rfl)

@[simp] theorem State.setCslot_bytes (s : State) (die n : Nat) (x : CSlot) : (s.setCslot die n x).bytes = s.bytes := (rfl)

@[simp] theorem State.combine_bytes (s : State) (die n : Nat) : (s.combine die n).bytes = s.bytes := (rfl)

@[simp] theorem State.answer_bytes (s : State) (die stop c val : Nat) (flt : Option (Nat × Nat)) :
    (s.answer die stop c val flt).bytes = s.bytes := by
  unfold State.answer
  simp

@[simp] theorem State.serveCbq_bytes (s : State) (die c : Nat) : (s.serveCbq die c).bytes = s.bytes := by
  unfold State.serveCbq
  simp

@[simp] theorem State.serveCbres_bytes (s : State) (die c : Nat) : (s.serveCbres die c).bytes = s.bytes := by
  unfold State.serveCbres
  dsimp only
  (repeat' split) <;> simp

@[simp] theorem State.serveCbstat_bytes (s : State) (die c : Nat) : (s.serveCbstat die c).bytes = s.bytes := by
  unfold State.serveCbstat
  simp

@[simp] theorem State.deposit_bytes (s : State) (die n gen expert : Nat) (data : VPair) :
    (s.deposit die n gen expert data).2.bytes = s.bytes := by
  unfold State.deposit
  dsimp only
  (repeat' split) <;> simp

@[simp] theorem State.sendRels_bytes (s : State) (die q : Nat) (n : Nat) : (s.sendRels die q n).bytes = s.bytes := by
  induction n generalizing s with
  | zero => simp [State.sendRels]
  | succ n ih =>
    unfold State.sendRels
    dsimp only
    repeat' split
    all_goals simp [ih]

@[simp] theorem State.releaseSlot_bytes (s : State) (die n : Nat) : (s.releaseSlot die n).bytes = s.bytes := by
  unfold State.releaseSlot
  simp

@[simp] theorem State.pumpQueue_bytes (s : State) (die q : Nat) (n : Nat) : (s.pumpQueue die q n).bytes = s.bytes := by
  induction n generalizing s with
  | zero => simp [State.pumpQueue]
  | succ n ih =>
    unfold State.pumpQueue
    dsimp only
    repeat' split
    all_goals simp [ih]

@[simp] theorem ctlIssue_bytes (op fn kind : Nat) (x : Args) (r : List Word) (gates : VReg) (stop : Nat) (s : State) :
    (ctlIssue op fn kind x r gates stop s).bytes = s.bytes := by
  unfold ctlIssue
  simp

@[simp] theorem cbqBody_bytes (x : Args) (s : State) : (cbqBody x s).bytes = s.bytes := by
  unfold cbqBody
  simp

@[simp] theorem cbresBody_bytes (x : Args) (s : State) : (cbresBody x s).bytes = s.bytes := by
  unfold cbresBody
  simp

@[simp] theorem cbstatBody_bytes (x : Args) (s : State) : (cbstatBody x s).bytes = s.bytes := by
  unfold cbstatBody
  simp

@[simp] theorem cbputBody_bytes (x : Args) (s : State) : (cbputBody x s).bytes = s.bytes := by
  unfold cbputBody
  simp

/-! The windrose. -/

@[simp] theorem State.setGraph_bytes (s : State) (die h : Nat) (x : Graph) : (s.setGraph die h x).bytes = s.bytes := (rfl)

@[simp] theorem State.setRun_bytes (s : State) (r : Nat) (x : Run) : (s.setRun r x).bytes = s.bytes := (rfl)

@[simp] theorem State.lineAtLlc_bytes (s : State) (line attr : Nat) : (s.lineAtLlc line attr).2.bytes = s.bytes := by
  unfold State.lineAtLlc
  simp

@[simp] theorem State.windowRead_bytes (s : State) (pa : Nat) : (s.windowRead pa).2.bytes = s.bytes := by
  unfold State.windowRead
  split <;> simp

@[simp] theorem State.imageBytes_bytes (s : State) (ctx va n : Nat) : (s.imageBytes ctx va n).2.bytes = s.bytes := by
  unfold State.imageBytes
  split
  · rfl
  · refine State.bytes_foldl_acc (fun p : List Nat × State => p.2) _ _ _ (fun p i => ?_)
    dsimp only
    repeat' split
    all_goals simp

@[simp] theorem State.readGraph_bytes (s : State) (ctx va : Nat) : (s.readGraph ctx va).2.bytes = s.bytes := by
  rw [State.readGraph]
  split <;> rename_i h
  · exact (State.bytes_of_snd h).trans (State.imageBytes_bytes s ctx va 64)
  · have h1 := (State.bytes_of_snd h).trans (State.imageBytes_bytes s ctx va 64)
    split <;> rename_i h'
    · exact (State.bytes_of_snd h').trans ((State.imageBytes_bytes _ _ _ _).trans h1)
    · exact (State.bytes_of_snd h').trans ((State.imageBytes_bytes _ _ _ _).trans h1)

@[simp] theorem State.windFault_bytes (s : State) (slot uid seq thread ctx code detail : Nat) :
    (s.windFault slot uid seq thread ctx code detail).bytes = s.bytes := (rfl)

@[simp] theorem State.windStatus_bytes (s : State) (slot uid v : Nat) : (s.windStatus slot uid v).bytes = s.bytes := (rfl)

@[simp] theorem windIssue_bytes (fn : Nat) (x : Args) (s : State) : (windIssue fn x s).2.2.bytes = s.bytes := (rfl)

@[simp] theorem cgloadImage_bytes (x : Args) (s : State) : (cgloadImage x s).bytes = s.bytes := by
  unfold cgloadImage
  simp

@[simp] theorem State.mergeTaken_bytes (s : State) (m rank : Nat) : (s.mergeTaken m rank).bytes = s.bytes := (rfl)

@[simp] theorem State.forgetRank_bytes (s : State) (die : Nat) (g : Graph) : (s.forgetRank die g).bytes = s.bytes := by
  unfold State.forgetRank
  simp

@[simp] theorem cgloadUnloadBody_bytes (x : Args) (s : State) : (cgloadUnloadBody x s).bytes = s.bytes := by
  unfold cgloadUnloadBody
  simp

@[simp] theorem cgstatBody_bytes (x : Args) (s : State) : (cgstatBody x s).bytes = s.bytes := by
  unfold cgstatBody
  simp

@[simp] theorem cgrunBody_bytes (fn : Nat) (at_ : Option Nat) (x : Args) (s : State) : (cgrunBody fn at_ x s).bytes = s.bytes := by
  unfold cgrunBody
  simp

@[simp] theorem State.roseRead_bytes (s : State) (die pa attr : Nat) : (s.roseRead die pa attr).2.bytes = s.bytes := by
  unfold State.roseRead
  split <;> simp

@[simp] theorem State.rangeRead_bytes (s : State) (r : Run) (base off n : Nat) : (s.rangeRead r base off n).2.bytes = s.bytes := by
  unfold State.rangeRead
  split
  · rfl
  · exact State.bytes_foldl_acc (fun p : List Nat × State => p.2) _ _ _ (fun p l => by simp)

@[simp] theorem State.elemsOf_bytes (s : State) (r : Run) (g : Graph) (n : GNode) (base off : Nat) (acc : Bool) :
    (s.elemsOf r g n base off acc).2.bytes = s.bytes := by
  unfold State.elemsOf
  simp

@[simp] theorem State.startNodes_bytes (s : State) (id : Nat) (ns : List Nat) : (s.startNodes id ns).bytes = s.bytes := by
  unfold State.startNodes
  simp

@[simp] theorem State.runCheck_bytes (s : State) (id : Nat) : (s.runCheck id).bytes = s.bytes := by
  unfold State.runCheck
  simp

@[simp] theorem State.nodeFails_bytes (s : State) (id i : Nat) : (s.nodeFails id i).bytes = s.bytes := by
  unfold State.nodeFails
  simp

@[simp] theorem State.nodeDone_bytes (s : State) (id i : Nat) : (s.nodeDone id i).bytes = s.bytes := by
  unfold State.nodeDone
  simp

@[simp] theorem State.nodeWrote_bytes (s : State) (id i : Nat) : (s.nodeWrote id i).bytes = s.bytes := by
  unfold State.nodeWrote
  simp

@[simp] theorem State.sendAway_bytes (s : State) (r : Run) (g : Graph) (n : GNode) (flits : List Line) :
    (s.sendAway r g n flits).bytes = s.bytes := by
  unfold State.sendAway
  simp

@[simp] theorem State.sendHere_bytes (s : State) (r : Run) (g : Graph) (n : GNode) (flits : List Line) :
    (s.sendHere r g n flits).bytes = s.bytes := by
  unfold State.sendHere
  simp

theorem State.sendNode_bytes (s : State) (id i : Nat) (wait : State) (h : wait.bytes = s.bytes) :
    (s.sendNode id i wait).bytes = s.bytes := by
  unfold State.sendNode
  dsimp only
  repeat' split
  all_goals simp [h]

@[simp] theorem State.leaveMerges_bytes (s : State) (id rank : Nat) : (s.leaveMerges id rank).bytes = s.bytes := by
  unfold State.leaveMerges
  simp

@[simp] theorem State.postCredits_bytes (s : State) (id : Nat) : (s.postCredits id).bytes = s.bytes := by
  unfold State.postCredits
  exact State.bytes_foldl _ _ _ (fun s ni => by dsimp only; (repeat' split) <;> simp)

@[simp] theorem State.startRun_bytes (s : State) (id : Nat) : (s.startRun id).bytes = s.bytes := by
  unfold State.startRun
  simp

@[simp] theorem State.runBases_bytes (s : State) (r : Run) : (s.runBases r).2.bytes = s.bytes := by
  unfold State.runBases
  refine State.bytes_foldl_acc (fun p : (List Nat ⊕ (Nat × Nat)) × State => p.2) _ _ _ (fun p a => ?_)
  repeat' split
  all_goals simp

@[simp] theorem State.acceptRun_bytes (s : State) (id : Nat) : (s.acceptRun id).bytes = s.bytes := by
  unfold State.acceptRun
  dsimp only
  split
  · simp
  split
  · simp
  split <;> rename_i h
  · simp [State.bytes_of_snd h]
  · split
    · simp [State.bytes_of_snd h]
    · split <;> simp [State.bytes_of_snd h]

/-! Landing. -/

@[simp] theorem State.landEntry_bytes (s : State) (g0 uid : Nat) : (s.landEntry g0 uid).bytes = s.bytes := by
  unfold State.landEntry
  split <;> simp

@[simp] theorem State.takeData_bytes (s : State) (q : GReq) (slot uid : Nat) : (s.takeData q slot uid).bytes = s.bytes := by
  unfold State.takeData
  simp

@[simp] theorem State.mergeL1_bytes (s : State) (core r : Nat) (q : GReq) : (s.mergeL1 core r q).bytes = s.bytes := by
  unfold State.mergeL1
  (repeat' split) <;> simp

@[simp] theorem State.windowBack_bytes (s : State) (r : Nat) (data : Line) : (s.windowBack r data).bytes = s.bytes := by
  unfold State.windowBack
  simp

@[simp] theorem State.icacheAsk_bytes (s : State) (c pa attr : Nat) : (s.icacheAsk c pa attr).bytes = s.bytes := by
  unfold State.icacheAsk
  simp

@[simp] theorem State.askLine_bytes (s : State) (c ctx va : Nat) (w : Waiter) : (s.askLine c ctx va w).bytes = s.bytes := by
  unfold State.askLine
  split
  · rfl
  · split <;> rename_i h
    · simp [State.bytes_of_snd h]
    · split <;> simp [State.bytes_of_snd h]

@[simp] theorem State.settleCode_bytes (s : State) : (s.settleCode).bytes = s.bytes := (rfl)

/-! The system and its sessions. -/

@[simp] theorem State.savedLate_bytes (s : State) (g code seq detail img : Nat) :
    (s.savedLate g code seq detail img).bytes = s.bytes := (rfl)

@[simp] theorem State.forwardTrap_bytes (s : State) (m : Msg) (from_ : Nat) : (s.forwardTrap m from_).bytes = s.bytes := by
  unfold State.forwardTrap
  simp

@[simp] theorem State.raiseAt_bytes (s : State) (g code ix detail : Nat) : (s.raiseAt g code ix detail).bytes = s.bytes := by
  unfold State.raiseAt
  simp

@[simp] theorem State.reissue_bytes (s : State) (g : Nat) (e : Entry) : (s.reissue g e).1.bytes = s.bytes := by
  unfold State.reissue
  dsimp only
  (repeat' split) <;> simp

@[simp] theorem State.reissueAll_bytes (s : State) (g : Nat) (l : List Entry) : (s.reissueAll g l).1.bytes = s.bytes := by
  induction l generalizing s with
  | nil => rfl
  | cons e l ih =>
    have he := s.reissue_bytes g e
    unfold State.reissueAll
    split <;> rename_i h <;> rw [h] at he
    · exact he
    · exact (ih _).trans he

@[simp] theorem State.resumeSlot_bytes (s : State) (g mode : Nat) : (s.resumeSlot g mode).bytes = s.bytes := by
  unfold State.resumeSlot
  dsimp only
  split
  · split <;> rename_i h <;> simp [State.bytes_of_fst h]
  · simp

@[simp] theorem slotgoBody_bytes (x : Args) (s : State) : (slotgoBody x s).bytes = s.bytes := by
  unfold slotgoBody
  simp

@[simp] theorem State.emptyL1_bytes (s : State) (core : Nat) (sink : Sink) : (s.emptyL1 core sink).bytes = s.bytes := by
  unfold State.emptyL1
  simp

@[simp] theorem State.cleanL1_bytes (s : State) (core : Nat) : (s.cleanL1 core).2.bytes = s.bytes := by
  unfold State.cleanL1
  dsimp only
  split <;> simp

@[simp] theorem State.transfer_bytes (s : State) (src dst : Nat) : (s.transfer src dst).bytes = s.bytes := by
  unfold State.transfer
  simp

@[simp] theorem State.serveQueue_bytes (s : State) (c : Nat) (n : Nat) : (s.serveQueue c n).bytes = s.bytes := by
  induction n generalizing s with
  | zero => rfl
  | succ n ih =>
    unfold State.serveQueue
    split <;> simp [ih]

@[simp] theorem State.sendOn_bytes (s : State) (g : Nat) (l : List Sending) : (s.sendOn g l).bytes = s.bytes := by
  unfold State.sendOn
  simp

@[simp] theorem State.toFmbox_bytes (s : State) (m : Msg) (die ctx : Nat) : (s.toFmbox m die ctx).bytes = s.bytes := by
  unfold State.toFmbox
  simp

@[simp] theorem State.toOwner_bytes (s : State) (m : Msg) (die ctx : Nat) (at_ c : Option Nat) :
    (s.toOwner m die ctx at_ c).bytes = s.bytes := by
  unfold State.toOwner
  (repeat' split) <;> simp

@[simp] theorem State.correct_bytes (s : State) (mill bank : Nat) : (s.correct mill bank).bytes = s.bytes := by
  unfold State.correct
  simp

@[simp] theorem State.countCorrected_bytes (s : State) (k : Nat) : (s.countCorrected k).bytes = s.bytes := (rfl)

@[simp] theorem State.l1Error_bytes (s : State) (core p : Nat) : (s.l1Error core p).1.bytes = s.bytes := by
  unfold State.l1Error
  (repeat' split) <;> simp

@[simp] theorem State.resend_bytes (s : State) (u k : Nat) : (s.resend u k).bytes = s.bytes := by
  unfold State.resend
  dsimp only
  split <;> simp

@[simp] theorem State.setWindow_bytes (s : State) (i base len node : Nat) : (s.setWindow i base len node).bytes = s.bytes := (rfl)

@[simp] theorem State.loadSupervisor_bytes (s : State) (c : Nat) : (s.loadSupervisor c).bytes = s.bytes := (rfl)

@[simp] theorem State.answerTo_bytes (s : State) (node : Nat) (a : Answer) : (s.answerTo node a).bytes = s.bytes := (rfl)

@[simp] theorem State.peerAccess_bytes (s : State) (node op ty mask pa tag operands : Nat) (data : Line) :
    (s.peerAccess node op ty mask pa tag operands data).bytes = s.bytes := (rfl)

@[simp] theorem State.peerResponse_bytes (s : State) (tag status : Nat) (data : Line) :
    (s.peerResponse tag status data).bytes = s.bytes := by
  unfold State.peerResponse
  (repeat' split) <;> simp

@[simp] theorem State.peerMessage_bytes (s : State) (node box tag : Nat) (m : Msg) : (s.peerMessage node box tag m).bytes = s.bytes := by
  unfold State.peerMessage
  dsimp only
  split <;> simp

@[simp] theorem State.peerLink_bytes (s : State) (head : Line) (flits : List Line) : (s.peerLink head flits).bytes = s.bytes := by
  unfold State.peerLink
  dsimp only
  (repeat' split) <;> simp

@[simp] theorem State.management_bytes (s : State) (node : Nat) (head : Line) (rest : List Line) :
    (s.management node head rest).bytes = s.bytes := by
  unfold State.management
  split <;> simp

theorem State.packetIn_bytes {s t : State} {node cls : Nat} {ls : List Line} (h : s.packetIn node cls ls = some t) :
    t.bytes = s.bytes := by
  unfold State.packetIn at h
  dsimp only at h
  repeat' split at h
  all_goals cases h
  all_goals simp

@[simp] theorem State.receiveFlit_bytes (s : State) (port : Nat) (f : FFlit) : (s.receiveFlit port f).bytes = s.bytes := by
  unfold State.receiveFlit
  dsimp only
  generalize (if f.head = true then _ else _ : Nat × List Line) = part
  repeat' split
  case h_1 h => exact (State.packetIn_bytes h).trans (by simp)
  all_goals rfl

@[simp] theorem State.openRange_bytes (s : State) (ctx node start len : Nat) : (s.openRange ctx node start len).bytes = s.bytes := (rfl)

@[simp] theorem State.hostResponse_bytes (s : State) (die node tag status : Nat) (data : Line) :
    (s.hostResponse die node tag status data).bytes = s.bytes := (rfl)

@[simp] theorem State.manage_bytes (s : State) (node kind n iv tag body : Nat) : (s.manage node kind n iv tag body).bytes = s.bytes := by
  unfold State.manage
  simp

@[simp] theorem State.sessionAnswer_bytes (s : State) (node : Nat) (a : Answer) : (s.sessionAnswer node a).bytes = s.bytes := by
  unfold State.sessionAnswer
  split <;> simp

theorem State.command_bytes (s : State) (f : Nat → Nat → State) (h : ∀ a b, (f a b).bytes = s.bytes) :
    (s.command f).bytes = s.bytes := by
  unfold State.command
  dsimp only
  repeat' split
  all_goals simp [h]

/-! The dispatcher. -/

@[simp] theorem recvWorkBody_bytes (x : Args) (s : State) : (recvWorkBody x s).bytes = s.bytes := by
  unfold recvWorkBody
  dsimp only
  (repeat' split) <;> simp

@[simp] theorem State.startThread_bytes (s : State) (g : Nat) (it : Item) : (s.startThread g it).bytes = s.bytes := (rfl)

@[simp] theorem State.takeWork_bytes (s : State) (g : Nat) (it : Item) : (s.takeWork g it).bytes = s.bytes := by
  unfold State.takeWork
  simp

theorem State.placeItem_bytes {s t : State} {c : Nat} {it : Item} (h : s.placeItem c it = some t) : t.bytes = s.bytes := by
  unfold State.placeItem at h
  dsimp only at h
  repeat' split at h
  all_goals simp at h
  · obtain ⟨k, -, rfl⟩ := h
    simp
  · subst h
    simp
  · obtain ⟨g, -, rfl⟩ := h
    simp

theorem State.placeOldest_bytes {s : State} {c : Nat} {l : List Item} {r : State × List Item} (h : s.placeOldest c l = some r) :
    r.1.bytes = s.bytes := by
  induction l generalizing r with
  | nil => cases h
  | cons it l ih =>
    unfold State.placeOldest at h
    split at h
    · rename_i hp
      cases h
      exact State.placeItem_bytes hp
    · obtain ⟨r', h', rfl⟩ := Option.map_eq_some_iff.mp h
      exact ih (r := r') h'

@[simp] theorem spawnBody_bytes (x : Args) (s : State) : (spawnBody x s).bytes = s.bytes := by
  unfold spawnBody
  simp

@[simp] theorem launchBody_bytes (x : Args) (s : State) : (launchBody x s).bytes = s.bytes := by
  unfold launchBody
  simp

@[simp] theorem State.nextTask_bytes (s : State) (l q : Nat) : (s.nextTask l q).bytes = s.bytes := by
  unfold State.nextTask
  dsimp only
  (repeat' split) <;> simp

@[simp] theorem State.freeMill_bytes (s : State) (m : Nat) : (s.freeMill m).bytes = s.bytes := (rfl)

@[simp] theorem State.endLaunch_bytes (s : State) (l reason fault : Nat) : (s.endLaunch l reason fault).bytes = s.bytes := by
  unfold State.endLaunch
  simp

@[simp] theorem State.tidyLaunch_bytes (s : State) (l : Nat) : (s.tidyLaunch l).bytes = s.bytes := by
  unfold State.tidyLaunch
  simp

@[simp] theorem State.feedCrews_bytes (s : State) (l : Nat) : (s.feedCrews l).bytes = s.bytes := by
  unfold State.feedCrews
  simp

@[simp] theorem State.allot_bytes (s : State) (l c : Nat) : (s.allot l c).bytes = s.bytes := by
  unfold State.allot
  simp

theorem State.dispatchOne_bytes {s t : State} {die : Nat} (h : s.dispatchOne die = some t) : t.bytes = s.bytes := by
  unfold State.dispatchOne at h
  dsimp only at h
  repeat' split at h
  all_goals cases h
  all_goals simp

@[simp] theorem State.dispatchAll_bytes (s : State) (die : Nat) (n : Nat) : (s.dispatchAll die n).bytes = s.bytes := by
  induction n generalizing s with
  | zero => rfl
  | succ n ih =>
    unfold State.dispatchAll
    split
    · rename_i h
      exact (ih _).trans (State.dispatchOne_bytes h)
    · rfl

@[simp] theorem State.vacateAt_bytes (s : State) (l : Nat) (qs : List Nat) (t : Nat) : (s.vacateAt l qs t).bytes = s.bytes := by
  unfold State.vacateAt
  simp

@[simp] theorem State.sliceCheck_bytes (s : State) (l : Nat) : (s.sliceCheck l).bytes = s.bytes := by
  unfold State.sliceCheck
  dsimp only
  (repeat' split) <;> simp

@[simp] theorem State.tellHost_bytes (s : State) (ctx box : Nat) (m : Msg) : (s.tellHost ctx box m).bytes = s.bytes := by
  unfold State.tellHost
  simp

@[simp] theorem State.reply_bytes (s : State) (die ctx tag code : Nat) (ok : Bool) : (s.reply die ctx tag code ok).bytes = s.bytes := by
  unfold State.reply
  simp

@[simp] theorem State.recordOf_bytes (s : State) (x : Sent) : (s.recordOf x).2.bytes = s.bytes := by
  unfold State.recordOf
  dsimp only
  (repeat' split) <;> simp

@[simp] theorem State.recordStatus_bytes (s : State) (x : Sent) (die status id : Nat) :
    (s.recordStatus x die status id).bytes = s.bytes := by
  unfold State.recordStatus
  split <;> simp

@[simp] theorem State.takeRecord_bytes (s : State) (die ctx : Nat) (x : Sent) : (s.takeRecord die ctx x).bytes = s.bytes := by
  unfold State.takeRecord
  dsimp only
  repeat' split
  all_goals simp

@[simp] theorem State.takeCommand_bytes (s : State) (die ctx : Nat) (x : Sent) : (s.takeCommand die ctx x).bytes = s.bytes := by
  unfold State.takeCommand
  dsimp only
  split <;> simp

/-! Vacate and restore. -/

@[simp] theorem State.redraw_bytes (s : State) (l : Nat) (more : List Nat) : (s.redraw l more).bytes = s.bytes := by
  unfold State.redraw
  simp

@[simp] theorem State.regroup_bytes (s : State) (l : Nat) : (s.regroup l).bytes = s.bytes := by
  unfold State.regroup
  simp

@[simp] theorem State.unreserve_bytes (s : State) (d : Nat) : (s.unreserve d).bytes = s.bytes := (rfl)

@[simp] theorem State.unmigrate_bytes (s : State) (g : Nat) : (s.unmigrate g).bytes = s.bytes := by
  unfold State.unmigrate
  dsimp only
  (repeat' split) <;> simp

@[simp] theorem State.withdrawCrew_bytes (s : State) (ms : List Nat) : (s.withdrawCrew ms).bytes = s.bytes := by
  unfold State.withdrawCrew
  simp

@[simp] theorem State.releaseCrew_bytes (s : State) (l q : Nat) : (s.releaseCrew l q).bytes = s.bytes := by
  unfold State.releaseCrew
  simp

@[simp] theorem State.insertSaved_bytes (s : State) (l img : Nat) : (s.insertSaved l img).bytes = s.bytes := (rfl)

@[simp] theorem State.beginVacate_bytes (s : State) (l q : Nat) (ms : List Nat) : (s.beginVacate l q ms).bytes = s.bytes := by
  unfold State.beginVacate
  dsimp only
  split <;> simp

@[simp] theorem State.saveMill_bytes (s : State) (l img m : Nat) : (s.saveMill l img m).bytes = s.bytes := by
  unfold State.saveMill
  simp

@[simp] theorem State.fireChunk_bytes (s : State) (id i : Nat) (data : VPair) : (s.fireChunk id i data).bytes = s.bytes := by
  unfold State.fireChunk
  dsimp only
  split <;> simp

@[simp] theorem State.copyAgain_bytes (s : State) (id : Nat) : (s.copyAgain id).bytes = s.bytes := by
  unfold State.copyAgain
  simp

@[simp] theorem State.rebindWait_bytes (s : State) (g : Nat) (e : Entry) : (s.rebindWait g e).bytes = s.bytes := by
  unfold State.rebindWait
  split <;> simp

@[simp] theorem State.putSlot_bytes (s : State) (x : Slot) (g b : Nat) (new rekey : Nat → Nat) : (s.putSlot x g b new rekey).bytes = s.bytes := by
  unfold State.putSlot
  dsimp only
  refine (State.bytes_foldl _ _ _ (fun s f => by simp)).trans ((State.claims_bytes _ _).trans ?_)
  generalize hr : List.foldl _ (List.foldl _ _ _) _ = r
  have h : r.bytes = s.bytes := by
    rw [← hr]
    refine (State.bytes_foldl _ _ _ (fun s e => by split <;> simp)).trans ?_
    simp
  repeat' split
  all_goals simp [h]

@[simp] theorem State.restoreWork_bytes (s : State) (l q img : Nat) (im : SaveImage) (ms : List Nat) (map : List (Nat × Nat)) (key : Nat → Nat) :
    (s.restoreWork l q img im ms map key).bytes = s.bytes := (rfl)

@[simp] theorem State.restoreCopies_bytes (s : State) (l q : Nat) (im : SaveImage) (ms : List Nat) :
    (s.restoreCopies l q im ms).bytes = s.bytes := by
  unfold State.restoreCopies
  simp

@[simp] theorem State.restoreThreads_bytes (s : State) (im : SaveImage) (map : List (Nat × Nat)) (b : Nat) (key : Nat → Nat) :
    (s.restoreThreads im map b key).bytes = s.bytes := by
  unfold State.restoreThreads
  simp

@[simp] theorem State.restoreNotices_bytes (s : State) (map : List (Nat × Nat)) : (s.restoreNotices map).bytes = s.bytes := (rfl)

@[simp] theorem State.restartSlice_bytes (s : State) (l : Nat) : (s.restartSlice l).bytes = s.bytes := by
  unfold State.restartSlice
  simp

@[simp] theorem State.switchOut_bytes (s : State) (die ctx t : Nat) : (s.switchOut die ctx t).bytes = s.bytes := by
  unfold State.switchOut
  simp

@[simp] theorem State.switchOutAll_bytes (s : State) (ctx : Nat) : (s.switchOutAll ctx).bytes = s.bytes := by
  unfold State.switchOutAll
  simp

@[simp] theorem State.killLaunch_bytes (s : State) (l : Nat) : (s.killLaunch l).bytes = s.bytes := by
  unfold State.killLaunch
  dsimp only
  split
  · simp only [State.endLaunch_bytes]
    refine (State.bytes_foldl _ _ _ (fun s q => by simp)).trans ((State.bytes_foldl _ _ _ (fun s g => ?_)).trans (by simp))
    split <;> simp
  · refine (State.bytes_foldl _ _ _ (fun s q => by simp)).trans ((State.bytes_foldl _ _ _ (fun s g => ?_)).trans (by simp))
    split <;> simp

@[simp] theorem State.waitForm_bytes (s : State) (g : Nat) : (s.waitForm g).2.2.bytes = s.bytes := by
  unfold State.waitForm
  dsimp only
  generalize (s.slot g).st = st
  generalize List.find? _ (s.slot g).rb = o
  obtain _ | _ | why | _ | _ | _ | _ | _ := st
  case parked =>
    obtain _ | e := o
    · cases why <;> rfl
    · cases why
      case marker =>
        dsimp only
        rcases e.form with _ | (_ | _) | _ | _ | _ | _ | _ | _ | _ | _ <;> rfl
      all_goals rfl
  all_goals rfl

@[simp] theorem State.snapshotBody_bytes (s : State) (ctx : Nat) : (s.snapshotBody ctx).2.bytes = s.bytes := by
  rw [State.snapshotBody]
  refine State.bytes_foldl_acc (fun r : List Nat × State => r.2) _ _ _ (fun r g => ?_)
  dsimp only
  split
  · exact State.waitForm_bytes _ _
  · rfl

end Sys2Proof.Machine
end

section
/-! PROOFS. The events and the turn of a slot that write no byte of HBM, a pond or a save image. -/

namespace Sys2Proof.Machine

open Sys2Proof

/-- An outcome that is a next state leaves the bytes of a state alone. -/
def State.keptBy (s : State) (r : Result) : Prop := ∀ t, r = .next t → t.bytes = s.bytes

@[simp] theorem State.keptBy_next (s t : State) : s.keptBy (.next t) ↔ t.bytes = s.bytes :=
  ⟨fun h => h t rfl, fun h u e => by cases e; exact h⟩

@[simp] theorem State.keptBy_refused (s : State) (r : Refusal) : s.keptBy (.refused r) := fun _ e => by cases e

/-- The state that a delivery leaves. -/
def Deliv.state : Deliv → State
  | .ok s => s
  | .bounce s => s
  | .dropped s => s
  | .held s => s
  | .later s => s

theorem State.deliverSlot_bytes (s : State) (g u : Nat) (m : Msg) : (s.deliverSlot g u m).state.bytes = s.bytes := by
  unfold State.deliverSlot
  dsimp only
  repeat' split
  all_goals simp [Deliv.state]

@[simp] theorem execFlitHop_kept (s : State) : s.keptBy (execFlitHop s) := by
  unfold execFlitHop
  dsimp only
  (repeat' split) <;> simp

@[simp] theorem execTlbMissWalk_kept (s : State) : s.keptBy (execTlbMissWalk s) := by
  unfold execTlbMissWalk
  dsimp only
  (repeat' split) <;> simp

@[simp] theorem execWalkRetry_kept (s : State) : s.keptBy (execWalkRetry s) := by
  unfold execWalkRetry
  simp

@[simp] theorem execWalkAnswer_kept (s : State) : s.keptBy (execWalkAnswer s) := by
  unfold execWalkAnswer
  dsimp only
  split
  · simp only [State.keptBy_next]
    refine (State.bytes_foldl _ _ _ (fun s v => ?_)).trans (by simp)
    repeat' split
    all_goals simp
  · simp only [State.keptBy_next]
    refine (State.bytes_foldl _ _ _ (fun s v => ?_)).trans (by simp)
    repeat' split
    all_goals simp
  · simp

@[simp] theorem execSliceServe_kept (s : State) : s.keptBy (execSliceServe s) := by
  unfold execSliceServe
  dsimp only
  split <;> simp

@[simp] theorem execMissListRetry_kept (s : State) : s.keptBy (execMissListRetry s) := by
  unfold execMissListRetry
  simp

@[simp] theorem execL2Fill_kept (s : State) : s.keptBy (execL2Fill s) := by
  unfold execL2Fill
  dsimp only
  split <;> simp

@[simp] theorem execReadBudgetExpiry_kept (s : State) : s.keptBy (execReadBudgetExpiry s) := by
  unfold execReadBudgetExpiry
  simp

@[simp] theorem execHbmFill_kept (s : State) : s.keptBy (execHbmFill s) := by
  unfold execHbmFill
  simp

@[simp] theorem execFeTableRetry_kept (s : State) : s.keptBy (execFeTableRetry s) := by
  unfold execFeTableRetry
  simp

@[simp] theorem execTlbiComplete_kept (s : State) : s.keptBy (execTlbiComplete s) := by
  unfold execTlbiComplete
  split <;> simp

@[simp] theorem execBlockTurn_kept (s : State) : s.keptBy (execBlockTurn s) := by
  unfold execBlockTurn
  dsimp only
  (repeat' split) <;> simp

@[simp] theorem execCrewAccessArrive_kept (s : State) : s.keptBy (execCrewAccessArrive s) := by
  unfold execCrewAccessArrive
  dsimp only
  (repeat' split) <;> simp

@[simp] theorem execCrewResponse_kept (s : State) : s.keptBy (execCrewResponse s) := by
  unfold execCrewResponse
  simp

@[simp] theorem execBankRetireDecided_kept (s : State) : s.keptBy (execBankRetireDecided s) := by
  unfold execBankRetireDecided
  simp

@[simp] theorem execClusterRetire_kept (s : State) : s.keptBy (execClusterRetire s) := by
  unfold execClusterRetire
  split <;> simp

@[simp] theorem execCamSwitch_kept (s : State) : s.keptBy (execCamSwitch s) := by
  unfold execCamSwitch
  simp

@[simp] theorem execMessageDelivery_kept (s : State) : s.keptBy (execMessageDelivery s) := by
  unfold execMessageDelivery
  dsimp only
  split
  · simp
  split
  case h_1 =>
    generalize hr : State.deliverSlot _ _ _ _ = r
    have hd : r.state.bytes = s.bytes := by rw [← hr]; exact State.deliverSlot_bytes _ _ _ _
    cases r
    all_goals
      rw [Deliv.state] at hd
      dsimp only
      repeat' split
      all_goals simp [hd]
  all_goals
    repeat' split
    all_goals simp

@[simp] theorem execHeldMessageRetry_kept (s : State) : s.keptBy (execHeldMessageRetry s) := by
  unfold execHeldMessageRetry
  dsimp only
  split
  · simp
  split
  · simp
  generalize hr : State.deliverSlot _ _ _ _ = r
  have hd : r.state.bytes = s.bytes := by rw [← hr]; exact State.deliverSlot_bytes _ _ _ _
  cases r <;> simpa [Deliv.state] using hd

@[simp] theorem execSendStatus_kept (s : State) : s.keptBy (execSendStatus s) := by
  unfold execSendStatus
  split <;> simp

@[simp] theorem execBarrierArrival_kept (s : State) : s.keptBy (execBarrierArrival s) := by
  unfold execBarrierArrival
  dsimp only
  split <;> simp

@[simp] theorem execBarrierComplete_kept (s : State) : s.keptBy (execBarrierComplete s) := by
  unfold execBarrierComplete
  simp

@[simp] theorem execBatchRegister_kept (s : State) : s.keptBy (execBatchRegister s) := by
  unfold execBatchRegister
  simp

@[simp] theorem execBatchComplete_kept (s : State) : s.keptBy (execBatchComplete s) := by
  unfold execBatchComplete
  dsimp only
  split <;> simp

@[simp] theorem execEngineStep_kept (s : State) : s.keptBy (execEngineStep s) := by
  unfold execEngineStep
  dsimp only
  (repeat' split) <;> simp

@[simp] theorem execEngineStepEnd_kept (s : State) : s.keptBy (execEngineStepEnd s) := by
  unfold execEngineStepEnd
  dsimp only
  (repeat' split) <;> simp

@[simp] theorem execCopyChunkReady_kept (s : State) : s.keptBy (execCopyChunkReady s) := by
  unfold execCopyChunkReady
  dsimp only
  (repeat' split) <;> simp

@[simp] theorem execCopyComplete_kept (s : State) : s.keptBy (execCopyComplete s) := by
  unfold execCopyComplete
  dsimp only
  (repeat' split) <;> simp

@[simp] theorem execCopyLateFault_kept (s : State) : s.keptBy (execCopyLateFault s) := by
  unfold execCopyLateFault
  dsimp only
  split <;> simp

@[simp] theorem execTldgAonRetry_kept (s : State) : s.keptBy (execTldgAonRetry s) := by
  unfold execTldgAonRetry
  dsimp only
  (repeat' split) <;> simp

@[simp] theorem execCombineControlServe_kept (s : State) : s.keptBy (execCombineControlServe s) := by
  unfold execCombineControlServe
  dsimp only
  (repeat' split) <;> simp

@[simp] theorem execCbputDeposit_kept (s : State) : s.keptBy (execCbputDeposit s) := by
  unfold execCbputDeposit
  dsimp only
  split <;> simp

@[simp] theorem execCombineDeadline_kept (s : State) : s.keptBy (execCombineDeadline s) := by
  unfold execCombineDeadline
  dsimp only
  split <;> simp

@[simp] theorem execCombineRelease_kept (s : State) : s.keptBy (execCombineRelease s) := by
  unfold execCombineRelease
  split <;> simp

@[simp] theorem execGraphImageLoaded_kept (s : State) : s.keptBy (execGraphImageLoaded s) := by
  obtain ⟨read, hr⟩ : ∃ read : Nat → Nat → (Graph ⊕ (Nat × Nat)) × State, ∀ ctx va, s.readGraph ctx va = read ctx va :=
    ⟨_, fun _ _ => rfl⟩
  have hb : ∀ ctx va, (read ctx va).2.bytes = s.bytes := fun ctx va => by rw [← hr]; exact State.readGraph_bytes s ctx va
  rw [execGraphImageLoaded]
  simp only [hr]
  split
  · split <;> rename_i h
    · simp [State.bytes_of_snd h, hb]
    · repeat' split
      all_goals simp [State.bytes_of_snd h, hb]
  · simp

@[simp] theorem execInSwitchMerge_kept (s : State) : s.keptBy (execInSwitchMerge s) := by
  unfold execInSwitchMerge
  dsimp only
  (repeat' split) <;> simp

@[simp] theorem execRunStartTime_kept (s : State) : s.keptBy (execRunStartTime s) := by
  unfold execRunStartTime
  dsimp only
  (repeat' split) <;> simp

@[simp] theorem execRunEnd_kept (s : State) : s.keptBy (execRunEnd s) := by
  unfold execRunEnd
  dsimp only
  (repeat' split) <;> simp

@[simp] theorem execResultLands_kept (s : State) : s.keptBy (execResultLands s) := by
  unfold execResultLands
  dsimp only
  (repeat' split) <;> simp

@[simp] theorem execIcacheMiss_kept (s : State) : s.keptBy (execIcacheMiss s) := by
  unfold execIcacheMiss
  dsimp only
  (repeat' split) <;> simp

@[simp] theorem execIcacheFill_kept (s : State) : s.keptBy (execIcacheFill s) := by
  unfold execIcacheFill
  simp

@[simp] theorem execLateFault_kept (s : State) : s.keptBy (execLateFault s) := by
  unfold execLateFault
  dsimp only
  (repeat' split) <;> simp

@[simp] theorem execTrapForward_kept (s : State) : s.keptBy (execTrapForward s) := by
  unfold execTrapForward
  (repeat' split) <;> simp

@[simp] theorem execSupervisorRestart_kept (s : State) : s.keptBy (execSupervisorRestart s) := by
  unfold execSupervisorRestart
  dsimp only
  split <;> simp

@[simp] theorem execMigrationStart_kept (s : State) : s.keptBy (execMigrationStart s) := by
  unfold execMigrationStart
  dsimp only
  (repeat' split) <;> simp

@[simp] theorem execMigrationQueueServe_kept (s : State) : s.keptBy (execMigrationQueueServe s) := by
  unfold execMigrationQueueServe
  simp

@[simp] theorem execMigrationArrive_kept (s : State) : s.keptBy (execMigrationArrive s) := by
  unfold execMigrationArrive
  dsimp only
  (repeat' split) <;> simp

@[simp] theorem execFeatherWindowEnd_kept (s : State) : s.keptBy (execFeatherWindowEnd s) := by
  unfold execFeatherWindowEnd
  simp

@[simp] theorem execMachineCheck_kept (s : State) : s.keptBy (execMachineCheck s) := by
  unfold execMachineCheck
  dsimp only
  (repeat' split) <;> simp

@[simp] theorem execFreeze_kept (s : State) : s.keptBy (execFreeze s) := by
  unfold execFreeze
  split <;> simp

@[simp] theorem execManagementPathRead_kept (s : State) : s.keptBy (execManagementPathRead s) := by
  unfold execManagementPathRead
  simp

@[simp] theorem execFormatWindowWrite_kept (s : State) : s.keptBy (execFormatWindowWrite s) := by
  unfold execFormatWindowWrite
  simp

@[simp] theorem execFabricReplay_kept (s : State) : s.keptBy (execFabricReplay s) := by
  unfold execFabricReplay
  split <;> simp

@[simp] theorem execSkyclockDiscipline_kept (s : State) : s.keptBy (execSkyclockDiscipline s) := by
  unfold execSkyclockDiscipline
  simp

@[simp] theorem execAuthenticatedSession_kept (s : State) : s.keptBy (execAuthenticatedSession s) := by
  unfold execAuthenticatedSession
  simp

@[simp] theorem execLoadkey_kept (s : State) : s.keptBy (execLoadkey s) := by
  unfold execLoadkey
  rw [State.keptBy_next]
  exact State.command_bytes _ _ (fun node x => by dsimp only; split <;> simp)

@[simp] theorem execQuote_kept (s : State) : s.keptBy (execQuote s) := by
  unfold execQuote
  rw [State.keptBy_next]
  exact State.command_bytes _ _ (fun node x => by dsimp only; split <;> simp)

@[simp] theorem execDispenserHandout_kept (s : State) : s.keptBy (execDispenserHandout s) := by
  unfold execDispenserHandout
  dsimp only
  split
  · simp
  split
  · simp
  split
  · simp
  · rename_i h
    have hb := State.placeOldest_bytes h
    split <;> simpa using hb

@[simp] theorem execSliceExpiry_kept (s : State) : s.keptBy (execSliceExpiry s) := by
  unfold execSliceExpiry
  simp

@[simp] theorem execDispatch_kept (s : State) : s.keptBy (execDispatch s) := by
  unfold execDispatch
  simp

@[simp] theorem execTaskEnd_kept (s : State) : s.keptBy (execTaskEnd s) := by
  unfold execTaskEnd
  dsimp only
  (repeat' split) <;> simp

@[simp] theorem execLaunchNotice_kept (s : State) : s.keptBy (execLaunchNotice s) := by
  unfold execLaunchNotice
  dsimp only
  split <;> simp

@[simp] theorem execLaunchRecord_kept (s : State) : s.keptBy (execLaunchRecord s) := by
  unfold execLaunchRecord
  simp

@[simp] theorem execPreempt_kept (s : State) : s.keptBy (execPreempt s) := by
  unfold execPreempt
  dsimp only
  (repeat' split) <;> simp

@[simp] theorem execSwitchout_kept (s : State) : s.keptBy (execSwitchout s) := by
  unfold execSwitchout
  split <;> simp

@[simp] theorem execSwitchin_kept (s : State) : s.keptBy (execSwitchin s) := by
  unfold execSwitchin
  split <;> simp

@[simp] theorem execResume_kept (s : State) : s.keptBy (execResume s) := by
  unfold execResume
  dsimp only
  (repeat' split) <;> simp

@[simp] theorem execKill_kept (s : State) : s.keptBy (execKill s) := by
  unfold execKill
  (repeat' split) <;> simp

@[simp] theorem execBudget_kept (s : State) : s.keptBy (execBudget s) := by
  unfold execBudget
  (repeat' split) <;> simp

/-- The state that the fetch of a line leaves. -/
def LineFetch.state : LineFetch → State
  | .hit _ _ s => s
  | .miss s => s
  | .fault _ s => s

theorem State.icacheGet_bytes {s t : State} {c line : Nat} {d : Line} (h : s.icacheGet c line = some (d, t)) : t.bytes = s.bytes := by
  unfold State.icacheGet at h
  dsimp only at h
  split at h
  · cases h
  · cases h
    simp

theorem State.fetchLine_bytes (s : State) (g va : Nat) : (s.fetchLine g va).state.bytes = s.bytes := by
  unfold State.fetchLine
  dsimp only
  split <;> rename_i h <;> have hb := (State.bytes_of_snd h).trans (State.tlb_bytes _ _ _ _)
  · simpa [LineFetch.state] using hb
  · split
    · exact hb
    · split
      · rename_i h'
        exact (State.icacheGet_bytes h').trans hb
      · simpa [LineFetch.state] using hb

/-- The state that a fetch leaves. -/
def Fetched.state : Fetched → State
  | .word _ s => s
  | .idle s => s

@[simp] theorem State.fetchHit_bytes (s : State) (g va : Nat) : (s.fetchHit g va).bytes = s.bytes := by
  unfold State.fetchHit
  dsimp only
  split <;> simp

theorem State.fetch_bytes (s : State) : s.fetch.state.bytes = s.bytes := by
  unfold State.fetch
  dsimp only
  split
  · simp [Fetched.state]
  have h1 := s.fetchLine_bytes s.cur (s.fetchVa s.cur)
  split <;> rename_i h <;> rw [h, LineFetch.state] at h1
  · simpa [Fetched.state] using h1
  · rename_i t
    split
    · simpa [Fetched.state] using h1
    · have h2 := t.fetchLine_bytes s.cur ((s.fetchVa s.cur / 64 + 1) * 64)
      split <;> rename_i h <;> rw [h, LineFetch.state] at h2 <;> simpa [Fetched.state] using h2.trans h1
  · rename_i pa d t
    split
    · simpa [Fetched.state] using h1
    · have h2 := t.fetchLine_bytes s.cur ((s.fetchVa s.cur / 64 + 1) * 64)
      split <;> rename_i h <;> rw [h, LineFetch.state] at h2 <;> simpa [Fetched.state] using h2.trans h1

theorem State.carried_bytes {s t : State} (h : s.carried = some t) : t.bytes = s.bytes := by
  unfold State.carried at h
  dsimp only at h
  repeat' split at h
  all_goals cases h
  all_goals simp

/-- A turn raises the fault that its slot carries, or else fetches. -/
theorem State.carriedOrFetch_bytes (s : State) :
    (match s.carried with | some t => Fetched.idle t | none => s.fetch).state.bytes = s.bytes := by
  split
  · rename_i h
    exact State.carried_bytes h
  · exact s.fetch_bytes

theorem State.turn_bytes (s : State) : s.turn.state.bytes = s.bytes := by
  unfold State.turn
  dsimp only
  generalize ht : s.updMe _ = t
  have hb : t.bytes = s.bytes := by rw [← ht]; simp
  split
  · exact hb
  split
  · simpa [Fetched.state] using hb
  split
  · simpa [Fetched.state] using hb
  · exact t.carriedOrFetch_bytes.trans hb
  · exact t.carriedOrFetch_bytes.trans hb
  · exact hb

end Sys2Proof.Machine
end

section
/-! PROOFS. What writes HBM and the ponds, and the canonical form that each of these keeps (R121, R151, R157, R250, R290, R302). -/

namespace Sys2Proof.Machine

open Sys2Proof

/-- Memory and the ponds stand in the form of the obligation (`State.bytesOk`). -/
def canonical (b : Memory × Memory × List SaveArea) : Prop := b.1.wf = true ∧ b.2.1.wf = true

theorem State.bytesOk_iff (s : State) : s.bytesOk ↔ canonical s.bytes := Iff.rfl

theorem canonical_foldl {β : Type} (l : List β) (f : State → β → State) (s : State)
    (h : ∀ s b, canonical s.bytes → canonical (f s b).bytes) (hs : canonical s.bytes) : canonical (l.foldl f s).bytes := by
  induction l generalizing s with
  | nil => exact hs
  | cons b l ih => exact ih _ (h s b hs)

theorem canonical_pond {s : State} {m : Memory} (hs : canonical s.bytes) (hm : m.wf = true) {a : List SaveArea} :
    canonical (s.mem, m, a) := ⟨hs.1, hm⟩

@[simp] theorem State.llcEvict_canonical {s : State} (line : Nat) (hs : canonical s.bytes) : canonical (s.llcEvict line).bytes := by
  unfold State.llcEvict
  split
  · exact hs
  · dsimp only
    split
    · simpa
    · split
      · simpa
      · exact ⟨memWrite_wf _ _ _ _ hs.1, hs.2⟩

@[simp] theorem State.llcWrite_canonical {s : State} (line attr : Nat) (data : Line) (mask : BitVec 64) (hs : canonical s.bytes) :
    canonical (s.llcWrite line attr data mask).bytes := by
  rw [State.llcWrite, State.llcPut_bytes]
  exact canonical_foldl _ _ _ (fun _ _ h => State.llcEvict_canonical _ h) hs

@[simp] theorem State.feStore_canonical {s : State} (a : Access) (attr : Nat) (c : CLine) (hs : canonical s.bytes) :
    canonical (s.feStore a attr c).bytes := by
  unfold State.feStore
  split <;> dsimp only <;> split <;> simp [hs]

@[simp] theorem State.feBase_canonical {s : State} (r : Nat) (c : CLine) (hs : canonical s.bytes) : canonical (s.feBase r c).bytes := by
  unfold State.feBase
  dsimp only
  split
  · split <;> simpa
  · split <;> simp [hs]

theorem State.llcPerform_canonical {s : State} (r : Nat) (c : CLine) (hs : canonical s.bytes) : canonical (s.llcPerform r c).bytes := by
  unfold State.llcPerform
  dsimp only
  split
  · exact State.feBase_canonical r c hs
  · split
    case h_2 =>
      simp only [State.reqDone_bytes, State.llcRespond_bytes, State.setReq_bytes]
      exact canonical_foldl _ _ _ (fun _ _ h => State.llcWrite_canonical _ _ _ _ h) hs
    case h_7 => split <;> simp [hs]
    all_goals simp [hs]

@[simp] theorem State.llcServe_canonical {s : State} (r : Nat) (hs : canonical s.bytes) : canonical (s.llcServe r).bytes := by
  unfold State.llcServe
  dsimp only
  split
  · simpa
  · simpa
  · split
    · simpa
    · exact State.llcPerform_canonical _ _ (by simpa)

@[simp] theorem State.writeHome_canonical {s : State} (die pa attr : Nat) (data : Line) (mask : BitVec 64) (hs : canonical s.bytes) :
    canonical (s.writeHome die pa attr data mask).bytes := by
  unfold State.writeHome
  dsimp only
  split
  · simp [hs]
  · split <;> simpa

@[simp] theorem State.roseWrite_canonical {s : State} (die pa attr : Nat) (data : Line) (mask : BitVec 64) (sink : Sink)
    (hs : canonical s.bytes) : canonical (s.roseWrite die pa attr data mask sink).bytes := by
  unfold State.roseWrite
  split
  · simp [hs]
  · split <;> simp [hs]

@[simp] theorem State.rangeWrite_canonical {s : State} (r : Run) (base off n x : Nat) (sink : Sink) (hs : canonical s.bytes) :
    canonical (s.rangeWrite r base off n x sink).bytes := by
  unfold State.rangeWrite
  split
  · simpa
  · exact canonical_foldl _ _ _ (fun _ _ h => State.roseWrite_canonical _ _ _ _ _ _ h) hs

@[simp] theorem State.setElems_canonical {s : State} (id i : Nat) (l : List Nat) (hs : canonical s.bytes) :
    canonical (s.setElems id i l).bytes := State.rangeWrite_canonical _ _ _ _ _ _ hs

@[simp] theorem State.takeLink1_canonical {s : State} (id i : Nat) (sx : Bool) (l : List Nat) (hs : canonical s.bytes) :
    canonical (s.takeLink1 id i sx l).bytes := by
  unfold State.takeLink1
  dsimp only
  split <;> simp [hs]

theorem State.recvNode_canonical {s : State} (id i : Nat) {wait : State} (hs : canonical s.bytes) (hw : canonical wait.bytes) :
    canonical (s.recvNode id i wait).bytes := by
  unfold State.recvNode
  dsimp only
  split
  · split
    · exact hw
    · split <;> simp [hs]
  · split
    · split
      · exact hw
      · simp [hs]
    · split
      · exact hw
      · simp [hs]

@[simp] theorem State.writeRecord_canonical {s : State} (type index gen : Nat) (hs : canonical s.bytes) :
    canonical (s.writeRecord type index gen).bytes := State.llcWrite_canonical _ _ _ _ hs

@[simp] theorem State.writeRecords_canonical {s : State} (gen : Nat) (l : List Nat) (hs : canonical s.bytes) :
    canonical (s.writeRecords gen l).bytes := by
  fun_induction State.writeRecords s gen l with
  | case1 s t i rest ih => exact ih (State.writeRecord_canonical _ _ _ hs)
  | case2 => exact hs

@[simp] theorem State.keepRecord_canonical {s : State} (ctx : Nat) (r : Line) (hs : canonical s.bytes) :
    canonical (s.keepRecord ctx r).bytes := State.llcWrite_canonical _ _ _ _ hs

@[simp] theorem State.pondWrite_canonical {s : State} (mill off n x : Nat) (hs : canonical s.bytes) :
    canonical (s.pondWrite mill off n x).bytes := canonical_pond hs (memWrite_wf _ _ _ _ hs.2)

@[simp] theorem State.serveWord_canonical {s : State} (mill : Nat) (q : PondReq) (hs : canonical s.bytes) :
    canonical (s.serveWord mill q).bytes := by
  unfold State.serveWord
  dsimp only
  rw [State.done_bytes]
  split
  case h_2 =>
    rw [State.chkTest_bytes]
    exact canonical_pond hs (memWriteMask_wf _ _ _ _ _ hs.2)
  case h_3 => split <;> simp [hs]
  case h_6 => split <;> simp [hs]
  case h_7 => split <;> simp [hs]
  all_goals simp [hs]


/-- The 64 bytes of each stripe of a block that is selected, in order; a value may be made of what the earlier ones left. -/
def blockWrite (mill off : Nat) (sel : Nat → Bool) (v : Memory → Nat → Nat) (l : List Nat) (p : Memory) : Memory :=
  l.foldl (fun p k => if sel k then memWrite p (pondAt mill (off + 64 * k)) 64 (v p k) else p) p

theorem blockWrite_wf (mill off : Nat) (sel : Nat → Bool) (v : Memory → Nat → Nat) (l : List Nat) {p : Memory} (hp : p.wf = true) :
    (blockWrite mill off sel v l p).wf = true := by
  refine foldl_memSet_wf _ _ _ hp fun m b h => ?_
  split
  · exact memWrite_wf _ _ _ _ h
  · exact h

/-- A block commit writes its live selected stripes, and beside the pond leaves every byte as it was. -/
theorem foldl_blockWrite (mill off : Nat) (sel : Nat → Bool) (v : Memory → Nat → Nat) (l : List Nat) (f : State → Nat → State) (s : State)
    (h : ∀ (t : State) k, (f t k).bytes = (t.mem, if sel k then memWrite t.pond (pondAt mill (off + 64 * k)) 64 (v t.pond k) else t.pond, t.saveAreas)) :
    (l.foldl f s).bytes = (s.mem, blockWrite mill off sel v l s.pond, s.saveAreas) := by
  induction l generalizing s with
  | nil => rfl
  | cons k l ih =>
    obtain ⟨hm, hp, ha⟩ : (f s k).mem = _ ∧ (f s k).pond = _ ∧ (f s k).saveAreas = _ := by
      simpa [State.bytes] using h s k
    rw [List.foldl_cons, ih, hm, hp, ha]
    rfl

/-- The stripe that a block commit writes, where its bank is live. -/
theorem State.stripe_bytes (t : State) (mill off k v : Nat) (dry c : Bool) :
    (if c then (if dry then t else (t.pondWrite mill (off + 64 * k) 64 v).chkTest mill (off + 64 * k)) else t).bytes
      = (t.mem, if (c && !dry) then memWrite t.pond (pondAt mill (off + 64 * k)) 64 v else t.pond, t.saveAreas) := by
  cases c <;> cases dry <;> simp [State.pondWrite] <;> rfl

theorem State.commitOne_of_xacc (s : State) (mill : Nat) (x : Staged) {b : Access} (hb : x.acc = some b) (hk : b.kind = .xacc) :
    (s.commitOne mill x).bytes = (s.mem, blockWrite mill x.off (fun k => b.mask.getLsbD (8 * x.part + k) && !(s.mill mill).isDry (x.off + 64 * k))
      (fun p k => xaAdd false (memRead p (pondAt mill (x.off + 64 * k)) 64 % 2 ^ 483) (decodeFloat 10 (lane b.data (8 * x.part + k))))
      (List.range 8) s.pond, s.saveAreas) := by
  simp only [State.commitOne, hb, hk, State.done_bytes]
  exact foldl_blockWrite _ _ _ _ _ _ _ (fun t k => t.stripe_bytes ..)

theorem State.commitOne_of_atomic (s : State) (mill : Nat) (x : Staged) {b : Access} {form : Nat} (hb : x.acc = some b)
    (hk : b.kind = .atomic form) :
    (s.commitOne mill x).bytes = (s.mem, blockWrite mill x.off (fun k => true && !(s.mill mill).isDry (x.off + 64 * k))
      (fun _ k => bits (atomicApply b 11 (s.pondRead mill x.off 320)).1 (512 * k + 511) (512 * k))
      (List.range 5) s.pond, s.saveAreas) := by
  simp only [State.commitOne, hb, hk, State.done_bytes, State.pondLand_bytes]
  exact foldl_blockWrite _ _ _ _ _ _ _ (fun t k => t.stripe_bytes _ _ _ _ _ true)

theorem State.commitOne_of_store (s : State) (mill : Nat) (x : Staged) (hx : ∀ b, x.acc = some b → b.kind ≠ .xacc)
    (ha : ∀ b form, x.acc = some b → b.kind ≠ .atomic form) :
    (s.commitOne mill x).bytes = (s.mem, blockWrite mill x.off (fun k => x.mask.testBit k && !(s.mill mill).isDry (x.off + 64 * k))
      (fun _ k => bits x.data.toNat (512 * k + 511) (512 * k)) (List.range 8) s.pond, s.saveAreas) := by
  unfold State.commitOne
  dsimp only
  split
  · rename_i b hb
    rw [State.done_bytes, hb]
    dsimp only
    split
    · cases ‹some b = _›; exact absurd ‹_› (hx _ hb)
    · cases ‹some b = _›; exact absurd ‹_› (ha _ _ hb)
    · exact foldl_blockWrite _ _ _ _ _ _ _ (fun t k => t.stripe_bytes ..)
  · rename_i hb
    rw [hb]
    exact foldl_blockWrite _ _ _ _ _ _ _ (fun t k => t.stripe_bytes ..)

@[simp] theorem State.commitOne_canonical {s : State} (mill : Nat) (x : Staged) (hs : canonical s.bytes) :
    canonical (s.commitOne mill x).bytes := by
  by_cases hx : ∃ b, x.acc = some b ∧ b.kind = .xacc
  · obtain ⟨b, hb, hk⟩ := hx
    rw [s.commitOne_of_xacc mill x hb hk]
    exact canonical_pond hs (blockWrite_wf _ _ _ _ _ hs.2)
  by_cases ha : ∃ b form, x.acc = some b ∧ b.kind = .atomic form
  · obtain ⟨b, form, hb, hk⟩ := ha
    rw [s.commitOne_of_atomic mill x hb hk]
    exact canonical_pond hs (blockWrite_wf _ _ _ _ _ hs.2)
  · push Not at hx ha
    rw [s.commitOne_of_store mill x hx ha]
    exact canonical_pond hs (blockWrite_wf _ _ _ _ _ hs.2)

@[simp] theorem State.setArrival_canonical {s : State} (mill : Nat) (x : Staged) (hs : canonical s.bytes) :
    canonical (s.setArrival mill x).bytes := by
  unfold State.setArrival
  split
  · dsimp only
    split <;> simp [hs]
  · exact hs

@[simp] theorem State.writeImage_canonical {s : State} (l : Launch) (mill : Nat) (hs : canonical s.bytes) :
    canonical (s.writeImage l mill).bytes := by
  rw [State.writeImage, State.updMill_bytes]
  exact canonical_pond hs (foldl_memSet_wf _ _ _ hs.2 fun _ _ h => memSet_wf _ _ _ h)

/-! A vacate: HBM and the ponds without the save images that stand beside them. -/

/-- HBM and the ponds alone. -/
def stored (b : Memory × Memory × List SaveArea) : Memory × Memory := (b.1, b.2.1)

theorem canonical_of_stored {b c : Memory × Memory × List SaveArea} (h : stored b = stored c) (hc : canonical c) : canonical b := by
  obtain ⟨h1, h2⟩ := Prod.mk.inj h
  exact ⟨h1 ▸ hc.1, h2 ▸ hc.2⟩

@[simp] theorem State.writeSave_stored (s : State) (ctx : Nat) : stored (s.writeSave ctx).bytes = stored s.bytes := (rfl)

@[simp] theorem State.saveCrew_stored (s : State) (l q : Nat) (ms : List Nat) : stored (s.saveCrew l q ms).bytes = stored s.bytes := by
  unfold State.saveCrew
  dsimp only
  split
  · simp
  · split <;> simp

@[simp] theorem State.pollVacate_stored (s : State) (l q : Nat) (ms : List Nat) :
    stored (s.pollVacate l q ms).bytes = stored s.bytes := by
  unfold State.pollVacate
  dsimp only
  split
  · split <;> simp
  · split
    · simp
    · generalize hr : List.foldl _ _ _ = r
      have hb : r.1.bytes = s.bytes := by
        rw [← hr, State.bytes_foldl_acc (fun r : State × List Nat => r.1)]
        · simp
        · refine fun r m => State.bytes_foldl_acc (fun r : State × List Nat => r.1) _ _ _ fun r c => ?_
          split <;> exact (State.bytes_of_snd ‹_›).trans (State.cleanL1_bytes _ _)
      split <;> simp [hb]

theorem execVacate_stored (s t : State) (h : exec .vacate s = .next t) : stored t.bytes = stored s.bytes := by
  simp only [exec, execVacate] at h
  split at h
  · cases h
    simp
  · split at h <;> cases h <;> split <;> simp

/-! The rest of what writes, and the events. -/

@[simp] theorem State.putMill_canonical {s : State} (im : SaveImage) (k nm : Nat) (new : Nat → Nat) (hs : canonical s.bytes) :
    canonical (s.putMill im k nm new).bytes := by
  unfold State.putMill
  dsimp only
  rw [State.bytes_foldl]
  · rw [State.bytes_foldl]
    · rw [State.updMill_bytes]
      exact canonical_pond hs (foldl_memSet_wf _ _ _ (memFilter_wf _ _ hs.2) fun _ _ h => memSet_wf _ _ _ h)
    · intros
      simp
  · intros
    simp

@[simp] theorem State.restoreMills_canonical {s : State} (im : SaveImage) (ms : List Nat) (map : List (Nat × Nat)) (key : Nat → Nat)
    (hs : canonical s.bytes) : canonical (s.restoreMills im ms map key).bytes := by
  unfold State.restoreMills
  rw [State.bytes_foldl]
  · exact canonical_foldl _ _ _ (fun _ _ h => State.putMill_canonical _ _ _ _ h) hs
  · intros
    simp

@[simp] theorem State.dropContext_canonical {s : State} (ctx : Nat) (ls : List Nat) (hs : canonical s.bytes) :
    canonical (s.dropContext ctx ls).bytes := by
  unfold State.dropContext
  simp [hs]

@[simp] theorem State.writeSnapshot_canonical {s : State} (ctx : Nat) (hs : canonical s.bytes) :
    canonical (s.writeSnapshot ctx).bytes := by
  have hb : canonical (s.snapshotBody ctx).2.bytes := by rwa [State.snapshotBody_bytes]
  exact canonical_foldl _ _ _ (fun _ _ h => State.llcWrite_canonical _ _ _ _ h) hb

/-- A result's state, where there is one, is in canonical form. -/
def canonicalResult (r : Result) : Prop := ∀ t, r = .next t → canonical t.bytes

@[simp] theorem canonicalResult_next (t : State) : canonicalResult (.next t) ↔ canonical t.bytes :=
  ⟨fun h => h t rfl, fun h u hu => by cases hu; exact h⟩

theorem execLlcAccess_canonical {s : State} (hs : canonical s.bytes) : canonicalResult (execLlcAccess s) := by
  simp [execLlcAccess, hs]

theorem execFeHomeServe_canonical {s : State} (hs : canonical s.bytes) : canonicalResult (execFeHomeServe s) := by
  simp [execFeHomeServe, hs]

theorem execWriteBack_canonical {s : State} (hs : canonical s.bytes) : canonicalResult (execWriteBack s) := by
  unfold execWriteBack
  dsimp only
  split
  · rw [canonicalResult_next, State.delReq_bytes, State.reqDone_bytes]
    split <;> simp [hs]
  · split
    · simp [hs]
    · split
      · simp [hs]
      · split
        · simp [hs]
        · split <;> simp [hs]

theorem execPondWordService_canonical {s : State} (hs : canonical s.bytes) : canonicalResult (execPondWordService s) := by
  unfold execPondWordService
  dsimp only
  split
  · simp [hs]
  · split
    · simp [hs]
    · split <;> simp [hs]

theorem execBlockCommit_canonical {s : State} (hs : canonical s.bytes) : canonicalResult (execBlockCommit s) := by
  unfold execBlockCommit
  rw [canonicalResult_next]
  exact canonical_foldl _ _ _ (fun _ _ h => State.setArrival_canonical _ _ h)
    (canonical_foldl _ _ _ (fun _ _ h => State.commitOne_canonical _ _ h) (by simpa))

theorem execSevenBankEntry_canonical {s : State} (hs : canonical s.bytes) : canonicalResult (execSevenBankEntry s) := by
  unfold execSevenBankEntry
  dsimp only
  rw [canonicalResult_next, State.post_bytes]
  generalize ht : State.withdrawWaits _ _ _ = t
  have hb : canonical t.bytes := by
    rw [← ht]
    simpa
  exact canonical_pond hb (memFilter_wf _ _ hb.2)

theorem execChunkWrite_canonical {s : State} (hs : canonical s.bytes) : canonicalResult (execChunkWrite s) := by
  unfold execChunkWrite
  dsimp only
  split
  · simp [hs]
  · split
    · split <;> simp [hs]
    · split
      · simp [hs]
      · split
        · simp [hs]
        · split <;> simp [hs]
    · simp [hs]

theorem execNodeComplete_canonical {s : State} (hs : canonical s.bytes) : canonicalResult (execNodeComplete s) := by
  unfold execNodeComplete
  dsimp only
  split
  · simp [hs]
  · split
    · simp [hs]
    · split
      · simp [hs]
      · split
        · rw [canonicalResult_next, State.sendNode_bytes]
          · simpa
          · simp
        · exact (canonicalResult_next _).mpr (State.recvNode_canonical _ _ hs (by simpa))
        · rw [canonicalResult_next, State.nodeWrote_bytes]
          refine State.setElems_canonical _ _ _ ?_
          rw [State.setRun_bytes]
          split <;> simpa

theorem execWindowAccess_canonical {s : State} (hs : canonical s.bytes) : canonicalResult (execWindowAccess s) := by
  unfold execWindowAccess
  dsimp only
  split
  · simp [hs]
  · split
    · simp [hs]
    · simp [hs]
    · split
      · simp [hs]
      · split <;> simp [hs]

theorem execEnumTableUpdate_canonical {s : State} (hs : canonical s.bytes) : canonicalResult (execEnumTableUpdate s) := by
  unfold execEnumTableUpdate
  dsimp only
  split <;> simp [hs]

theorem execBoot_canonical {s : State} (hs : canonical s.bytes) : canonicalResult (execBoot s) := by
  unfold execBoot
  dsimp only
  split
  · simp [hs]
  · rw [canonicalResult_next]
    refine canonical_foldl _ _ _ (fun _ _ h => State.writeRecord_canonical _ _ _ h) ?_
    simpa

theorem execReset_canonical (s : State) : canonicalResult (execReset s) :=
  (canonicalResult_next _).mpr ⟨reset_mem_wf.1, reset_mem_wf.2⟩

theorem execHostMemoryRequest_canonical {s : State} (hs : canonical s.bytes) : canonicalResult (execHostMemoryRequest s) := by
  unfold execHostMemoryRequest
  split
  · simp [hs]
  · dsimp only
    split
    · simp [hs]
    · split <;> split <;> simp [hs]

theorem State.command_canonical {s : State} {f : Nat → Nat → State} (hs : canonical s.bytes) (h : ∀ a b, canonical (f a b).bytes) :
    canonical (s.command f).bytes := by
  unfold State.command
  dsimp only
  split
  · simp [hs]
  · split
    · simp [hs]
    · exact h _ _

theorem execCreate_canonical {s : State} (hs : canonical s.bytes) : canonicalResult (execCreate s) := by
  refine (canonicalResult_next _).mpr (State.command_canonical hs fun node x => ?_)
  dsimp only
  split
  · simp [hs]
  · split
    · simp [hs]
    · split <;> simp [hs]

theorem execTaskStart_canonical {s : State} (hs : canonical s.bytes) : canonicalResult (execTaskStart s) := by
  unfold execTaskStart
  dsimp only
  split
  · simp [hs]
  · refine (canonicalResult_next _).mpr (canonical_foldl _ _ _ (fun s m h => ?_) hs)
    split <;> simp [h]

theorem execVacate_canonical {s : State} (hs : canonical s.bytes) : canonicalResult (execVacate s) :=
  fun t h => canonical_of_stored (execVacate_stored s t h) hs

theorem execRestore_canonical {s : State} (hs : canonical s.bytes) : canonicalResult (execRestore s) := by
  unfold execRestore
  dsimp only
  split <;> simp [hs]

theorem execHandler_canonical {s : State} (hs : canonical s.bytes) : canonicalResult (execHandler s) := by
  unfold execHandler
  split
  · dsimp only
    split <;> simp [hs]
  · simp [hs]

theorem execDestroy_canonical {s : State} (hs : canonical s.bytes) : canonicalResult (execDestroy s) := by
  unfold execDestroy
  dsimp only
  split
  · rw [canonicalResult_next]
    split <;> simp [hs]
  · refine (canonicalResult_next _).mpr (State.command_canonical hs fun node x => ?_)
    split
    · simp [hs]
    · split <;> simp [hs]

theorem execWaitBudgetExpiry_canonical {s : State} (hs : canonical s.bytes) : canonicalResult (execWaitBudgetExpiry s) := by
  unfold execWaitBudgetExpiry
  dsimp only
  split
  · simp [hs]
  · simp [hs]

end Sys2Proof.Machine
end

section
/-! PROOFS. The canonical form through an instruction, an event and a step. -/

namespace Sys2Proof.Machine

open Sys2Proof

@[simp] theorem State.bytes_ite_apply (c : Prop) [Decidable c] (f g : State → State) (s : State) :
    ((if c then f else g) s).bytes = if c then (f s).bytes else (g s).bytes := by
  split <;> rfl

/-- The events that write a byte of HBM or of a pond, as the obligation lists them. -/
def writers : List Instr :=
  [.llcAccess, .feHomeServe, .writeBack, .windowAccess, .hostMemoryRequest, .enumTableUpdate, .boot, .create, .destroy,
    .handler, .nodeComplete, .waitBudgetExpiry, .pondWordService, .blockCommit, .sevenBankEntry, .chunkWrite, .taskStart, .restore,
    .reset]

/-- An instruction that has a word is issued, and its meaning leaves the bytes alone. -/
theorem exec_of_word_kept {i : Instr} {op fn : Nat} {x : Args} (hi : i.opFn = some (op, fn, x)) (s : State) : s.keptBy (exec i s) := by
  have h : ∃ takes always body, exec i s = .next (s.issue op fn x takes always body) ∧ ∀ r, (body r).bytes = r.bytes := by
    cases i <;> cases hi <;> exact ⟨_, _, _, rfl, fun r => by simp⟩
  obtain ⟨takes, always, body, he, hb⟩ := h
  rw [he, State.keptBy_next]
  exact State.issue_bytes _ _ _ _ _ _ _ hb

/-- An event that is none of those listed, and no vacate, leaves the bytes alone. -/
theorem exec_event_kept {i : Instr} (hi : i.opFn = none) (hw : i ∉ writers) (hv : i ≠ .vacate) (s : State) : s.keptBy (exec i s) := by
  cases i <;> cases hi
  case vacate => exact absurd rfl hv
  case unassignedOpcode => simp [exec, execUnassignedOpcode]
  case llcAccess | feHomeServe | writeBack | windowAccess | hostMemoryRequest | enumTableUpdate | boot | create | destroy | handler
    | nodeComplete | waitBudgetExpiry | pondWordService | blockCommit | sevenBankEntry | chunkWrite | taskStart | restore | reset =>
    exact absurd (by decide) hw
  all_goals simp [exec]

theorem exec_kept {i : Instr} (hw : i ∉ writers) (hv : i ≠ .vacate) (s : State) : s.keptBy (exec i s) := by
  rcases hi : i.opFn with _ | ⟨op, fn, x⟩
  · exact exec_event_kept hi hw hv s
  · exact exec_of_word_kept hi s

/-- The events listed keep HBM and the ponds in canonical form. -/
theorem exec_writer_canonical {i : Instr} (hw : i ∈ writers) {s : State} (hs : canonical s.bytes) : canonicalResult (exec i s) := by
  simp only [writers, List.mem_cons, List.not_mem_nil, or_false] at hw
  rcases hw with rfl | rfl | rfl | rfl | rfl | rfl | rfl | rfl | rfl | rfl | rfl | rfl | rfl | rfl | rfl | rfl | rfl | rfl | rfl
  · exact execLlcAccess_canonical hs
  · exact execFeHomeServe_canonical hs
  · exact execWriteBack_canonical hs
  · exact execWindowAccess_canonical hs
  · exact execHostMemoryRequest_canonical hs
  · exact execEnumTableUpdate_canonical hs
  · exact execBoot_canonical hs
  · exact execCreate_canonical hs
  · exact execDestroy_canonical hs
  · exact execHandler_canonical hs
  · exact execNodeComplete_canonical hs
  · exact execWaitBudgetExpiry_canonical hs
  · exact execPondWordService_canonical hs
  · exact execBlockCommit_canonical hs
  · exact execSevenBankEntry_canonical hs
  · exact execChunkWrite_canonical hs
  · exact execTaskStart_canonical hs
  · exact execRestore_canonical hs
  · exact execReset_canonical s

theorem canonicalResult_of_kept {s : State} {r : Result} (hk : s.keptBy r) (hs : canonical s.bytes) : canonicalResult r :=
  fun t ht => hk t ht ▸ hs

theorem exec_canonical (i : Instr) {s : State} (hs : canonical s.bytes) : canonicalResult (exec i s) := by
  by_cases hw : i ∈ writers
  · exact exec_writer_canonical hw hs
  by_cases hv : i = .vacate
  · exact hv ▸ execVacate_canonical hs
  · exact canonicalResult_of_kept (exec_kept hw hv s) hs

/-- A turn fetches a word and issues it, or does nothing. -/
theorem runTurn_canonical (g : Nat) {s : State} (hs : canonical s.bytes) : canonicalResult (runTurn g s) := by
  unfold runTurn
  split
  · have ht := ({ s with cur := g } : State).turn_bytes
    split <;> rename_i h <;> rw [h, Fetched.state] at ht
    · rename_i w t
      have hc : canonical t.bytes := ht ▸ hs
      unfold issueWord
      split
      · exact exec_canonical _ hc
      · simpa [State.illFormed]
    · exact (canonicalResult_next _).mpr (ht ▸ hs)
  · exact (canonicalResult_next s).mpr hs

theorem runDue_canonical (d : Due) {s : State} (hs : canonical s.bytes) : canonicalResult (runDue d s) := by
  unfold runDue
  split
  · exact runTurn_canonical _ hs
  · exact exec_canonical _ hs

theorem step_canonical {s : State} (hs : canonical s.bytes) : canonicalResult (step s) := by
  unfold step
  split
  · split
    · exact runDue_canonical _ hs
    · intro t ht
      cases ht
  · split
    · intro t ht
      cases ht
    · exact runDue_canonical _ hs

end Sys2Proof.Machine
end

section
/-! PROOFS. The bytes that a store of a pond's bank, a block commit and a write-back leave (R121, R139, R146, R151). -/

namespace Sys2Proof.Machine

open Sys2Proof

/-! The bytes that a write leaves. -/

/-- Byte `j` of a number that is written. -/
theorem memByte_memWrite_at (m : Memory) (a n x j : Nat) (w : m.wf = true) (h : j < n) :
    (memByte (memWrite m a n x) (a + j)).toNat = x / 2 ^ (8 * j) % 256 := by
  induction n generalizing m a x j with
  | zero => omega
  | succ n ih =>
    rw [memWrite]
    have hw := memSet_wf m a (BitVec.ofNat 8 x) w
    cases j with
    | zero =>
      rw [memByte_memWrite_other _ _ _ _ _ hw (by omega), Nat.add_zero, memByte_memSet_same m a _ w]
      simp
    | succ j =>
      have := ih (memSet m a (BitVec.ofNat 8 x)) (a + 1) (x / 256) j hw (by omega)
      rw [show a + (j + 1) = a + 1 + j by omega, this, Nat.div_div_eq_div_mul]
      congr 2
      rw [show 8 * (j + 1) = 8 + 8 * j by omega, Nat.pow_add]

/-- One byte of a masked write. -/
def maskStep (a x mask : Nat) (m : Memory) (i : Nat) : Memory :=
  if mask.testBit i then memSet m (a + i) (BitVec.ofNat 8 (x / 256 ^ i)) else m

theorem memWriteMask_succ (m : Memory) (a n x mask : Nat) :
    memWriteMask m a (n + 1) x mask = maskStep a x mask (memWriteMask m a n x mask) n := by
  rw [memWriteMask, List.range_succ, List.foldl_append]
  rfl

/-- A masked write leaves alone the bytes outside it and those that its mask leaves out. -/
theorem memByte_memWriteMask_other (m : Memory) (a n x mask a' : Nat) (w : m.wf = true)
    (h : a' < a ∨ a + n ≤ a' ∨ mask.testBit (a' - a) = false) : memByte (memWriteMask m a n x mask) a' = memByte m a' := by
  induction n with
  | zero => rfl
  | succ n ih =>
    have h' : a' < a ∨ a + n ≤ a' ∨ mask.testBit (a' - a) = false := h.imp_right (Or.imp_left (by omega))
    rw [memWriteMask_succ, maskStep]
    split
    · rename_i hm
      have hne : a' ≠ a + n := by
        rintro rfl
        rw [Nat.add_sub_cancel_left, hm] at h
        simp at h
      rw [memByte_memSet_other _ _ _ _ (memWriteMask_wf _ _ _ _ _ w) hne, ih h']
    · exact ih h'

/-- Byte `j` of a masked write whose mask holds it. -/
theorem memByte_memWriteMask_at (m : Memory) (a n x mask j : Nat) (w : m.wf = true) (hj : j < n) (h : mask.testBit j = true) :
    (memByte (memWriteMask m a n x mask) (a + j)).toNat = x / 2 ^ (8 * j) % 256 := by
  induction n with
  | zero => omega
  | succ n ih =>
    have hw := memWriteMask_wf m a n x mask w
    rw [memWriteMask_succ, maskStep]
    rcases Nat.lt_succ_iff_lt_or_eq.mp hj with hlt | rfl
    · split
      · rw [memByte_memSet_other _ _ _ _ hw (by omega), ih hlt]
      · exact ih hlt
    · rw [if_pos h, memByte_memSet_same _ _ _ hw, BitVec.toNat_ofNat, Nat.pow_mul]

theorem bits_byte (x hi lo j : Nat) (h : lo + 8 * j + 8 ≤ hi + 1) :
    bits x hi lo / 2 ^ (8 * j) % 256 = x / 2 ^ (lo + 8 * j) % 256 := by
  rw [bits_eq, show (256 : Nat) = 2 ^ 8 by rfl]
  refine Nat.eq_of_testBit_eq fun i => ?_
  simp only [Nat.testBit_mod_two_pow, Nat.testBit_div_two_pow]
  by_cases hi8 : i < 8
  · have hlt : i + 8 * j < hi + 1 - lo := by omega
    simp [hi8, hlt, Nat.add_comm, Nat.add_left_comm]
  · simp [hi8]

theorem memRead_congr {m m' : Memory} {a n : Nat} (h : ∀ j, j < n → memByte m (a + j) = memByte m' (a + j)) :
    memRead m a n = memRead m' a n := by
  induction n generalizing a with
  | zero => rfl
  | succ n ih =>
    have h0 := h 0 (by omega)
    rw [memRead, memRead, ih fun j hj => ?_]
    · rw [Nat.add_zero] at h0
      rw [h0]
    · rw [show a + 1 + j = a + (j + 1) by omega, h (j + 1) (by omega)]

section
variable {mill off : Nat} {sel : Nat → Bool} {v : Memory → Nat → Nat} {p : Memory}

theorem blockWrite_range_succ (n : Nat) : blockWrite mill off sel v (List.range (n + 1)) p =
    (fun p k => if sel k then memWrite p (pondAt mill (off + 64 * k)) 64 (v p k) else p) (blockWrite mill off sel v (List.range n) p) n := by
  rw [blockWrite, List.range_succ, List.foldl_append]
  rfl

/-- A block commit leaves alone the bytes outside its selected stripes. -/
theorem memByte_blockWrite_other {n a : Nat} (hp : p.wf = true)
    (h : ∀ k, k < n → sel k = true → a < pondAt mill (off + 64 * k) ∨ pondAt mill (off + 64 * k) + 64 ≤ a) :
    memByte (blockWrite mill off sel v (List.range n) p) a = memByte p a := by
  induction n with
  | zero => rfl
  | succ n ih =>
    have ih := ih fun k hk => h k (by omega)
    rw [blockWrite_range_succ]
    dsimp only
    split
    · rw [memByte_memWrite_other _ _ _ _ _ (blockWrite_wf _ _ _ _ _ hp) (h n (by omega) ‹_›), ih]
    · exact ih

/-- A selected stripe holds its value, made of what the stripes before it left. -/
theorem memByte_blockWrite_at {n k j : Nat} (hp : p.wf = true) (hk : k < n) (hj : j < 64) (hs : sel k = true) :
    (memByte (blockWrite mill off sel v (List.range n) p) (pondAt mill (off + 64 * k) + j)).toNat
      = v (blockWrite mill off sel v (List.range k) p) k / 2 ^ (8 * j) % 256 := by
  induction n with
  | zero => omega
  | succ n ih =>
    have hw := blockWrite_wf mill off sel v (List.range n) hp
    rw [blockWrite_range_succ]
    dsimp only
    rcases Nat.lt_succ_iff_lt_or_eq.mp hk with hlt | rfl
    · split
      · rw [memByte_memWrite_other _ _ _ _ _ hw (by simp only [pondAt]; omega), ih hlt]
      · exact ih hlt
    · rw [if_pos hs, memByte_memWrite_at _ _ _ _ _ hw hj]

/-- What a stripe reads before its turn is what it held before the block. -/
theorem memRead_blockWrite_before (k : Nat) (hp : p.wf = true) :
    memRead (blockWrite mill off sel v (List.range k) p) (pondAt mill (off + 64 * k)) 64 = memRead p (pondAt mill (off + 64 * k)) 64 :=
  memRead_congr fun j hj => memByte_blockWrite_other hp fun i hi _ => .inr (by simp only [pondAt]; omega)
end

/-! What a pond's bank serves (R139, R146). -/

theorem State.serveWord_of_store (s : State) (mill : Nat) (q : PondReq) (h : q.acc.kind = .store) : (s.serveWord mill q).bytes =
    (s.mem, memWriteMask s.pond (pondAt mill q.off) 64 (elemsData q.acc.data q.acc.elems).toNat (elemsMask q.acc.elems).toNat,
      s.saveAreas) := by
  simp only [State.serveWord, h, State.done_bytes, State.chkTest_bytes]
  rfl

theorem State.serveWord_of_fill (s : State) (mill : Nat) (q : PondReq) (h : q.acc.kind = .fill) : (s.serveWord mill q).bytes =
    (s.mem, memWrite s.pond (pondAt mill (8 * (q.acc.addr / 8))) 8 (bits q.acc.data.toNat 63 0), s.saveAreas) := by
  simp only [State.serveWord, h, State.done_bytes]
  split <;> simp <;> rfl

theorem State.serveWord_of_atomic (s : State) (mill : Nat) (q : PondReq) {form : Nat} (h : q.acc.kind = .atomic form) :
    (s.serveWord mill q).bytes = (s.mem, memWrite s.pond (pondAt mill q.acc.addr) (atomicSize form q.acc.ty)
      (atomicApply q.acc form (s.pondRead mill q.acc.addr (atomicSize form q.acc.ty))).1, s.saveAreas) := by
  simp only [State.serveWord, h, State.done_bytes, State.chkTest_bytes, State.pondLand_bytes]
  rfl

/-- Every other access of a word reads. -/
theorem State.serveWord_of_read (s : State) (mill : Nat) (q : PondReq) (h1 : q.acc.kind ≠ .store) (h2 : q.acc.kind ≠ .fill)
    (h3 : ∀ form, q.acc.kind ≠ .atomic form) : (s.serveWord mill q).bytes = s.bytes := by
  unfold State.serveWord
  dsimp only
  rw [State.done_bytes]
  split
  case h_2 => exact absurd ‹_› h1
  case h_3 => exact absurd ‹_› h2
  case h_8 => exact absurd ‹_› (h3 _)
  case h_6 => split <;> simp
  case h_7 => split <;> simp
  all_goals simp

theorem State.eq_of_bytes {s : State} {m p : Memory} {a : List SaveArea} (h : s.bytes = (m, p, a)) : s.mem = m ∧ s.pond = p := by
  obtain ⟨hm, hr⟩ := Prod.mk.inj h
  exact ⟨hm, (Prod.mk.inj hr).1⟩

/-- A selected stripe of a block commit is one that is named and whose bank is live. -/
theorem selected_iff {c dry : Bool} : (c && !dry) = true ↔ c = true ∧ dry = false := by
  cases c <;> cases dry <;> decide

/-- The arrival bit of a chunk, where its bank is live (R252). -/
theorem State.setArrival_of_chunk (s : State) (mill : Nat) (x : Staged) {cmd i arr : Nat} (hx : x.chunk = some (cmd, i, arr)) :
    (s.setArrival mill x).bytes = (s.mem, if (s.mill mill).isDry arr then s.pond else
      memWrite s.pond (pondAt mill (arr + i / 8)) 1 (memRead s.pond (pondAt mill (arr + i / 8)) 1 ||| 2 ^ (i % 8)), s.saveAreas) := by
  simp only [State.setArrival, hx, State.post_bytes]
  split
  · rfl
  · rw [State.chkTest_bytes]
    rfl

/-- A dirty line that no format window maps goes to its place in HBM (R121). -/
theorem State.llcEvict_of_dirty {s : State} {line : Nat} {l : CLine} (hl : s.llcGet line = some l) (hd : l.dirty ≠ 0)
    (hw : s.winOf (homeStack (64 * line) l.attr) line = none) :
    (s.llcEvict line).mem = memWrite s.mem (64 * line) 64
        (if atKey l.attr == 0 then l.data else xtsEncrypt (s.xtsKey l.attr) line l.data).toNat
      ∧ (s.llcEvict line).pond = s.pond := by
  unfold State.llcEvict
  rw [hl]
  dsimp only
  rw [if_neg (by simpa using hd)]
  split
  · rename_i h
    cases hw.symm.trans h
  · exact ⟨rfl, rfl⟩

end Sys2Proof.Machine
end

section
/-! PROOFS. The cam tables, and the entries that tlbi drops (R133, R143, R171). -/

namespace Sys2Proof.Machine

open Sys2Proof

theorem camEntry_eq {n : Nat} (hn : 0 < n) (k t r c : Nat) : camEntry n k t r c = t / 2 ^ (n * (k * r + c)) % 2 ^ n := by
  rw [camEntry, bits_eq]
  congr 2
  omega

/-- A table is a Latin square when every value stands in every row and in every column (R143). -/
theorem latin_iff {n : Nat} (hn : 0 < n) (k t : Nat) : latin n k t = true ↔ ∀ i ∈ List.range k, ∀ e ∈ List.range k,
    (∃ j ∈ List.range k, t / 2 ^ (n * (k * i + j)) % 2 ^ n = e) ∧ (∃ j ∈ List.range k, t / 2 ^ (n * (k * j + i)) % 2 ^ n = e) := by
  simp only [latin, Bool.and_eq_true, List.all_eq_true, List.any_eq_true, beq_iff_eq, camEntry_eq hn, ← forall_and]

/-- The first cycle after `t` at which a round begins. -/
theorem nextAt_round (t : Nat) : nextAt (t + 1) 32 0 = t / 32 * 32 + 32 := by
  rw [nextAt]
  omega

/-- The entries that `hit` names leave the TLBs and walk caches of the clusters and dies named, and the completion waits for the
accesses that one of them translated (R133). -/
def State.dropTrans (s : State) (scope : Nat) (hit : Trans → Bool) (inC inD : Nat → Bool) : State :=
  let gone := s.clusters.flatMap (fun kc => if inC kc.1 then kc.2.tlb.filter hit else [])
    ++ s.dies.flatMap (fun kd => if inD kd.1 then kd.2.walkers.flatMap (fun kw => kw.2.cache.filter hit) else [])
  let t := { s with
    clusters := s.clusters.foldl (fun (t : Tab Cluster) (kc : Nat × Cluster) =>
      if inC kc.1 then tput {} t kc.1 { kc.2 with tlb := kc.2.tlb.filter (fun e => !hit e) } else t) s.clusters
    dies := s.dies.foldl (fun (t : Tab Die) (kd : Nat × Die) => if inD kd.1 then
        tput {} t kd.1 { kd.2 with walkers := kd.2.walkers.map (fun (kw : Nat × Walker) =>
          (kw.1, { kw.2 with cache := kw.2.cache.filter (fun e => !hit e) })) }
      else t) s.dies }
  (t.post (s.cycle + 1) 3 750 .tlbiComplete (s.cur :: s.openGlobal scope gone hit)).advance

theorem tlbiBody_eq (x : Args) (s : State) : tlbiBody x s = s.dropTrans x.a.immInt.toNat
    (tlbiHits (if (s.grp x.b 0).getLsbD 63 then none else some (bits (s.grp x.b 0).toNat 7 0)) (s.grp x.b 1).toNat (s.grp x.b 2).toNat)
    (fun c => if x.a.immInt.toNat == 2 then c == s.cur / 128 else if x.a.immInt.toNat == 5 then c / 256 == dieOf s.cur else true)
    (fun d => x.a.immInt.toNat == 6 || (x.a.immInt.toNat == 5 && d == dieOf s.cur)) := (rfl)

end Sys2Proof.Machine
end

section
/-! PROOFS. The checks of an access's address in the global space, the own pond and the crew's (R98, R125, R127, R131, R163, R319). -/

namespace Sys2Proof.Machine

open Sys2Proof

/-! The checks of an address. -/

theorem ofSigned_of_nonneg {va : Int} (h0 : 0 ≤ va) (h1 : va < 2 ^ 64) : ofSigned 64 va = va.toNat := by
  rw [ofSigned]
  congr 1
  exact Int.emod_eq_of_lt h0 h1

theorem ofSigned_word (w : Word) : ofSigned 64 (w.toNat : Int) = w.toNat := by
  rw [ofSigned_of_nonneg (Int.natCast_nonneg _) (by exact_mod_cast w.isLt), Int.toNat_natCast]

section
variable {lim n al : Nat} {va : Int}

theorem addrFault_space (h : va < 0 ∨ (lim : Int) ≤ va) : addrFault lim va n al = some (fcSpace, ofSigned 64 va) := by
  rw [addrFault, if_pos (by simpa using h)]

theorem addrFault_align (h0 : 0 ≤ va) (h1 : va < lim) (ha : va % al ≠ 0) : addrFault lim va n al = some (fcAlign, va.toNat) := by
  rw [addrFault, if_neg (by simp [h0, h1]), if_pos (by simpa using ha)]

theorem addrFault_past (h0 : 0 ≤ va) (h1 : va < lim) (ha : va % al = 0) (hp : (lim : Int) < va + n) :
    addrFault lim va n al = some (fcSpace, va.toNat) := by
  rw [addrFault, if_neg (by simp [h0, h1]), if_neg (by simp [ha]), if_pos hp]

theorem addrFault_none (h0 : 0 ≤ va) (h1 : va < lim) (ha : va % al = 0) (hp : va + n ≤ lim) : addrFault lim va n al = none := by
  rw [addrFault, if_neg (by simp [h0, h1]), if_neg (by simp [ha]), if_neg (by omega)]

theorem spanFault_space (h : va < 0 ∨ (lim : Int) < va + n) : spanFault lim va n al = some (fcSpace, ofSigned 64 va) := by
  rw [spanFault, if_pos (by simpa using h)]

theorem spanFault_align (h0 : 0 ≤ va) (h1 : va + n ≤ lim) (ha : va % al ≠ 0) : spanFault lim va n al = some (fcAlign, va.toNat) := by
  rw [spanFault, if_neg (by simp [h0, h1]), if_pos (by simpa using ha)]
end

/-- An access to the global space that is checked before it goes on. -/
def State.globalAt (s : State) (va : Int) (n al : Nat) (go : State) : State :=
  match addrFault globLim va n al with
  | some f => s.raise f.1 f.2
  | none => go

section
variable {s go : State} {va : Int} {n al : Nat}

theorem State.globalAt_space (h : va < 0 ∨ 2 ^ 57 ≤ va) : s.globalAt va n al go = s.raise fcSpace (ofSigned 64 va) := by
  rw [State.globalAt, addrFault_space (by exact_mod_cast h)]

theorem State.globalAt_align (h0 : 0 ≤ va) (h1 : va < 2 ^ 57) (ha : va % al ≠ 0) : s.globalAt va n al go = s.raise fcAlign va.toNat := by
  rw [State.globalAt, addrFault_align h0 (by exact_mod_cast h1) ha]

theorem State.globalAt_past (h0 : 0 ≤ va) (h1 : va < 2 ^ 57) (ha : va % al = 0) (hp : 2 ^ 57 < va + n) :
    s.globalAt va n al go = s.raise fcSpace va.toNat := by
  rw [State.globalAt, addrFault_past h0 (by exact_mod_cast h1) ha (by exact_mod_cast hp)]

/-- An access of no bytes is aligned to none only at 0, so one that fits lies in the space. -/
theorem State.globalAt_of_fits (h : fits (2 ^ 57) va n al) (hn : 0 < n ∨ al = 0) : s.globalAt va n al go = go := by
  obtain ⟨h0, hp, ha⟩ := h
  have hlt : va < ((2 ^ 57 : Nat) : Int) := by
    rcases hn with hn | rfl
    · omega
    · rw [Int.natCast_zero, Int.emod_zero] at ha
      omega
  rw [State.globalAt, show addrFault globLim va n al = none from addrFault_none h0 hlt ha hp]
end

/-- A fill of a global word, with the release that it carries. -/
def State.fillAt (s : State) (x : Args) (rel : Option Join) : State :=
  (({ s with uid := s.uid + 1 }).issueAccess
    { feAccess .fill x s (s.baseOff x).toNat with uid := s.uid, slot := s.cur, ix := s.me.pc.toNat } rel).advance.useBinds

theorem fillGBody_unbound {x : Args} {s : State} (h : fits (2 ^ 57) (s.baseOff x) 8 8)
    (he : s.bindsOfWord (s.launchOfSlot s.cur) (s.baseOff x).toNat = []) : fillGBody x s = s.fillAt x none := by
  refine (State.globalAt_of_fits (s := s) h (.inl (by decide))).trans ?_
  dsimp only
  rw [he]
  rfl

theorem fillGBody_bound {x : Args} {s : State} (h : fits (2 ^ 57) (s.baseOff x) 8 8)
    (he : s.bindsOfWord (s.launchOfSlot s.cur) (s.baseOff x).toNat ≠ []) : fillGBody x s = s.fillAt x
      (some (({ s with uid := s.uid + 1 } : State).releaseJoin (s.bindsOfWord (s.launchOfSlot s.cur) (s.baseOff x).toNat) {})) := by
  refine (State.globalAt_of_fits (s := s) h (.inl (by decide))).trans ?_
  dsimp only
  rw [if_neg (mt List.isEmpty_iff.mp he)]
  rfl

theorem scalar_size (ty : Nat) : 0 < tyBits ty / 8 ∨ tyBits ty / 8 = 0 := (Nat.eq_zero_or_pos _).symm

theorem atomic_size (form ty : Nat) : 0 < atomicSize form ty ∨ atomicAlign form ty = 0 := by
  unfold atomicSize atomicAlign
  split
  · exact .inl (by decide)
  · split
    · exact .inl (by decide)
    · exact scalar_size ty

/-! The checks of a pond and of a crew access. -/

section
variable {off : Int} {n al banks : Nat} {mk : Nat → Access} {go : Access → State → State} {s : State}

theorem pondIssue_space (h : off < 0 ∨ 2 ^ 21 < off + n) : pondIssue off n al banks mk go s = s.raise fcSpace (ofSigned 64 off) := by
  rw [pondIssue, show spanFault pondLim off n al = _ from spanFault_space (by exact_mod_cast h)]

theorem pondIssue_align (h0 : 0 ≤ off) (h1 : off + n ≤ 2 ^ 21) (ha : off % al ≠ 0) :
    pondIssue off n al banks mk go s = s.raise fcAlign off.toNat := by
  rw [pondIssue, show spanFault pondLim off n al = _ from spanFault_align h0 (by exact_mod_cast h1) ha]

/-- A crew access lies in the crew's space and in one pond. -/
abbrev crewInside (addr : Int) (n : Nat) : Prop := 0 ≤ addr ∧ addr < 2 ^ 25 ∧ addr.toNat % 2 ^ 21 + n ≤ 2 ^ 21

theorem crewIssue_space (h : ¬crewInside off n) : crewIssue off n al mk go s = s.raise fcSpace (ofSigned 64 off) := by
  rw [crewIssue, if_pos]
  simp only [Bool.or_eq_true, decide_eq_true_eq]
  unfold crewInside at h
  omega

theorem crew_member (h : crewInside off n) : bits off.toNat 24 21 = off.toNat / 2 ^ 21 := by
  obtain ⟨h0, h1, -⟩ := h
  rw [bits_eq]
  omega

theorem crewInside_check (h : crewInside off n) :
    ¬(decide (off < 0) || decide ((2 ^ 25 : Int) ≤ off) || decide (2 ^ 21 < off.toNat % 2 ^ 21 + n)) = true := by
  obtain ⟨h0, h1, h2⟩ := h
  simp only [Bool.or_eq_true, decide_eq_true_eq]
  omega

theorem crewIssue_out (h : crewInside off n) (hc : s.crewN ≤ off.toNat / 2 ^ 21) :
    crewIssue off n al mk go s = s.raise fcCrewout off.toNat := by
  rw [crewIssue, if_neg (crewInside_check h)]
  dsimp only
  rw [crew_member h, if_pos hc]

theorem crewIssue_align (h : crewInside off n) (hc : off.toNat / 2 ^ 21 < s.crewN) (ha : off.toNat % al ≠ 0) :
    crewIssue off n al mk go s = s.raise fcAlign off.toNat := by
  rw [crewIssue, if_neg (crewInside_check h)]
  dsimp only
  rw [crew_member h, if_neg (Nat.not_le_of_lt hc), if_pos (by simpa using ha)]
end

/-- The block that `xrnd` and `xclr` reach: one accumulator of 320 bytes, or a set of 4096 (R223, R224). -/
theorem xrnd_checked (x : Args) (s : State) : ∃ banks mk go, (if x.ty == 9 then xrndScalar x else xrndSet x) s =
    pondIssue (s.opVal x.b).toNat (if x.ty = 9 then 320 else 4096) 512 banks mk go s := by
  by_cases h : x.ty = 9
  · rw [if_pos (beq_iff_eq.mpr h), if_pos h]
    exact ⟨_, _, _, rfl⟩
  · rw [if_neg (mt beq_iff_eq.mp h), if_neg h]
    exact ⟨_, _, _, rfl⟩

theorem xclr_checked (x : Args) (s : State) : ∃ banks mk go, xclrBody x s =
    pondIssue (s.opVal x.b).toNat (if x.ty = 9 then 320 else 4096) 512 banks mk go s := by
  rw [xclrBody]
  by_cases h : x.ty = 9
  · rw [if_pos (beq_iff_eq.mpr h), if_pos h]
    exact ⟨_, _, _, rfl⟩
  · rw [if_neg (mt beq_iff_eq.mp h), if_neg h]
    exact ⟨_, _, _, rfl⟩

/-! The lanes of a gather or scatter. -/

/-- The test that a lane lies outside the global space. -/
theorem lane_outside_iff (q : Nat × Int) : (decide (q.2 < 0) || decide ((globLim : Int) ≤ q.2)) = true ↔ q.2 < 0 ∨ 2 ^ 57 ≤ q.2 := by
  rw [Bool.or_eq_true, decide_eq_true_iff, decide_eq_true_iff, show (globLim : Int) = 2 ^ 57 by rfl]

theorem laneFault_space {l before after : List (Nat × Int)} {lane : Nat × Int} (hl : l = before ++ lane :: after)
    (hb : ∀ q ∈ before, 0 ≤ q.2 ∧ q.2 < 2 ^ 57) (h : lane.2 < 0 ∨ 2 ^ 57 ≤ lane.2) :
    laneFault l = some (fcSpace, ofSigned 64 lane.2) := by
  have hf : l.find? (fun p => p.2 < 0 || (globLim : Int) ≤ p.2) = some lane := by
    refine List.find?_eq_some_iff_append.mpr ⟨?_, before, after, hl, fun q hq => ?_⟩
    · exact (lane_outside_iff lane).mpr h
    · rw [Bool.not_eq_true', Bool.eq_false_iff, ne_eq, lane_outside_iff]
      have := hb q hq
      omega
  rw [laneFault, hf]

theorem lanes_inside {l : List (Nat × Int)} (h : ∀ q ∈ l, 0 ≤ q.2 ∧ q.2 < 2 ^ 57) :
    l.find? (fun p => p.2 < 0 || (globLim : Int) ≤ p.2) = none := by
  refine List.find?_eq_none.mpr fun q hq => ?_
  rw [lane_outside_iff]
  have := h q hq
  omega

theorem laneFault_align {l before after : List (Nat × Int)} {lane : Nat × Int} (hl : l = before ++ lane :: after)
    (hin : ∀ q ∈ l, 0 ≤ q.2 ∧ q.2 < 2 ^ 57) (hb : ∀ q ∈ before, q.2 % 4 = 0) (h : lane.2 % 4 ≠ 0) :
    laneFault l = some (fcAlign, lane.2.toNat) := by
  have hf : l.find? (fun p => p.2 % 4 != 0) = some lane := by
    refine List.find?_eq_some_iff_append.mpr ⟨by simpa using h, before, after, hl, fun q hq => ?_⟩
    simpa using hb q hq
  rw [laneFault, lanes_inside hin, hf]
  rfl

theorem laneFault_none {l : List (Nat × Int)} (h : ∀ q ∈ l, 0 ≤ q.2 ∧ q.2 < 2 ^ 57 ∧ q.2 % 4 = 0) : laneFault l = none := by
  have hf : l.find? (fun p => p.2 % 4 != 0) = none := List.find?_eq_none.mpr fun q hq => by simpa using (h q hq).2.2
  rw [laneFault, lanes_inside (fun q hq => ⟨(h q hq).1, (h q hq).2.1⟩), hf]
  rfl

/-- A gather whose lanes pass the checks, where its lanes name some byte or none. -/
theorem vgthgBody_of_lanes {x : Args} {s : State} (h : laneFault (s.laneAddrs x) = none) :
    let a := hinted x { kind := .load, addr := ((laneElems (s.laneAddrs x)).head?.map (·.addr)).getD 0, elems := laneElems (s.laneAddrs x) }
    let t := s.issueLoad a [⟨.v, x.a.idx, 0, vecMask 32 (s.maskM x) x.z⟩] (max 1 a.lines.length) 0
    vgthgBody x s = if laneElems (s.laneAddrs x) = [] then t.landAt t.cur s.uid t.cycle else t := by
  intro a t
  simp only [vgthgBody, h, List.isEmpty_iff]
  rfl

theorem vsctgBody_of_lanes {x : Args} {s : State} (h : laneFault (s.laneAddrs x) = none) :
    vsctgBody x s = s.issueStore
      { kind := .store, addr := ((laneElems (s.laneAddrs x)).head?.map (·.addr)).getD 0, elems := laneElems (s.laneAddrs x),
        data := (s.me.vreg x.a.idx).setWidth 4096, ty := x.ty } := by
  simp only [vsctgBody, h]

theorem gather_fault {x : Args} {s : State} {f : Nat × Nat} (h : laneFault (s.laneAddrs x) = some f) :
    vgthgBody x s = s.raise f.1 f.2 ∧ vsctgBody x s = s.raise f.1 f.2 := by
  simp only [vgthgBody, vsctgBody, h, and_self]

/-! Tiles. -/

section
variable (kind : AccKind) (x : Args) (s : State)

theorem tileBody_far (h : 2 ^ 57 ≤ (s.grp x.b 0).toNat) : tileBody kind x s = s.raise fcSpace (s.grp x.b 0).toNat := if_pos h

theorem tileBody_off (h : (s.grp x.b 0).toNat < 2 ^ 57) (ho : 2 ^ 21 ≤ (s.grp x.b 1).toNat) :
    tileBody kind x s = s.raise fcSpace (s.grp x.b 1).toNat := (if_neg (Nat.not_le_of_lt h)).trans (if_pos ho)

theorem tileBody_align (h : (s.grp x.b 0).toNat < 2 ^ 57) (ho : (s.grp x.b 1).toNat < 2 ^ 21) (ha : (s.grp x.b 1).toNat % 512 ≠ 0) :
    tileBody kind x s = s.raise fcAlign (s.grp x.b 1).toNat :=
  (if_neg (Nat.not_le_of_lt h)).trans ((if_neg (Nat.not_le_of_lt ho)).trans (if_pos (bne_iff_ne.mpr ha)))

theorem tileBody_inside (h : (s.grp x.b 0).toNat < 2 ^ 57) (ho : (s.grp x.b 1).toNat < 2 ^ 21) (ha : (s.grp x.b 1).toNat % 512 = 0) :
    tileBody kind x s = s.issueLoad
      { kind := kind, addr := (s.grp x.b 0).toNat, aux := (s.grp x.b 1).toNat, bud := x.bud.toNat, d := x.d, ty := x.c.immInt.toNat }
      (regS x) 1 0 :=
  (if_neg (Nat.not_le_of_lt h)).trans ((if_neg (Nat.not_le_of_lt ho)).trans (if_neg (by simpa using ha)))
end

end Sys2Proof.Machine
end

section
/-! PROOFS. A copy whose descriptor is reserved (R248, R371). -/

namespace Sys2Proof.Machine

open Sys2Proof

/-- A cfetch whose descriptor has come to the unit with reserved bits set: it is to fault with ILLOP. Bits [95:32] of its word are
5, and its descriptor's register holds 0. -/
def badDescriptor : State :=
  { State.reset with arg := [1, fcIllop, 0], copies := [(1, { id := 1, word := 5, stage := 6, r := [0] })] }

/-- What the late faults on the agenda of a result name: slot, code, ring number, DETAIL, thread and context (R371). -/
def lateFaultArgs : Result → List (List Nat)
  | .next s => s.agenda.filterMap (fun d => match d.what with | .event .lateFault a => some a | _ => none)
  | _ => []

end Sys2Proof.Machine
end

section
/-! PROOFS. The package: its ports, its enumeration table, its clock and a host's requests (R290 to R302, R379). -/

namespace Sys2Proof.Machine

open Sys2Proof

@[simp] theorem State.llcFill_arg (s : State) (line attr : Nat) : (s.llcFill line attr).arg = s.arg := by
  unfold State.llcFill
  split <;> rfl

/-! Flits of a port (R295, R296). -/

/-- The port `p` of the package. -/
def State.fport (s : State) (p : Nat) : Port := tget {} s.ports_ p

def State.setFport (s : State) (p : Nat) (x : Port) : State := { s with ports_ := tput {} s.ports_ p x }

section
variable {s : State} {p : Nat} {f : FFlit}

theorem State.receiveFlit_bad (h : f.checks = false ∨ 4 < f.cls) :
    s.receiveFlit p f = s.setFport p { s.fport p with errors := (s.fport p).errors + 1, asked := some (s.fport p).recvSeq } := by
  refine if_pos ?_
  rcases h with h | h
  · rw [h]
    rfl
  · rw [decide_eq_true h, Bool.or_true]
    rfl

/-- A flit of a request, a response or a write passes the test of its place. -/
theorem flit_good (b : Bool) (hc : f.checks = true) (hk : f.cls < 3) : ¬(!f.checks || decide (4 < f.cls) || (f.cls == 3 && !f.head && b)) = true := by
  have h3 : (f.cls == 3) = false := beq_false_of_ne (by omega)
  have h4 : ¬4 < f.cls := by omega
  simp [hc, h3, h4]

theorem State.receiveFlit_early (hc : f.checks = true) (hk : f.cls < 3) (hs : f.seq ≠ (s.fport p).recvSeq) :
    s.receiveFlit p f = s := by
  exact (if_neg (flit_good _ hc hk)).trans (if_pos (bne_iff_ne.mpr hs))

theorem State.receiveFlit_astray (hc : f.checks = true) (hk : f.cls < 3) (hs : f.seq = (s.fport p).recvSeq)
    (hd : f.dst ≠ s.part.pkgix) : s.receiveFlit p f = s.setFport p
      { s.fport p with recvSeq := ((s.fport p).recvSeq + 1) % 65536, asked := none, errors := (s.fport p).errors + 1 } := by
  have hb : ¬(f.seq != (s.fport p).recvSeq) = true := by simp [hs]
  exact (if_neg (flit_good _ hc hk)).trans ((if_neg hb).trans (if_pos (bne_iff_ne.mpr hd)))
end

theorem fabricReplay_of_seq {s : State} {p seq : Nat} (ha : s.arg = [p, seq]) : exec .fabricReplay s =
    .next (s.setFport p { s.fport p with again := (s.fport p).again ++ (s.fport p).replay.dropWhile (fun f => f.seq != seq) }) := by
  simp only [exec, execFabricReplay]
  split
  · rename_i h
    cases ha.symm.trans h
  · rename_i h
    cases ha.symm.trans h
    rfl
  · rename_i h
    exact absurd ha (h p seq)

theorem fabricReplay_of_flit {s : State} {p side data : Nat} (ha : s.arg = [p, side, data]) :
    exec .fabricReplay s = .next (s.receiveFlit p { side := BitVec.ofNat 64 side, data := BitVec.ofNat 512 data }) := by
  simp only [exec, execFabricReplay, ha]

/-! The enumeration table and the skyclock (R290, R379). -/

/-- An update of the table that names no window's fields writes the records that it lists. -/
theorem enumTableUpdate_of_records {s : State} (hl : s.arg.length ≠ 5) : exec .enumTableUpdate s =
    .next ({ (s.writeRecords (s.tableGen + 1) s.arg).writeRecord 1 0 (s.tableGen + 1) with tableGen := s.tableGen + 1 }.post
      ((s.writeRecords (s.tableGen + 1) s.arg).writeRecord 1 0 (s.tableGen + 1)).cycle 3 931 .machineCheck [4, 0, 0]) := by
  simp only [exec, execEnumTableUpdate]
  split
  · rename_i h
    exact absurd (congrArg List.length h) hl
  · rfl

theorem skyclockDiscipline_of_err {s : State} {sync ppm err : Nat} (ha : s.arg = [sync, ppm, err]) (he : err = s.skyErr) :
    exec .skyclockDiscipline s = .next { s with
      skyUnsync := decide (sync = 0), skyTime := s.skyParts, skyAt := s.cycle, skyPpm := ((min ppm 200 : Nat) : Int) - 100, skyErr := err } := by
  have h0 : s.arg.headD 0 = sync := by rw [ha]; rfl
  have h1 : s.arg.getD 1 100 = ppm := by rw [ha]; rfl
  have h2 : s.arg.getD 2 0 = err := by rw [ha]; rfl
  simp only [exec, execSkyclockDiscipline, h0, h1, h2]
  rw [if_pos (beq_iff_eq.mpr he.symm)]
  rfl

/-- An access through a window of this package goes to its own LLC (R294). -/
theorem windowAccess_of_own {s : State} {r : Nat} (ha : s.arg = [r]) (hq : (s.reqs.lookup r).isSome = true)
    (hw : s.windowNode (s.req r).pa = s.part.pkgix) :
    exec .windowAccess s = .next ((s.setReq r { s.req r with pa := (s.req r).pa % 2 ^ 51, attr := 32, llc := true }).llcServe r) := by
  have h0 : s.arg.headD 0 = r := by rw [ha]; rfl
  have h1 : s.arg.getD 1 0 = 0 := by rw [ha]; rfl
  have hn : ¬(s.reqs.lookup r).isNone = true := by
    rw [Option.isNone_iff_eq_none]
    exact fun hn => nomatch hn ▸ hq
  simp only [exec, execWindowAccess, h0, h1]
  exact (if_neg hn).trans (if_pos (beq_iff_eq.mpr hw))

/-! A host's request (R302). -/

/-- Whether a line of a context's opened range is the node's. -/
def State.hostMay (s : State) (node pa : Nat) : Bool :=
  (List.range 256).any (fun ctx => s.ctxExists ctx
    && (s.context ctx).opened.any (fun r => r.1 == node && r.2.1 ≤ pa && pa + 64 ≤ r.2.1 + r.2.2))

theorem State.hostMay_of_opened {s : State} {node pa c : Nat} (hc : c < 256) (he : s.ctxExists c = true)
    (ho : ∃ r ∈ (s.context c).opened, r.1 = node ∧ r.2.1 ≤ pa ∧ pa + 64 ≤ r.2.1 + r.2.2) : s.hostMay node pa = true := by
  obtain ⟨r, hr, h1, h2, h3⟩ := ho
  refine List.any_eq_true.mpr ⟨c, List.mem_range.mpr hc, ?_⟩
  rw [he, Bool.true_and]
  exact List.any_eq_true.mpr ⟨r, hr, by simp [h1, h2, h3]⟩

theorem State.hostMay_of_none {s : State} {node : Nat} (pa : Nat)
    (h : ∀ c, c < 256 → s.ctxExists c = true → ∀ r ∈ (s.context c).opened, r.1 ≠ node) : s.hostMay node pa = false := by
  refine List.any_eq_false.mpr fun c hc hn => ?_
  obtain ⟨he, ho⟩ := Bool.and_eq_true_iff.mp hn
  obtain ⟨r, hr, ht⟩ := List.any_eq_true.mp ho
  simp only [Bool.and_eq_true, beq_iff_eq] at ht
  exact h c (List.mem_range.mp hc) he r hr ht.1.1

/-- A command opens a range to a node. -/
theorem hostMemoryRequest_of_open {s : State} {ctx node start len : Nat} (ha : s.arg = [ctx, node, start, len]) (he : s.ctxExists ctx = true) :
    exec .hostMemoryRequest s = .next (s.openRange ctx node start len) := by
  simp only [exec, execHostMemoryRequest, ha]
  rw [if_pos he]

theorem formatWindowWrite_of_arg {s : State} {stack w v : Nat} (ha : s.arg = [stack, w, v]) :
    exec .formatWindowWrite s = .next { s with windows := tput 0 s.windows (16 * stack + w) (BitVec.ofNat 256 v) } := by
  have h2 : s.arg.getD 2 0 = v := by rw [ha]; rfl
  obtain ⟨h0, h1⟩ := State.arg_two ha
  simp only [exec, execFormatWindowWrite, h0, h1, h2]

section
variable {s : State} {node a st m d tag : Nat} (ha : s.arg = [node, a, st, m, d, tag])
include ha

theorem hostRead_opened (hst : st = 0) (hok : s.hostMay node (a / 64 * 64) = true) (hw : (a / 64 * 64).testBit 51 = false) :
    let attr := match s.llcGet (a / 64 * 64 / 64) with | some l => l.attr | none => 0
    let t := s.llcFill (a / 64 * 64 / 64) attr
    exec .hostMemoryRequest s = .next (t.hostResponse (homeStack (a / 64 * 64) attr) node tag 0 (t.llcLine (a / 64 * 64 / 64) attr)) := by
  intro attr t
  have hno : ¬(!s.hostMay node (a / 64 * 64) || (a / 64 * 64).testBit 51) = true := by
    rw [hok, hw]
    exact Bool.false_ne_true
  simp only [exec, execHostMemoryRequest, ha, State.llcFill_arg]
  exact (if_neg hno).trans (if_pos (beq_iff_eq.mpr hst))

theorem host_refused (hok : s.hostMay node (a / 64 * 64) = false) :
    let attr := match s.llcGet (a / 64 * 64 / 64) with | some l => l.attr | none => 0
    exec .hostMemoryRequest s = .next (s.hostResponse (homeStack (a / 64 * 64) attr) node tag fcPerm 0) := by
  intro attr
  have hyes : (!s.hostMay node (a / 64 * 64) || (a / 64 * 64).testBit 51) = true := by
    rw [hok]
    rfl
  simp only [exec, execHostMemoryRequest, ha, State.llcFill_arg]
  exact if_pos hyes
end

end Sys2Proof.Machine
end

section
/-! PROOFS. The obligations of the global path, of memory and of the package. -/

open Sys2Proof Sys2Proof.Machine

/-- Settles O47: the state's bytes in canonical form are an invariant of every event that writes them, and every other
event or instruction leaves them alone. -/
theorem stepKeepsMemoryCanonical : Obligations.StepKeepsMemoryCanonical :=
  fun s t hs h => (step_canonical (s.bytesOk_iff.mp hs)) t h

/-- Settles O46. -/
theorem onlyTheseWriteMemory : Obligations.OnlyTheseWriteMemory := by
  intro i s t h hw
  by_cases hv : i = .vacate
  · subst hv
    obtain ⟨hm, hp⟩ := Prod.mk.inj (execVacate_stored s t h)
    exact ⟨fun hn => absurd rfl hn, fun a => ⟨congrArg (memByte · a) hm, congrArg (memByte · a) hp⟩⟩
  · obtain ⟨hm, hr⟩ := Prod.mk.inj (exec_kept hw hv s t h)
    obtain ⟨hp, ha⟩ := Prod.mk.inj hr
    exact ⟨fun _ => ha, fun a => ⟨congrArg (memByte · a) hm, congrArg (memByte · a) hp⟩⟩

/-- Each kind of access writes its one place of the pond, or reads. -/
theorem pondServiceFrame_holds : Claims.PondServiceFrame := by
  intro s mill q a hok
  obtain ⟨-, hp⟩ := hok
  dsimp only
  have store (h : q.acc.kind = .store) := State.eq_of_bytes (s.serveWord_of_store mill q h)
  have fill (h : q.acc.kind = .fill) := State.eq_of_bytes (s.serveWord_of_fill mill q h)
  have atomic {form : Nat} (h : q.acc.kind = .atomic form) := State.eq_of_bytes (s.serveWord_of_atomic mill q h)
  have read (h1 : q.acc.kind ≠ .store) (h2 : q.acc.kind ≠ .fill) (h3 : ∀ form, q.acc.kind ≠ .atomic form) :=
    State.eq_of_bytes (s.serveWord_of_read mill q h1 h2 h3)
  refine ⟨?_, fun h ha => ?_, fun h j hj hm => ?_, fun h ha => ?_, fun h j hj => ?_, fun form h ha => ?_, fun form j h hj => ?_, fun h => ?_⟩
  · by_cases h1 : q.acc.kind = .store
    · exact (store h1).1
    by_cases h2 : q.acc.kind = .fill
    · exact (fill h2).1
    by_cases h3 : ∃ form, q.acc.kind = .atomic form
    · exact h3.elim fun _ h => (atomic h).1
    · exact (read h1 h2 (not_exists.mp h3)).1
  · rw [(store h).2, memByte_memWriteMask_other _ _ _ _ _ _ hp]
    simpa [BitVec.testBit_toNat] using ha
  · rw [(store h).2, memByte_memWriteMask_at _ _ _ _ _ _ hp hj (by simpa [BitVec.testBit_toNat] using hm)]
  · rw [(fill h).2, memByte_memWrite_other _ _ _ _ _ hp ha]
  · rw [(fill h).2, memByte_memWrite_at _ _ _ _ _ hp hj, bits_byte _ _ _ _ (by omega), Nat.zero_add]
  · rw [(atomic h).2, memByte_memWrite_other _ _ _ _ _ hp ha]
  · rw [(atomic h).2, memByte_memWrite_at _ _ _ _ _ hp hj]
  · simp only [List.mem_cons, List.not_mem_nil, or_false] at h
    refine (read ?_ ?_ fun form => ?_).2
    all_goals rcases h with h | h | h | h | h <;> rw [h] <;> exact nofun

/-- The write of the line's 64 bytes. -/
theorem llcWriteBackFrame_holds : Claims.LlcWriteBackFrame := by
  intro s line l a ⟨hm, _⟩ hl hd hw
  obtain ⟨hmem, hpond⟩ := State.llcEvict_of_dirty hl hd hw
  refine ⟨hpond, fun ha => ?_, fun hk j hj => ?_⟩
  · rw [hmem, memByte_memWrite_other _ _ _ _ _ hm ha]
  · rw [hmem, memByte_memWrite_at _ _ _ _ _ hm hj, if_pos (by simpa using hk)]

/-- The three kinds of block, each a `blockWrite` with its own selection and values, and the arrival bit. -/
theorem blockCommitFrame_holds : Claims.BlockCommitFrame := by
  refine ⟨fun s mill x a hok => ?_, fun s mill x cmd i arr a hok hx => ?_⟩
  · obtain ⟨-, hp⟩ := hok
    dsimp only
    generalize hkind : (x.acc.map (fun b => b.kind)).getD .blkStore = kind
    have kind_of {b : Access} (hb : x.acc = some b) : b.kind = kind := by
      rw [← hkind, hb]
      rfl
    have some_of (h : kind ≠ .blkStore) : ∃ b, x.acc = some b := by
      cases hb : x.acc with
      | none => exact absurd (by rw [← hkind, hb]; rfl) h
      | some b => exact ⟨b, rfl⟩
    have xacc {b : Access} (hb : x.acc = some b) (hk : kind = .xacc) :=
      State.eq_of_bytes (s.commitOne_of_xacc mill x hb ((kind_of hb).trans hk))
    have atomic {b : Access} {form : Nat} (hb : x.acc = some b) (hk : kind = .atomic form) :=
      State.eq_of_bytes (s.commitOne_of_atomic mill x hb ((kind_of hb).trans hk))
    have store (hk : kind ≠ .xacc) (ha : ∀ form, kind ≠ .atomic form) :=
      State.eq_of_bytes (s.commitOne_of_store mill x (fun b hb => kind_of hb ▸ hk) (fun b form hb => kind_of hb ▸ ha form))
    refine ⟨?_, fun hk ha hout => ?_, fun hk ha k j hk8 hj hm hd => ?_, fun b hb hk hout => ?_, fun b k j hb hk hk8 hj hm hd => ?_,
      fun form hk hout => ?_, fun b form k j hb hk hk5 hj hd => ?_⟩
    · by_cases hk : kind = .xacc
      · obtain ⟨b, hb⟩ := some_of (hk ▸ nofun)
        exact (xacc hb hk).1
      by_cases ha : ∃ form, kind = .atomic form
      · obtain ⟨form, ha⟩ := ha
        obtain ⟨b, hb⟩ := some_of (ha ▸ nofun)
        exact (atomic hb ha).1
      · exact (store hk (not_exists.mp ha)).1
    · rw [(store hk ha).2]
      exact memByte_blockWrite_other hp fun k hk8 h => hout k hk8 (selected_iff.mp h).1 (selected_iff.mp h).2
    · rw [(store hk ha).2, memByte_blockWrite_at hp hk8 hj (selected_iff.mpr ⟨hm, hd⟩), bits_byte _ _ _ _ (by omega)]
    · rw [(xacc hb hk).2]
      exact memByte_blockWrite_other hp fun k hk8 h => hout k hk8 (selected_iff.mp h).1 (selected_iff.mp h).2
    · rw [(xacc hb hk).2, memByte_blockWrite_at hp hk8 hj (selected_iff.mpr ⟨hm, hd⟩), memRead_blockWrite_before k hp]
      rfl
    · obtain ⟨b, hb⟩ := some_of (hk ▸ nofun)
      rw [(atomic hb hk).2]
      refine memByte_blockWrite_other hp fun k hk5 h => ?_
      simp only [pondAt] at hout ⊢
      omega
    · rw [(atomic hb hk).2, memByte_blockWrite_at hp hk5 hj (selected_iff.mpr ⟨rfl, hd⟩), bits_byte _ _ _ _ (by omega)]
  · obtain ⟨-, hp⟩ := hok
    obtain ⟨hmem, hpond⟩ := State.eq_of_bytes (s.setArrival_of_chunk mill x hx)
    refine ⟨hmem, fun ha => ?_, fun hd => ?_⟩
    · rw [hpond]
      split
      · rfl
      · exact memByte_memWrite_other _ _ _ _ _ hp (by omega)
    · have hb := memByte_memWrite_at s.pond (pondAt mill (arr + i / 8)) 1
        (memRead s.pond (pondAt mill (arr + i / 8)) 1 ||| 2 ^ (i % 8)) 0 hp Nat.one_pos
      have hlt : (memByte s.pond (pondAt mill (arr + i / 8))).toNat ||| 2 ^ (i % 8) < 2 ^ 8 :=
        Nat.or_lt_two_pow (BitVec.isLt _) (Nat.pow_lt_pow_right (by decide) (Nat.mod_lt i (by decide)))
      rw [Nat.add_zero] at hb
      rw [hpond, hd, if_neg Bool.false_ne_true, hb]
      simp only [memRead, Nat.mul_zero, Nat.add_zero, Nat.pow_zero, Nat.div_one]
      exact Nat.mod_eq_of_lt hlt

/-- Settles O48. -/
theorem storeFrames : Obligations.StoreFrames := ⟨pondServiceFrame_holds, blockCommitFrame_holds, llcWriteBackFrame_holds⟩

/-- The two tests of `camw` are `latin_iff`; `camsw` posts the switch for the next round. -/
theorem camTables_hold : Claims.CamTables := by
  refine ⟨fun x s r hb => ?_, fun x s r hb => ⟨fun hp => ?_, fun hp => ?_⟩⟩
  · intro v o ok
    have he : exec (.camw x) s = .next (camwBody x r) := plain_begins _ hb
    have hin : latin 3 8 v = true ↔ ∀ i ∈ List.range 8, ∀ e ∈ List.range 8,
        (∃ j ∈ List.range 8, v / 2 ^ (24 * i + 3 * j) % 8 = e) ∧ (∃ j ∈ List.range 8, v / 2 ^ (24 * j + 3 * i) % 8 = e) := by
      simpa only [Nat.mul_add, ← Nat.mul_assoc, Nat.reduceMul, Nat.reducePow] using latin_iff (n := 3) (by decide) 8 v
    have hout : latin 2 4 o = true ↔ ∀ i ∈ List.range 4, ∀ e ∈ List.range 4,
        (∃ j ∈ List.range 4, o / 2 ^ (2 * (4 * i + j)) % 4 = e) ∧ (∃ j ∈ List.range 4, o / 2 ^ (2 * (4 * j + i)) % 4 = e) :=
      latin_iff (by decide) 4 o
    have hok : (!latin 3 8 v || !latin 2 4 (o % 2 ^ 32) || decide (2 ^ 32 ≤ o)) = true ↔ ¬ok := by
      rw [show ok ↔ latin 3 8 v = true ∧ latin 2 4 o = true ∧ o < 2 ^ 32 from and_congr hin.symm (and_congr_left' hout.symm)]
      by_cases ho : o < 2 ^ 32
      · rw [Nat.mod_eq_of_lt ho]
        cases latin 3 8 v <;> cases latin 2 4 o <;> simp
      · have hle : 2 ^ 32 ≤ o := Nat.le_of_not_lt ho
        exact ⟨fun _ hc => ho hc.2.2, fun _ => by rw [decide_eq_true hle, Bool.or_true]⟩
    refine ⟨fun h => he.trans (congrArg _ ?_), fun h => he.trans (congrArg _ ?_)⟩
    · exact if_neg fun hn => hok.mp hn h
    · exact if_pos (hok.mpr h)
  · refine (plain_begins _ hb : exec (.camsw x) s = .next (camswBody r)).trans ?_
    rw [camswBody]
    rw [if_pos (show (r.mill (millOf r.cur)).camPend = true from hp)]
  · refine (plain_begins _ hb : exec (.camsw x) s = .next (camswBody r)).trans ?_
    rw [camswBody]
    rw [if_neg (by rw [show (r.mill (millOf r.cur)).camPend = false from hp]; exact Bool.false_ne_true), nextAt_round]
    rfl

/-- The body's entries and scopes are those of the claim. -/
theorem tlbInvalidate_holds : Claims.TlbInvalidate := by
  intro x s r hb who ctx scope hit inC inD gone t
  have hinC : (fun c => if scope == 2 then c == r.cur / 128 else if scope == 5 then c / 256 == dieOf r.cur else true) = inC := by
    funext c
    simp only [inC, dieOf, beq_eq_decide, decide_eq_true_eq]
  have hinD : (fun d => scope == 6 || (scope == 5 && d == dieOf r.cur)) = inD := by
    funext d
    simp only [inD, dieOf, beq_eq_decide]
  have hctx : bits who.toNat 7 0 = who.toNat % 2 ^ 8 := by rw [bits_eq, Nat.pow_zero, Nat.div_one]
  have hbody : tlbiBody x r = r.dropTrans scope hit inC inD := by rw [tlbiBody_eq, hctx, hinC, hinD]
  exact (plain_begins _ hb : exec (.tlbi x) s = .next (tlbiBody x r)).trans (congrArg Host.Outcome.next hbody)

/-- Settles O23. -/
theorem tablesOfHardware : Obligations.TablesOfHardware := ⟨camTables_hold, tlbInvalidate_holds⟩

/-- Each form's body is the access, checked. -/
theorem globalAccesses_hold : Claims.GlobalAccesses := by
  intro x s r n va o reg vec fe
  have hn : 0 < n ∨ n = 0 := scalar_size x.ty
  refine ⟨fun hb hf => ?_, fun hb hf => ?_, fun hb hf => ?_, fun hb hf => ?_, fun hb => ⟨fun h0 h1 => ?_, fun h => ?_⟩,
    fun hb hf => ?_, fun hb hf => ?_, fun hb hf => ?_, fun hb hf he => ?_⟩
  · exact (buffered_begins _ hb).trans (congrArg Host.Outcome.next (State.globalAt_of_fits (s := r) hf hn))
  · exact (plain_begins _ hb).trans (congrArg Host.Outcome.next (State.globalAt_of_fits (s := r) hf hn))
  · exact (buffered_begins _ hb).trans (congrArg Host.Outcome.next (State.globalAt_of_fits (s := r) hf (.inl (by decide))))
  · exact (plain_begins _ hb).trans (congrArg Host.Outcome.next (State.globalAt_of_fits (s := r) hf (.inl (by decide))))
  · refine (plain_begins _ hb).trans (congrArg Host.Outcome.next (if_neg ?_))
    exact fun hc => ((lane_outside_iff (0, va)).mp hc).elim (Int.not_lt.mpr h0) (Int.not_le.mpr h1)
  · exact (plain_begins _ hb).trans (congrArg Host.Outcome.next (if_pos ((lane_outside_iff (0, va)).mpr h)))
  · exact (plain_begins _ hb).trans (congrArg Host.Outcome.next (State.globalAt_of_fits (s := r) hf (.inl (by decide))))
  · exact (plain_begins _ hb).trans (congrArg Host.Outcome.next (State.globalAt_of_fits (s := r) hf (.inl (by decide))))
  · exact (buffered_begins _ hb).trans (congrArg Host.Outcome.next (State.globalAt_of_fits (s := r) hf (.inl (by decide))))
  · exact (plain_begins _ hb).trans (congrArg Host.Outcome.next (fillGBody_unbound hf he))

/-- The release goes with the access where the word is bound, and the take's entry names what it acquires. -/
theorem boundFullEmpty_holds : Claims.BoundFullEmpty := by
  intro x s r va es a b feEntry hf
  refine ⟨fun hb he => ?_, fun hb => ?_⟩
  · exact (plain_begins _ hb).trans (congrArg Host.Outcome.next (fillGBody_bound hf he))
  · exact (buffered_begins _ hb).trans (congrArg Host.Outcome.next (State.globalAt_of_fits (s := r) hf (.inl (by decide))))

/-- Lanes that pass the checks leave as one access; with none active the entry lands at once. -/
theorem gathersAndScatters_hold : Claims.GathersAndScatters := by
  intro x s r l es first hl
  have hf : laneFault l = none := laneFault_none hl
  refine ⟨fun hb => ?_, fun hb => ?_⟩
  · intro a t
    exact (buffered_begins _ hb).trans (congrArg Host.Outcome.next (vgthgBody_of_lanes hf))
  · exact (plain_begins _ hb).trans (congrArg Host.Outcome.next (vsctgBody_of_lanes hf))

/-- Settles O28. -/
theorem globalPath : Obligations.GlobalPath := ⟨globalAccesses_hold, boundFullEmpty_holds, gathersAndScatters_hold⟩

/-- One access, checked, whose size and alignment the form and type give. -/
theorem globalAtomics_hold : Claims.GlobalAtomics := by
  intro x s r p hp hb o hf
  simp only [List.mem_cons, List.not_mem_nil, or_false] at hp
  rcases hp with rfl | rfl | rfl | rfl | rfl | rfl | rfl | rfl | rfl | rfl | rfl | rfl
  all_goals exact (buffered_begins _ hb).trans (congrArg Host.Outcome.next (State.globalAt_of_fits (s := r) hf (atomic_size _ _)))

/-- The body of each kind of tile, past its three checks. -/
theorem tileAccesses_hold : Claims.TileAccesses := by
  intro x s r p hp hb va off h1 h2 h3
  simp only [List.mem_cons, List.not_mem_nil, or_false] at hp
  rcases hp with rfl | rfl | rfl | rfl
  all_goals exact (buffered_begins _ hb).trans (congrArg Host.Outcome.next (tileBody_inside _ x r h1 h2 h3))

/-- Settles O30. -/
theorem atomicsAndTiles : Obligations.AtomicsAndTiles := ⟨globalAtomics_hold, tileAccesses_hold⟩

/-- Each form is an access that `State.globalAt` checks. -/
theorem accessFaults_hold : Claims.AccessFaults := by
  intro x s r n va p hp hb lim size al
  have he : ∃ go, exec p.1 s = .next (r.globalAt va size al go) := by
    simp only [List.mem_cons, List.not_mem_nil, or_false] at hp
    rcases hp with rfl | rfl | rfl | rfl | rfl | rfl | rfl | rfl | rfl
    · exact ⟨_, buffered_begins _ hb⟩
    · exact ⟨_, plain_begins _ hb⟩
    · exact ⟨_, buffered_begins _ hb⟩
    · exact ⟨_, plain_begins _ hb⟩
    · exact ⟨_, plain_begins _ hb⟩
    · exact ⟨_, plain_begins _ hb⟩
    · exact ⟨_, plain_begins _ hb⟩
    · exact ⟨_, buffered_begins _ hb⟩
    · exact ⟨_, buffered_begins _ hb⟩
  have hlim : lim = 2 ^ 57 := by
    simp only [List.mem_cons, List.not_mem_nil, or_false] at hp
    rcases hp with rfl | rfl | rfl | rfl | rfl | rfl | rfl | rfl | rfl <;> rfl
  obtain ⟨go, he⟩ := he
  rw [he, hlim]
  exact ⟨fun h => congrArg _ (State.globalAt_space h), fun h0 h1 ha => congrArg _ (State.globalAt_align h0 h1 ha),
    fun h0 h1 ha hp => congrArg _ (State.globalAt_past h0 h1 ha hp)⟩

/-- Each form is an access that `pondIssue` checks. -/
theorem pondFaults_hold : Claims.PondFaults := by
  intro x s r n va p hp hb size al
  have he : ∃ banks mk go, exec p.1 s = .next (pondIssue va size al banks mk go r) := by
    simp only [List.mem_cons, List.not_mem_nil, or_false] at hp
    rcases hp with rfl | rfl | rfl | rfl | rfl | rfl | rfl | rfl
    · exact ⟨_, _, _, (buffered_begins _ hb).trans (by unfold ldpBody; rfl)⟩
    · exact ⟨_, _, _, (plain_begins _ hb).trans (by unfold stpBody; rfl)⟩
    · exact ⟨_, _, _, buffered_begins _ hb⟩
    · exact ⟨_, _, _, plain_begins _ hb⟩
    · exact ⟨_, _, _, plain_begins _ hb⟩
    · exact ⟨_, _, _, plain_begins _ hb⟩
    · exact ⟨_, _, _, buffered_begins _ hb⟩
    · exact ⟨_, _, _, buffered_begins _ hb⟩
  obtain ⟨banks, mk, go, he⟩ := he
  rw [he]
  exact ⟨fun h => congrArg _ (pondIssue_space h), fun h0 h1 ha => congrArg _ (pondIssue_align h0 h1 ha)⟩

/-- Each form is an access that `crewIssue` checks. -/
theorem crewFaults_hold : Claims.CrewFaults := by
  intro x s r n va o p hp hb inside
  have he : ∃ mk go, exec p.1 s = .next (crewIssue va p.2.2.2 n mk go r) := by
    simp only [List.mem_cons, List.not_mem_nil, or_false] at hp
    rcases hp with rfl | rfl | rfl | rfl
    · exact ⟨_, _, (buffered_begins _ hb).trans (by unfold ldcBody; rfl)⟩
    · exact ⟨_, _, (plain_begins _ hb).trans (by unfold stcBody; rfl)⟩
    · exact ⟨_, _, buffered_begins _ hb⟩
    · exact ⟨_, _, plain_begins _ hb⟩
  obtain ⟨mk, go, he⟩ := he
  rw [he]
  exact ⟨fun h => congrArg _ (crewIssue_space h), fun h hc => congrArg _ (crewIssue_out h hc),
    fun h hc ha => congrArg _ (crewIssue_align h hc ha)⟩

/-- The three kinds of each atomic, by the check of its space. -/
theorem atomicFaults_hold : Claims.AtomicFaults := by
  intro x s r n o p hp size al inside
  have he : (s.begins 0x80 p.2.2.2.1 x true false = some r → ∃ go, exec p.1 s = .next (r.globalAt o size al go))
      ∧ (s.begins 0x81 p.2.2.2.1 x true false = some r → ∃ banks mk go, exec p.2.1 s = .next (pondIssue o size al banks mk go r))
      ∧ (s.begins 0x82 p.2.2.2.1 x true false = some r → ∃ mk go, exec p.2.2.1 s = .next (crewIssue o size al mk go r)) := by
    simp only [List.mem_cons, List.not_mem_nil, or_false] at hp
    rcases hp with rfl | rfl | rfl | rfl | rfl | rfl | rfl | rfl | rfl | rfl | rfl | rfl
    all_goals exact ⟨fun hb => ⟨_, buffered_begins _ hb⟩, fun hb => ⟨_, _, _, buffered_begins _ hb⟩, fun hb => ⟨_, _, buffered_begins _ hb⟩⟩
  have hw : ofSigned 64 (o : Int) = o := ofSigned_word _
  obtain ⟨hg, hp, hc⟩ := he
  refine ⟨fun hb => ?_, fun hb => ?_, fun hb => ?_⟩
  · obtain ⟨go, he⟩ := hg hb
    rw [he]
    refine ⟨fun h => congrArg _ ?_, fun h ha => congrArg _ ?_⟩
    · exact (State.globalAt_space (.inr (by exact_mod_cast h))).trans (congrArg (r.raise fcSpace) hw)
    · exact State.globalAt_align (Int.natCast_nonneg _) (by exact_mod_cast h) (by exact_mod_cast ha)
  · obtain ⟨banks, mk, go, he⟩ := hp hb
    rw [he]
    refine ⟨fun h => congrArg _ ?_, fun h ha => congrArg _ ?_⟩
    · exact (pondIssue_space (.inr (by exact_mod_cast h))).trans (congrArg (r.raise fcSpace) hw)
    · exact pondIssue_align (Int.natCast_nonneg _) (by exact_mod_cast h) (by exact_mod_cast ha)
  · obtain ⟨mk, go, he⟩ := hc hb
    have hin : crewInside o size ↔ inside := by
      rw [crewInside, Int.toNat_natCast]
      omega
    rw [he]
    refine ⟨fun h => congrArg _ ?_, fun h hc => congrArg _ ?_, fun h hc ha => congrArg _ ?_⟩
    · exact (crewIssue_space (mt hin.mp h)).trans (congrArg (r.raise fcSpace) hw)
    · exact crewIssue_out (hin.mpr h) hc
    · exact crewIssue_align (hin.mpr h) hc ha

/-- Each form is an access that `pondIssue` checks, at an address that is a register's. -/
theorem blockFaults_hold : Claims.BlockFaults := by
  intro x s r o acc p hp hb
  have he : ∃ banks mk go, exec p.1 s = .next (pondIssue o p.2.2.2.2.1 p.2.2.2.2.2 banks mk go r) := by
    simp only [List.mem_cons, List.not_mem_nil, or_false] at hp
    rcases hp with rfl | rfl | rfl | rfl | rfl | rfl
    · exact ⟨_, _, _, (buffered_begins _ hb).trans (by unfold blkldBody; rfl)⟩
    · exact ⟨_, _, _, plain_begins _ hb⟩
    · exact ⟨_, _, _, plain_begins _ hb⟩
    · obtain ⟨banks, mk, go, he⟩ := xrnd_checked x r
      exact ⟨banks, mk, go, (buffered_begins _ hb).trans (congrArg _ he)⟩
    · obtain ⟨banks, mk, go, he⟩ := xclr_checked x r
      exact ⟨banks, mk, go, (plain_begins _ hb).trans (congrArg _ he)⟩
    · exact ⟨_, _, _, buffered_begins _ hb⟩
  have hw : ofSigned 64 (o : Int) = o := ofSigned_word _
  obtain ⟨banks, mk, go, he⟩ := he
  rw [he]
  refine ⟨fun h => congrArg _ ?_, fun h ha => congrArg _ ?_⟩
  · exact (pondIssue_space (.inr (by exact_mod_cast h))).trans (congrArg (r.raise fcSpace) hw)
  · exact pondIssue_align (Int.natCast_nonneg _) (by exact_mod_cast h) (by exact_mod_cast ha)

/-- The three checks of a tile, in order. -/
theorem tileFaults_hold : Claims.TileFaults := by
  intro x s r p hp hb va off
  have he : ∃ kind, exec p.1 s = .next (tileBody kind x r) := by
    simp only [List.mem_cons, List.not_mem_nil, or_false] at hp
    rcases hp with rfl | rfl | rfl | rfl
    all_goals exact ⟨_, buffered_begins _ hb⟩
  obtain ⟨kind, he⟩ := he
  rw [he]
  exact ⟨fun h => congrArg _ (tileBody_far kind x r h), fun h ho => congrArg _ (tileBody_off kind x r h ho),
    fun h ho ha => congrArg _ (tileBody_align kind x r h ho ha)⟩

/-- A gather and a scatter raise what `laneFault` finds. -/
theorem laneFaults_hold : Claims.LaneFaults := by
  intro x s r p hp hb before lane after hl
  have fault {f : Nat × Nat} (hf : laneFault (r.laneAddrs x) = some f) : exec p.1 s = .next (r.raise f.1 f.2) := by
    obtain ⟨hg, hs⟩ := gather_fault hf
    simp only [List.mem_cons, List.not_mem_nil, or_false] at hp
    rcases hp with rfl | rfl
    · exact (buffered_begins _ hb).trans (congrArg _ hg)
    · exact (plain_begins _ hb).trans (congrArg _ hs)
  exact ⟨fun hb h => fault (f := (fcSpace, _)) (laneFault_space hl hb h), fun hin hb h => fault (f := (fcAlign, _)) (laneFault_align hl hin hb h)⟩

/-- Settles O34: each form's body is a check of its address, whose faults are stated once. -/
theorem spaceFaults : Obligations.SpaceFaults :=
  ⟨accessFaults_hold, pondFaults_hold, crewFaults_hold, atomicFaults_hold, blockFaults_hold, tileFaults_hold, laneFaults_hold⟩

/-- Refutes O55: the clause of a copy's late fault gives DETAIL as an address whatever the code, and a copy that faults with ILLOP, its
descriptor being reserved, reports bits [95:32] of its word (R371): 5 here, where the address is 0. -/
theorem not_copyAndEngineEvents : ¬ Obligations.CopyAndEngineEvents := by
  unfold Obligations.CopyAndEngineEvents
  rintro ⟨-, hends, -⟩
  have h := hends.1 badDescriptor 1 fcIllop 0 rfl (by decide)
  have hmodel : lateFaultArgs (exec .copyLateFault badDescriptor) = [[0, 1, 0, 5, 0, 0]] := by decide
  rw [h] at hmodel
  exact absurd hmodel (by decide)

/-- Settles O59: each event by its argument, the flits, the host's request and the round boundary by their lemmas. -/
theorem packageEvents : Obligations.PackageEvents := by
  refine ⟨fun s => ⟨fun ha => ?_, fun ha => ?_⟩, fun s => ?_, fun s rel ha => ?_, fun s rel ha => ?_, fun s hl => ?_, fun s p seq => ?_,
    fun s p side data ha => ?_, fun s node a tag c m d ha hc he hw ho => ?_, fun s node a st m d tag ha hno => ?_,
    fun s ctx node start len ha he => ?_, fun s r ha hq hw => ?_, fun s sync ppm err ha he => ?_, fun s stack w v ha => ?_⟩
  · simp only [exec, execFreeze, ha, nextAt_round]
  · simp only [exec, execFreeze, ha]
  · exact ⟨_, rfl, rfl, rfl, rfl, rfl, rfl, rfl, rfl, rfl, rfl, rfl, rfl, rfl, rfl, rfl⟩
  · obtain ⟨-, h1⟩ := State.arg_two ha
    exact if_pos (beq_iff_eq.mpr h1)
  · intro t u
    obtain ⟨h0, h1⟩ := State.arg_two ha
    refine (if_neg (by rw [h1]; decide)).trans ?_
    rw [h0]
  · exact enumTableUpdate_of_records hl
  · exact fun ha => fabricReplay_of_seq ha
  · intro x f
    rw [fabricReplay_of_flit ha]
    exact ⟨fun h => congrArg _ (State.receiveFlit_bad h), fun h1 h2 h3 => congrArg _ (State.receiveFlit_early h1 h2 h3),
      fun h1 h2 h3 h4 => congrArg _ (State.receiveFlit_astray h1 h2 h3 h4)⟩
  · exact hostRead_opened ha rfl (State.hostMay_of_opened hc he ho) hw
  · exact host_refused ha (State.hostMay_of_none _ hno)
  · exact hostMemoryRequest_of_open ha he
  · exact windowAccess_of_own ha hq hw
  · exact skyclockDiscipline_of_err ha he
  · exact formatWindowWrite_of_arg ha

end

section
/-! PROOFS. What the way of an access, its faults and its performance leave of the mills: all of them (R333). -/

namespace Sys2Proof.Machine

open Sys2Proof

@[simp] theorem State.mills_ite (c : Prop) [Decidable c] (s t : State) : (if c then s else t).mills = if c then s.mills else t.mills :=
  apply_ite State.mills c s t

/-- A fold that carries the state beside something else leaves the mills alone where every step does. -/
theorem State.mills_foldl_acc {α β : Type} (p : α → State) (l : List β) (f : α → β → α) (a : α)
    (h : ∀ a b, (p (f a b)).mills = (p a).mills) : (p (l.foldl f a)).mills = (p a).mills := by
  induction l generalizing a with
  | nil => rfl
  | cons b l ih => exact (ih _).trans (h a b)

@[simp] theorem State.mills_foldl {β : Type} (l : List β) (f : State → β → State) (s : State) (h : ∀ s b, (f s b).mills = s.mills) :
    (l.foldl f s).mills = s.mills := State.mills_foldl_acc id l f s h

@[simp] theorem State.setPacket_mills (s : State) (u : Nat) (p : Packet) : (s.setPacket u p).mills = s.mills := (rfl)

@[simp] theorem State.fresh_mills (s : State) : s.fresh.2.mills = s.mills := (rfl)

@[simp] theorem State.offer_mills (s : State) (die src dst lane len ready rank : Nat) (pl : Payload) :
    (s.offer die src dst lane len ready rank pl).mills = s.mills := by
  unfold State.offer
  simp

@[simp] theorem State.offerTo_mills (s : State) (dieA src dieB dst lane len ready rank : Nat) (pl : Payload) :
    (s.offerTo dieA src dieB dst lane len ready rank pl).mills = s.mills := by
  unfold State.offerTo
  simp only [State.offer_mills]
  exact State.mills_foldl_acc (fun x : Nat × Nat × State => x.2.2) _ _ _ (fun _ _ => rfl)

@[simp] theorem State.offerOut_mills (s : State) (die src lane len ready rank cls node : Nat) (ls : List Line) (kind id : Nat) :
    (s.offerOut die src lane len ready rank cls node ls kind id).mills = s.mills := by
  unfold State.offerOut
  simp

@[simp] theorem State.landReq_mills (s : State) (r t : Nat) : (s.landReq r t).mills = s.mills := by
  unfold State.landReq
  split <;> simp

@[simp] theorem State.tlb_mills (s : State) (cluster ctx va : Nat) : (s.tlb cluster ctx va).2.mills = s.mills := by
  unfold State.tlb
  split <;> simp

@[simp] theorem State.missTlb_mills (s : State) (cluster ctx va : Nat) (w : Waiter) : (s.missTlb cluster ctx va w).mills = s.mills := by
  unfold State.missTlb
  dsimp only
  split <;> simp

@[simp] theorem State.toSlice_mills (s : State) (q : GReq) (t : Nat) : (s.toSlice q t).mills = s.mills := by
  unfold State.toSlice
  simp

@[simp] theorem State.toLlc_mills (s : State) (q : GReq) (t : Nat) : (s.toLlc q t).mills = s.mills := (rfl)

@[simp] theorem State.toWindow_mills (s : State) (q : GReq) : (s.toWindow q).mills = s.mills := by
  unfold State.toWindow
  simp

@[simp] theorem State.setL1_mills (s : State) (core set : Nat) (ls : List CLine) : (s.setL1 core set ls).mills = s.mills := (rfl)

@[simp] theorem State.wbL1_mills (s : State) (core : Nat) (l : CLine) (t : Nat) (sink : Sink) : (s.wbL1 core l t sink).mills = s.mills := by
  unfold State.wbL1
  simp

@[simp] theorem State.putL1_mills (s : State) (core : Nat) (l : CLine) (t : Nat) : (s.putL1 core l t).mills = s.mills := by
  unfold State.putL1
  simp

@[simp] theorem State.flushL1_mills (s : State) (core pa t : Nat) (sink : Sink) : (s.flushL1 core pa t sink).mills = s.mills := by
  unfold State.flushL1
  split <;> simp

@[simp] theorem State.takeL1_mills (s : State) (core pa : Nat) : (s.takeL1 core pa).2.mills = s.mills := (rfl)

@[simp] theorem State.l1Load_mills (s : State) (a : Access) (core pa attr t : Nat) (es : List Elem) :
    (s.l1Load a core pa attr t es).1.mills = s.mills := by
  unfold State.l1Load
  dsimp only
  (repeat' split) <;> simp

@[simp] theorem State.l1Store_mills (s : State) (a : Access) (core pa attr t : Nat) (es : List Elem) :
    (s.l1Store a core pa attr t es).1.mills = s.mills := by
  unfold State.l1Store
  dsimp only
  (repeat' split) <;> simp

@[simp] theorem State.startLine_mills (s : State) (a : Access) (core pa attr t : Nat) (es : List Elem) :
    (s.startLine a core pa attr t es).1.mills = s.mills := by
  unfold State.startLine
  dsimp only
  (repeat' split) <;> simp

@[simp] theorem State.codeStore_mills (s : State) (ls : List (Nat × Nat × BitVec 64)) : (s.codeStore ls).mills = s.mills := by
  unfold State.codeStore
  simp

@[simp] theorem State.updEntry_mills (s : State) (g uid : Nat) (f : Entry → Entry) : (s.updEntry g uid f).mills = s.mills := (rfl)

@[simp] theorem State.landAt_mills (s : State) (g uid t : Nat) : (s.landAt g uid t).mills = s.mills := (rfl)

@[simp] theorem State.faultEntry_mills (s : State) (g uid t code detail : Nat) : (s.faultEntry g uid t code detail).mills = s.mills := (rfl)

@[simp] theorem State.accessFault_mills (s : State) (a : Access) (code addr : Nat) : (s.accessFault a code addr).mills = s.mills := by
  unfold State.accessFault
  split <;> simp

@[simp] theorem State.provisional_mills (s : State) (a : Access) : (s.provisional a).mills = s.mills := by
  unfold State.provisional
  simp

@[simp] theorem State.unrecord_mills (s : State) (a : Access) : (s.unrecord a).mills = s.mills := by
  unfold State.unrecord
  simp

@[simp] theorem State.postSend_mills (s : State) (g uid : Nat) : (s.postSend g uid).mills = s.mills := (rfl)

@[simp] theorem State.startGlobal_mills (s : State) (a : Access) : (s.startGlobal a).1.mills = s.mills := by
  unfold State.startGlobal
  dsimp only
  generalize hr : List.foldl _ _ _ = r
  have h : r.1.mills = s.mills := by
    rw [← hr]
    refine State.mills_foldl_acc (fun r : State × List (Nat × Nat × Nat × List Elem) × List Nat × Option (Nat × Nat) => r.1) _ _ _
      (fun r g => ?_)
    split <;> simp
  (repeat' split) <;> simp [h]

@[simp] theorem State.postPond_mills (s : State) (q : PondReq) (t : Nat) : (s.postPond q t).mills = s.mills := by
  unfold State.postPond
  simp

@[simp] theorem State.enqueuePond_mills (s : State) (a : Access) (port entry : Nat) (packet : Option Nat) :
    (s.enqueuePond a port entry packet).mills = s.mills := by
  unfold State.enqueuePond
  exact State.mills_foldl_acc (fun r : State × Nat => r.1) _ _ _ (fun r w => by simp)

@[simp] theorem State.startCrew_mills (s : State) (a : Access) : (s.startCrew a).mills = s.mills := by
  unfold State.startCrew
  simp

@[simp] theorem State.startTile_mills (s : State) (a : Access) : (s.startTile a).mills = s.mills := (rfl)

@[simp] theorem State.start_mills (s : State) (a0 : Access) : (s.start a0).1.mills = s.mills := by
  unfold State.start
  dsimp only
  (repeat' split) <;> simp

@[simp] theorem State.finish_mills (s : State) (g uid : Nat) (counts : Bool) : (s.finish g uid counts).mills = s.mills := by
  unfold State.finish
  simp

@[simp] theorem State.begin_mills (s : State) (a : Access) : (s.begin a).mills = s.mills := by
  unfold State.begin
  simp

@[simp] theorem State.joinPages_mills (s : State) (j n : Nat) : (s.joinPages j n).mills = s.mills := by
  induction n generalizing s with
  | zero => simp [State.joinPages]
  | succ n ih =>
    unfold State.joinPages
    dsimp only
    repeat' split
    all_goals simp [ih]

@[simp] theorem State.openJoin_mills (s : State) (x : Join) : (s.openJoin x).mills = s.mills := by
  unfold State.openJoin
  simp

@[simp] theorem State.drainCluster_mills (s : State) (c n : Nat) : (s.drainCluster c n).mills = s.mills := by
  induction n generalizing s with
  | zero => simp [State.drainCluster]
  | succ n ih =>
    unfold State.drainCluster
    dsimp only
    repeat' split
    all_goals simp [ih]

@[simp] theorem State.drain_mills (s : State) (g : Nat) : (s.drain g).mills = s.mills := by
  unfold State.drain
  simp

@[simp] theorem State.done_mills (s : State) (g0 uid : Nat) : (s.done g0 uid).mills = s.mills := by
  unfold State.done
  dsimp only
  split <;> simp

@[simp] theorem State.pondLand_mills (s : State) (mill : Nat) (a : Access) (i : Nat) (v : VReg) (flags : Nat) (flt : Option (Nat × Nat)) :
    (s.pondLand mill a i v flags flt).mills = s.mills := by
  unfold State.pondLand
  dsimp only
  (repeat' split) <;> simp

end Sys2Proof.Machine
end

section
/-! PROOFS. The reset cam tables, dry banks, and the events of the pond (R139 to R160). -/

namespace Sys2Proof.Machine

open Sys2Proof

/-! The tables at reset (R142). -/

theorem camEntry_outer_reset : ∀ r < 4, ∀ c < 4, camEntry 2 4 camOutReset.toNat r c = (c + r) % 4 := by decide

theorem camEntry_inner_reset : ∀ r < 8, ∀ j < 8, camEntry 3 8 camInReset.toNat r j = (j + r) % 8 := by decide

/-! Banks that have become dry slots, and what a retirement withdraws (R156). -/

/-- Whether bank `b` of a mill has become a dry slot (R156). -/
def State.bankIsDry (s : State) (mill b : Nat) : Prop := (s.mill mill).bankDry.getLsbD b = true

/-- Whether a pond offset lies in bank `bank` of the mill's 32 (R139). -/
def inBank (bank off : Nat) : Bool := 8 * offGroup off + offBank off == bank

/-- The mill without what waits at words of a bank. -/
def Mill.dropWaits (m : Mill) (bank : Nat) : Mill :=
  { m with feWait := m.feWait.filter (fun kw => !inBank bank (8 * kw.1)), chkWait := m.chkWait.filter (fun kw => !inBank bank (8 * kw.1)) }

theorem Mill.dropWaits_waits (m : Mill) (bank : Nat) :
    (∀ k ∈ (m.dropWaits bank).feWait, inBank bank (8 * k.1) = false) ∧ ∀ k ∈ (m.dropWaits bank).chkWait, inBank bank (8 * k.1) = false :=
  ⟨fun _ hk => Bool.not_eq_true' _ ▸ (List.mem_filter.mp hk).2, fun _ hk => Bool.not_eq_true' _ ▸ (List.mem_filter.mp hk).2⟩

section
variable {s t : State} {mill b : Nat}

theorem State.bankIsDry_of_mills (h : t.mills = s.mills) : t.bankIsDry mill b ↔ s.bankIsDry mill b := by
  simp only [State.bankIsDry, State.mill, h]

theorem State.isDry_of_bankIsDry (h : s.bankIsDry mill b) {off : Nat} (hb : 8 * offGroup off + offBank off = b) :
    (s.mill mill).isDry off = true := by
  rw [Mill.isDry, hb]
  exact h

/-- A mill with a dry bank is not the default mill, so that it is read back from any table of mills. -/
theorem State.mill_updMill_of_dry {f : Mill → Mill} (h : (f (s.mill mill)).bankDry.getLsbD b = true) :
    (s.updMill mill f).mill mill = f (s.mill mill) := by
  refine tget_tput_same' _ _ _ _ fun e => ?_
  rw [e] at h
  simp at h

theorem State.bankIsDry_updMill {f : Mill → Mill} (h : (f (s.mill mill)).bankDry.getLsbD b = true) :
    (s.updMill mill f).bankIsDry mill b := by
  rw [State.bankIsDry, State.mill_updMill_of_dry h]
  exact h

theorem State.bankIsDry_retired (s : State) (mill : Nat) (hb : b < 32) :
    (s.updMill mill (fun m => { m with bankDry := m.bankDry ||| BitVec.ofNat 32 (2 ^ b) })).bankIsDry mill b := by
  refine State.bankIsDry_updMill ?_
  rw [BitVec.getLsbD_or, BitVec.getLsbD_ofNat, Nat.testBit_two_pow_self, decide_eq_true hb]
  exact Bool.or_true _

/-- A withdrawal counts a dropped store at most; else no mill changes. -/
theorem State.withdraw_mills (s : State) (mill : Nat) (q : PondReq) : (s.withdraw mill q).mills = s.mills
    ∨ ∃ d, (s.withdraw mill q).mills = (s.updMill mill (fun m => { m with dropped := d })).mills := by
  unfold State.withdraw
  dsimp only
  rw [State.done_mills]
  split
  · split
    · exact .inl (State.pondLand_mills ..)
    · exact .inr ⟨_, rfl⟩
  · exact .inl (State.accessFault_mills ..)

theorem State.bankIsDry_withdraw (q : PondReq) (h : s.bankIsDry mill b) : (s.withdraw mill q).bankIsDry mill b := by
  rcases s.withdraw_mills mill q with e | ⟨d, e⟩
  · exact (State.bankIsDry_of_mills e).mpr h
  · exact (State.bankIsDry_of_mills e).mpr (State.bankIsDry_updMill h)

theorem State.bankIsDry_withdrawAll (l : List PondReq) (h : s.bankIsDry mill b) :
    (l.foldl (fun t q => (t.setPort q.port ((t.port q.port).filter (fun o => o.id != q.id))).withdraw mill q) s).bankIsDry mill b := by
  induction l generalizing s with
  | nil => exact h
  | cons q l ih => exact ih (State.bankIsDry_withdraw q h)

/-- What waits at a bank leaves the mill's two lists of waiters; faulted entries change no mill. -/
theorem State.withdrawWaits_mills (s : State) (mill bank : Nat) :
    (s.withdrawWaits mill bank).mills = (s.updMill mill (fun m => m.dropWaits bank)).mills :=
  State.mills_foldl _ _ _ (fun _ _ => rfl)

theorem State.withdrawWaits_mill (bank : Nat) (h : s.bankIsDry mill b) :
    (s.withdrawWaits mill bank).mill mill = (s.mill mill).dropWaits bank := by
  rw [State.mill, State.withdrawWaits_mills]
  exact State.mill_updMill_of_dry h

theorem State.bankIsDry_withdrawWaits (bank : Nat) (h : s.bankIsDry mill b) : (s.withdrawWaits mill bank).bankIsDry mill b := by
  rw [State.bankIsDry, State.withdrawWaits_mill bank h]
  exact h
end

/-- The entries of a table that a test of the key keeps. -/
theorem tget_filter_keys {α : Type} [DecidableEq α] (d : α) (t : Tab α) (p : Nat → Bool) (w : Tab.wf d t = true) (i : Nat) :
    tget d (t.filter (fun kv => p kv.1)) i = if p i then tget d t i else d := by
  induction t with
  | nil => exact (ite_self d).symm
  | cons kv t ih =>
    obtain ⟨k, v⟩ := kv
    obtain ⟨-, ha, hw⟩ := (Tab.wf_cons d k v t).mp w
    have ih := ih hw
    by_cases hik : i = k
    · subst hik
      cases hp : p i with
      | true => simp [List.filter, hp, tget]
      | false => rw [hp] at ih; simpa [List.filter, hp] using ih
    · by_cases hlt : i < k
      · have hd : tget d t i = d := tget_above d t k i ha (Nat.le_of_lt hlt)
        rw [hd, ite_self] at ih
        cases hp : p k <;> simp [List.filter, hp, tget, hik, hlt, ih]
      · cases hp : p k <;> simp [List.filter, hp, tget, hik, hlt, ih]

/-- The bytes of a mill's bank are gone; every other byte stays. -/
theorem memByte_filter_bank {m : Memory} (hm : m.wf = true) (mill bank a : Nat) :
    memByte (m.filter (fun kb => !(kb.1 / 2 ^ 21 == mill && inBank bank (kb.1 % 2 ^ 21)))) a =
      if a / 2 ^ 21 = mill ∧ 8 * offGroup (a % 2 ^ 21) + offBank (a % 2 ^ 21) = bank then 0 else memByte m a := by
  have hkey := tget_filter_keys (0 : Byte) m (fun k => !(k / 2 ^ 21 == mill && inBank bank (k % 2 ^ 21))) hm a
  refine hkey.trans ?_
  simp only [inBank, Bool.not_eq_true', Bool.and_eq_false_iff, beq_eq_false_iff_ne]
  by_cases h : a / 2 ^ 21 = mill ∧ 8 * offGroup (a % 2 ^ 21) + offBank (a % 2 ^ 21) = bank
  · rw [if_pos h, if_neg (by tauto)]
  · rw [if_neg h, if_pos (by tauto)]
    rfl

/-! The events of the pond, by their arguments. -/

/-- The first round boundary from `t` on. -/
theorem nextAt_round_from (t : Nat) : nextAt t 32 0 = (t + 31) / 32 * 32 := by
  rw [nextAt]
  omega

theorem pondWordService_serves {s : State} {port id : Nat} {q : PondReq} (ha : s.arg = [port, id])
    (hq : (s.port port).find? (fun o => o.id == id) = some q) (hdry : (s.mill (port / 64)).isDry q.off = false)
    (hin : q.entry ≤ s.cycle) (hmeet : s.meetsNow port q.off = true) (hfree : tget 0 s.metAt port ≠ s.cycle + 1)
    (hold : ∀ o ∈ olderThan (s.port port) id, offGroup o.off = offGroup q.off → o.block = false ∧ offBank o.off ≠ offBank q.off)
    (hturn : ∀ o ∈ s.port port, o.turn ≠ some (s.cycle / 8)) :
    exec .pondWordService s = .next (({ s with metAt := tput 0 s.metAt port (s.cycle + 1) }.setPort port
      ((s.port port).filter (fun o => o.id != id))).serveWord (port / 64) q) := by
  obtain ⟨h0, h1⟩ := State.arg_two ha
  have hblocked : (olderThan (s.port port) id).any (fun o =>
      if o.block then offGroup o.off == offGroup q.off else offGroup o.off == offGroup q.off && offBank o.off == offBank q.off) = false := by
    refine List.any_eq_false.mpr fun o ho hc => ?_
    by_cases hg : offGroup o.off = offGroup q.off
    · obtain ⟨hb, hk⟩ := hold o ho hg
      simp [hb, hk] at hc
    · simp [hg] at hc
  have hblock : (s.port port).any (fun o => o.turn == some (s.cycle / 8)) = false :=
    List.any_eq_false.mpr fun o ho hc => hturn o ho (beq_iff_eq.mp hc)
  simp only [exec, execPondWordService, h0, h1, hq, hdry, hblocked, hblock]
  simp [hin, hmeet, hfree]

/-- A block operation after its meeting with a bank of its turn (R150): the words that it reads there, none at a dry slot, and
which slots were dry (R157). -/
def State.met (s : State) (port : Nat) (q : PondReq) : PondReq :=
  let mill := port / 16 / 4
  let b := (s.mill mill).inner s.cycle (port / 2 % 8)
  let dry := (s.mill mill).isDry (q.off + 64 * b)
  let w := if dry then 0 else s.pondRead mill (q.off + 64 * b) 64
  { q with
    got := if q.acc.kind != .blkLoad || q.acc.mask.getLsbD b then q.got ||| BitVec.ofNat 4096 (w * 2 ^ (512 * b)) else q.got
    dry := if dry then q.dry ||| 2 ^ b else q.dry }

theorem blockTurn_meets {s : State} {port id : Nat} {q : PondReq} (ha : s.arg = [port, id])
    (hq : (s.port port).find? (fun o => o.id == id) = some q) (hturn : q.turn = some (s.cycle / 8)) (hphase : s.cycle % 8 ≠ 7) :
    exec .blockTurn s = .next ((s.setPort port ((s.port port).map (fun o => if o.id = id then s.met port q else o))).post
      (s.cycle + 1) (portClass port) (port / 2 % 8) .blockTurn [port, id]) := by
  obtain ⟨h0, h1⟩ := State.arg_two ha
  have hsame : { s.met port q with turn := some (s.cycle / 8) } = s.met port q := by rw [← hturn]; rfl
  simp only [exec, execBlockTurn, h0, h1, hq]
  rw [if_neg (by simp [hturn]), if_neg (by simp [hturn]), if_neg (by simpa using hphase)]
  simp only [beq_iff_eq]
  rw [← hsame]
  rfl

theorem blockCommit_commits {s : State} {mill : Nat} (ha : s.arg = [mill]) :
    let l := (s.mill mill).staged.foldl (fun l x => insertStaged x l) []
    exec .blockCommit s = .next (l.foldl (fun s x => s.setArrival mill x) (l.foldl (fun s x => s.commitOne mill x)
      (s.updMill mill (fun m => { m with staged := [] })))) := by
  simp only [exec, execBlockCommit, State.arg_one ha]

/-- No mill holds the crew of a mill that has none: only the mill's own bank is marked. -/
theorem bankRetireDecided_alone {s : State} {mill bank : Nat} (ha : s.arg = [mill, bank]) (hl : (s.mill mill).launch = none) :
    exec .bankRetireDecided s = .next ((s.updMill mill (fun m => { m with bankRet := m.bankRet ||| BitVec.ofNat 32 (2 ^ bank) })).post
      ((s.cycle + 64 + 31) / 32 * 32) 0 5 .sevenBankEntry [mill, bank]) := by
  obtain ⟨h0, h1⟩ := State.arg_two ha
  simp only [exec, execBankRetireDecided, h0, h1, hl, Option.isSome_none, Bool.and_false, Bool.false_eq_true, if_false, List.foldl_fixed]
  rw [← nextAt_round_from]
  rfl

theorem clusterRetire_at_round {s : State} {c : Nat} (ha : s.arg = [c]) (hc : s.cycle % 32 = 0) : exec .clusterRetire s =
    .next ((s.updCluster c (fun x => { x with retired := true })).post s.cycle 3 931 .enumTableUpdate [4, c / 256]) := by
  simp only [exec, execClusterRetire, State.arg_one ha]
  exact if_pos (beq_iff_eq.mpr hc)

theorem clusterRetire_waits {s : State} {c : Nat} (ha : s.arg = [c]) (hc : s.cycle % 32 ≠ 0) :
    exec .clusterRetire s = .next (s.post (s.cycle / 32 * 32 + 32) 0 6 .clusterRetire [c]) := by
  have hround : nextAt s.cycle 32 0 = s.cycle / 32 * 32 + 32 := by
    rw [nextAt_round_from]
    omega
  simp only [exec, execClusterRetire, State.arg_one ha, hround]
  exact if_neg (mt beq_iff_eq.mp hc)

theorem camSwitch_switches {s : State} {mill : Nat} (ha : s.arg = [mill]) :
    let t := s.updMill mill (fun m => { m with camInAct := m.camInStg, camOutAct := m.camOutStg, camPend := false })
    exec .camSwitch s = .next ((t.ports.flatMap (fun kp => if kp.1 / 64 = mill then kp.2.filter (fun q => q.turn.isNone) else [])).foldl
      (fun s q => s.postPond q s.cycle) t) := by
  simp only [exec, execCamSwitch, State.arg_one ha, beq_iff_eq]

end Sys2Proof.Machine
end

section
/-! PROOFS. The obligations of reset and of the pond's events. -/

open Sys2Proof Sys2Proof.Machine

/-- Settles O51: the entries of the two tables at reset; every other unit reads as its default. -/
theorem resetValues : Obligations.ResetValues :=
  ⟨fun _ c cyc hc => camEntry_outer_reset _ (Nat.mod_lt _ (by decide)) c hc,
    fun _ j cyc hj => camEntry_inner_reset _ (Nat.mod_lt _ (by decide)) j hj,
    fun _ => ⟨rfl, rfl, rfl⟩, rfl, rfl, rfl, ⟨rfl, rfl⟩, fun _ => ⟨rfl, rfl, rfl, rfl, rfl⟩, fun _ => rfl, fun _ => ⟨rfl, rfl⟩⟩

/-- Settles O54: each event by its argument; a bank that is lost stays dry through the withdrawals, which change no byte, so that only
its own bytes go (R156). -/
theorem pondEvents : Obligations.PondEvents := by
  refine ⟨fun s port id q ha hq hdry hin hmeet hfree hold hturn => pondWordService_serves ha hq hdry hin hmeet hfree hold hturn,
    fun s port id q ha hq hturn hphase => blockTurn_meets ha hq hturn hphase, fun s mill ha => blockCommit_commits ha,
    fun s mill bank ha hl => bankRetireDecided_alone ha hl, fun s mill bank ha hok _ hb => ?_,
    fun s c ha => ⟨clusterRetire_at_round ha, clusterRetire_waits ha⟩, fun s mill ha => camSwitch_switches ha⟩
  intro hit gone u v w t
  obtain ⟨h0, h1⟩ := State.arg_two ha
  have hv : v.bankIsDry mill bank := State.bankIsDry_withdrawAll _ (s.bankIsDry_retired mill hb)
  have hw : w.mill mill = (v.mill mill).dropWaits bank := State.withdrawWaits_mill bank hv
  have hbytes : w.bytes = s.bytes :=
    (v.withdrawWaits_bytes mill bank).trans (State.bytes_foldl _ _ _ (fun t q => State.withdraw_bytes ..))
  obtain ⟨hmem, hpond⟩ := State.eq_of_bytes hbytes
  obtain ⟨hfe, hchk⟩ := (v.mill mill).dropWaits_waits bank
  refine ⟨?_, hmem, fun off ho => ?_, ?_, ?_, fun a => ?_⟩
  · simp only [exec, execSevenBankEntry, h0, h1, beq_iff_eq]
    rfl
  · exact State.isDry_of_bankIsDry (State.bankIsDry_withdrawWaits bank hv : w.bankIsDry mill bank) ho
  · exact hw ▸ hfe
  · exact hw ▸ hchk
  · rw [← hpond]
    exact memByte_filter_bank (hpond ▸ hok.2) mill bank a

end

section
/-! PROOFS. Integer atomics: the value of each form (R169, R392). -/

namespace Sys2Proof.Machine

open Sys2Proof

theorem tyBits_le (t : Nat) : tyBits t ≤ 64 := by
  unfold tyBits
  split <;> decide

/-- A type reads the low n bits of a word alone. -/
theorem valT_ofNat_mod (t v : Nat) : valT t (BitVec.ofNat 64 (v % 2 ^ tyBits t)) = valT t (BitVec.ofNat 64 v) := by
  have hd : 2 ^ tyBits t ∣ 2 ^ 64 := Nat.pow_dvd_pow 2 (tyBits_le t)
  simp only [valT, toSigned, BitVec.toNat_ofNat, Nat.mod_mod_of_dvd _ hd, Nat.mod_mod]

section
variable {ty old c new : Nat} (ho : old < 2 ^ tyBits ty)
include ho

theorem atomicInt_bitwise : atomicInt 1 ty old c new = (old &&& c % 2 ^ tyBits ty)
    ∧ atomicInt 2 ty old c new = (old ||| c % 2 ^ tyBits ty) ∧ atomicInt 3 ty old c new = (old ^^^ c % 2 ^ tyBits ty) := by
  have hm : old % 2 ^ tyBits ty = old := Nat.mod_eq_of_lt ho
  refine ⟨(Nat.and_mod_two_pow ..).trans ?_, (Nat.or_mod_two_pow ..).trans ?_, (Nat.xor_mod_two_pow ..).trans ?_⟩
  all_goals rw [hm]

/-- `min` and `minn` keep the lesser value, the old one where both are equal. -/
theorem atomicInt_min {form : Nat} (hf : form = 4 ∨ form = 6) : atomicInt form ty old c new =
    if valT ty (BitVec.ofNat 64 (c % 2 ^ tyBits ty)) < valT ty (BitVec.ofNat 64 old) then c % 2 ^ tyBits ty else old := by
  have hr : atomicInt form ty old c new =
      (if valT ty (BitVec.ofNat 64 c) < valT ty (BitVec.ofNat 64 old) then c else old) % 2 ^ tyBits ty := by
    rcases hf with rfl | rfl <;> rfl
  rw [hr, valT_ofNat_mod, apply_ite (· % 2 ^ tyBits ty), Nat.mod_eq_of_lt ho]

/-- `max` and `maxn` keep the greater one. -/
theorem atomicInt_max {form : Nat} (hf : form = 5 ∨ form = 7) : atomicInt form ty old c new =
    if valT ty (BitVec.ofNat 64 (c % 2 ^ tyBits ty)) < valT ty (BitVec.ofNat 64 old) then old else c % 2 ^ tyBits ty := by
  have hr : atomicInt form ty old c new =
      (if valT ty (BitVec.ofNat 64 c) < valT ty (BitVec.ofNat 64 old) then old else c) % 2 ^ tyBits ty := by
    rcases hf with rfl | rfl <;> rfl
  rw [hr, valT_ofNat_mod, apply_ite (· % 2 ^ tyBits ty), Nat.mod_eq_of_lt ho]

theorem atomicInt_cas : atomicInt 9 ty old c new = if old = c % 2 ^ tyBits ty then new % 2 ^ tyBits ty else old := by
  have hr : atomicInt 9 ty old c new = (if old == c % 2 ^ tyBits ty then new else old) % 2 ^ tyBits ty := rfl
  rw [hr, apply_ite (· % 2 ^ tyBits ty), Nat.mod_eq_of_lt ho]
  simp only [beq_iff_eq]
end

theorem atomicInt_add (ty old c new : Nat) : atomicInt 0 ty old c new = (old + c % 2 ^ tyBits ty) % 2 ^ tyBits ty :=
  (Nat.add_mod_mod ..).symm

theorem atomicInt_swap (ty old c new : Nat) : atomicInt 8 ty old c new = c % 2 ^ tyBits ty := rfl

/-- The ten forms on integers store `atomicInt` and hand the register the old value. -/
theorem atomicApply_integer (a : Access) {form : Nat} (h : form < 10) (old : Nat) :
    atomicApply a form old = (atomicInt form a.ty old (bits a.data.toNat 63 0) (bits a.data.toNat 127 64), old) := by
  have h10 : ¬(form == 10) = true := by rw [beq_iff_eq]; omega
  have h11 : ¬(form == 11) = true := by rw [beq_iff_eq]; omega
  rw [atomicApply, if_neg h10, if_neg h11]

end Sys2Proof.Machine
end

section
/-! PROOFS. What the checks of R163 let go on, trap and hold, and the ring that an accumulator instruction enters (R156, R222 to R224,
R257, R372). -/

namespace Sys2Proof.Machine

open Sys2Proof

section
variable {off : Int} {n al banks : Nat} {mk : Nat → Access} {go : Access → State → State} {s : State}

theorem spanFault_none {lim : Nat} (h : fits lim off n al) : spanFault lim off n al = none := by
  obtain ⟨h0, h1, ha⟩ := h
  rw [spanFault, if_neg (by simp [h0, h1]), if_neg (by simp [ha])]

/-- The access that the checks are about: its space is the pond, its slot the running one. -/
def State.pondAccess (s : State) (mk : Nat → Access) (off : Int) : Access := { mk off.toNat with space := .pond, slot := s.cur }

/-- Whether one of the banks of the first `banks` bytes has been retired (R156). -/
def State.touchesRetired (s : State) (off : Int) (banks : Nat) : Bool :=
  (List.range ((off.toNat + banks + 63) / 64 - off.toNat / 64)).any
    (fun i => (s.mill (millOf s.cur)).isRetired ((off.toNat / 64 + i) * 64))

/-- Whether the core's pond queue has room for an access (R163). -/
abbrev State.pondRoom (s : State) (a : Access) : Prop := (s.port (portX s.cur)).length + s.heldPond s.cur + a.words.length ≤ 16

/-- An access in its place meets the retired banks, the queue and the scoreboard, in this order. -/
theorem pondIssue_of_fits (h : fits (2 ^ 21) off n al) : pondIssue off n al banks mk go s =
    if s.touchesRetired off banks then s.raise fcBankret off.toNat
    else if 16 < (s.port (portX s.cur)).length + s.heldPond s.cur + (s.pondAccess mk off).words.length then s.park s.cur .pondQueue
    else if s.parksAccess (millOf s.cur) (s.pondAccess mk off) then s.park s.cur .scoreboard
    else go (s.pondAccess mk off) s := by
  rw [pondIssue, show spanFault pondLim off n al = none from spanFault_none h]
  rfl

theorem pondIssue_ready (h : s.pondReady off n al banks (s.pondAccess mk off)) :
    pondIssue off n al banks mk go s = go (s.pondAccess mk off) s := by
  obtain ⟨hf, hb, hr, hp⟩ := h
  have hret : s.touchesRetired off banks = false := by simpa [State.touchesRetired] using hb
  rw [pondIssue_of_fits hf, if_neg (by simp [hret]), if_neg (Nat.not_lt.mpr hr), if_neg (by simp [hp])]

theorem pondIssue_retired (h : fits (2 ^ 21) off n al) (hb : s.touchesRetired off banks = true) :
    pondIssue off n al banks mk go s = s.raise fcBankret off.toNat := by
  rw [pondIssue_of_fits h, if_pos hb]

theorem pondIssue_full (h : fits (2 ^ 21) off n al) (hb : s.touchesRetired off banks = false) (hr : ¬s.pondRoom (s.pondAccess mk off)) :
    pondIssue off n al banks mk go s = s.park s.cur .pondQueue := by
  rw [pondIssue_of_fits h, if_neg (by simp [hb]), if_pos (Nat.lt_of_not_le hr)]

theorem pondIssue_ranged (h : fits (2 ^ 21) off n al) (hb : s.touchesRetired off banks = false) (hr : s.pondRoom (s.pondAccess mk off))
    (hp : s.parksAccess (millOf s.cur) (s.pondAccess mk off) = true) : pondIssue off n al banks mk go s = s.park s.cur .scoreboard := by
  rw [pondIssue_of_fits h, if_neg (by simp [hb]), if_neg (Nat.not_lt.mpr hr), if_pos hp]
end

/-- No type has bytes in another number; those of less than a byte have 0. -/
theorem tyBytes_mem (t : Nat) : tyBits t / 8 ∈ [0, 1, 2, 4, 8] := by
  unfold tyBits
  split <;> decide

/-- A scalar access that is aligned lies in one word of the pond, so that one bank counts. -/
theorem State.touchesRetired_scalar (s : State) {off : Int} {t : Nat} (ht : 0 < tyBits t / 8)
    (hf : fits (2 ^ 21) off (tyBits t / 8) (tyBits t / 8)) :
    s.touchesRetired off (tyBits t / 8) = (s.mill (millOf s.cur)).isRetired (off.toNat / 64 * 64) := by
  have hm := tyBytes_mem t
  generalize tyBits t / 8 = n at hm hf ht
  obtain ⟨h0, -, ha⟩ := hf
  lift off to Nat using h0
  have hone : (off + n + 63) / 64 - off / 64 = 1 := by
    simp only [List.mem_cons, List.not_mem_nil, or_false] at hm
    rcases hm with rfl | rfl | rfl | rfl | rfl <;> omega
  simp [State.touchesRetired, hone]

/-! The coprocessor ring. -/

/-- A slot whose ring holds an entry is no default, so that the running slot reads as it was written. -/
theorem State.enterRing_me (s : State) (op fn : Nat) : (s.enterRing op fn).2.me = { s.me with
    copseq := s.me.copseq + 1
    ring := ({ seq := s.me.copseq.toNat, ix := s.me.pc.toNat, op := op, fn := fn } :: s.me.ring).take 32 } :=
  tget_tput_same' _ _ _ _ fun h => List.cons_ne_nil _ _ (congrArg Slot.ring h)

theorem State.enterRing_maskM (s : State) (op fn : Nat) (x : Args) : (s.enterRing op fn).2.maskM x = s.maskM x := by
  rw [State.maskM, State.enterRing_me]
  rfl

end Sys2Proof.Machine
end

section
/-! PROOFS. The obligations of pond instructions. -/

open Sys2Proof Sys2Proof.Machine

/-- Settles O29: each form's value, with the operand cut to n bits. -/
theorem atomicValues : Obligations.AtomicValues := by
  intro a old _ ho n c i p hp
  simp only [List.mem_cons, List.not_mem_nil, or_false] at hp
  obtain ⟨hand, hor, hxor⟩ := atomicInt_bitwise ho (c := bits a.data.toNat 63 0) (new := bits a.data.toNat 127 64)
  rcases hp with rfl | rfl | rfl | rfl | rfl | rfl | rfl | rfl | rfl | rfl
  all_goals refine (atomicApply_integer a (by simp) old).trans (congrArg (·, old) ?_)
  · exact atomicInt_add ..
  · exact hand
  · exact hor
  · exact hxor
  · exact atomicInt_min ho (.inl rfl)
  · exact atomicInt_max ho (.inl rfl)
  · exact atomicInt_min ho (.inr rfl)
  · exact atomicInt_max ho (.inr rfl)
  · exact atomicInt_swap ..
  · exact atomicInt_cas ho

/-- Each form's body is the access, checked by `pondIssue`. -/
theorem pondAtomics_hold : Claims.PondAtomics := by
  intro x s r p hp hb o a hr
  simp only [List.mem_cons, List.not_mem_nil, or_false] at hp
  rcases hp with rfl | rfl | rfl | rfl | rfl | rfl | rfl | rfl | rfl | rfl | rfl | rfl
  all_goals exact (buffered_begins _ hb).trans (congrArg Host.Outcome.next (pondIssue_ready hr))

/-- The form of `xrnd` and of `xclr` by its type; the set form of `xrnd` reads its mask once it stands in the ring. -/
theorem pondAccumulators_hold : Claims.PondAccumulators := by
  intro x s r o q at_ add rset rone cset cone rnd
  refine ⟨fun hb h => ?_, fun hb ht h => ?_, fun hb ht h => ?_, fun hb ht h => ?_, fun hb ht h => ?_⟩
  · exact (plain_begins (xaccBody x) hb).trans (congrArg Host.Outcome.next (pondIssue_ready h))
  · refine (buffered_begins _ hb).trans (congrArg Host.Outcome.next ?_)
    rw [if_neg (mt beq_iff_eq.mp ht), ← r.enterRing_maskM 0x51 1 x]
    exact pondIssue_ready h
  · refine (buffered_begins _ hb).trans (congrArg Host.Outcome.next ?_)
    rw [if_pos (beq_iff_eq.mpr ht)]
    exact pondIssue_ready h
  · refine (plain_begins (xclrBody x) hb).trans (congrArg Host.Outcome.next ?_)
    rw [xclrBody, if_neg (mt beq_iff_eq.mp ht)]
    exact pondIssue_ready h
  · refine (plain_begins (xclrBody x) hb).trans (congrArg Host.Outcome.next ?_)
    rw [xclrBody, if_pos (beq_iff_eq.mpr ht)]
    exact pondIssue_ready h

/-- Settles O31. -/
theorem pondOperations : Obligations.PondOperations := ⟨pondAtomics_hold, pondAccumulators_hold⟩

/-- Each access's body is that access, checked by `pondIssue`. -/
theorem pondAccesses_hold : Claims.PondAccesses := by
  intro x s r n va o b at_ fe ld st vld vst bld bst recv
  refine ⟨fun hb h => ?_, fun hb h => ?_, fun hb h => ?_, fun hb h => ?_, fun hb h => ?_, fun hb h => ?_, fun hb h => ?_, fun hb h => ?_,
    fun hb h => ?_, fun hb h => ?_, fun hb h => ?_⟩
  · exact (buffered_begins (ldpBody x) hb).trans (congrArg _ (by unfold ldpBody; exact pondIssue_ready h))
  · exact (plain_begins (stpBody x) hb).trans (congrArg _ (by unfold stpBody; exact pondIssue_ready h))
  · exact (buffered_begins (vldpBody x) hb).trans (congrArg Host.Outcome.next (pondIssue_ready h))
  · exact (plain_begins (vstpBody x) hb).trans (congrArg Host.Outcome.next (pondIssue_ready h))
  · exact (buffered_begins (blkldBody x) hb).trans (congrArg _ (by unfold blkldBody; exact pondIssue_ready h))
  · exact (plain_begins (blkstBody x) hb).trans (congrArg Host.Outcome.next (pondIssue_ready h))
  · exact (plain_begins (fillBody x) hb).trans (congrArg Host.Outcome.next (pondIssue_ready h))
  · exact (plain_begins (emptyBody x) hb).trans (congrArg Host.Outcome.next (pondIssue_ready h))
  · exact (buffered_begins (peekBody x) hb).trans (congrArg Host.Outcome.next (pondIssue_ready h))
  · exact (buffered_begins (recvFeBody x) hb).trans (congrArg Host.Outcome.next (pondIssue_ready h))
  · exact (buffered_begins (recvChkBody x) hb).trans (congrArg Host.Outcome.next (pondIssue_ready h))

/-- Both bodies are a check of one word, whose three outcomes are stated once. -/
theorem pondAccessWaits_hold : Claims.PondAccessWaits := by
  intro x s r p n va o hp hb hf hn m room
  have he : ∃ mk go, p.2.2.2 = r.pondAccess mk va ∧ exec p.1 s = .next (pondIssue va n n n mk go r) := by
    simp only [List.mem_cons, List.not_mem_nil, or_false] at hp
    rcases hp with rfl | rfl
    · exact ⟨_, _, rfl, (buffered_begins (ldpBody x) hb).trans (by unfold ldpBody; rfl)⟩
    · exact ⟨_, _, rfl, (plain_begins (stpBody x) hb).trans (by unfold stpBody; rfl)⟩
  obtain ⟨mk, go, ha, he⟩ := he
  have hret : r.touchesRetired va n = m.isRetired (o / 64 * 64) := r.touchesRetired_scalar hn hf
  rw [← hret, he]
  refine ⟨fun h => congrArg _ (pondIssue_retired hf h), fun h hr => congrArg _ (pondIssue_full hf h ?_),
    fun h hr hp => congrArg _ (pondIssue_ranged hf h ?_ ?_)⟩
  · exact ha ▸ hr
  · exact ha ▸ hr
  · exact ha ▸ hp

/-- Settles O32. -/
theorem pondPath : Obligations.PondPath := ⟨pondAccesses_hold, pondAccessWaits_hold⟩

end

section
/-! PROOFS. The end of a vector instruction: its slot, its flags and its late FPX (R202, R206, R372). -/

namespace Sys2Proof.Machine

open Sys2Proof

/-! The agenda. -/

theorem mem_insertDue_self (d : Due) (l : List Due) : d ∈ insertDue d l := by
  induction l with
  | nil => exact List.mem_singleton_self d
  | cons e l ih =>
    rw [insertDue]
    split
    · exact List.mem_cons_self
    · exact List.mem_cons_of_mem e ih

theorem mem_insertDue_of_mem {e : Due} (d : Due) {l : List Due} (h : e ∈ l) : e ∈ insertDue d l := by
  induction l with
  | nil => exact absurd h List.not_mem_nil
  | cons a l ih =>
    rw [insertDue]
    split
    · exact List.mem_cons_of_mem d h
    · rcases List.mem_cons.mp h with rfl | h
      · exact List.mem_cons_self
      · exact List.mem_cons_of_mem a (ih h)

theorem State.mem_advance_agenda {s : State} {d : Due} (h : d ∈ s.agenda) : d ∈ s.advance.agenda := mem_insertDue_of_mem _ h

/-- An event to come stands at its own cycle. -/
theorem State.mem_post_agenda {s : State} {at_ : Nat} (h : s.cycle ≤ at_) (cls pri : Nat) (i : Instr) (arg : List Nat) :
    ⟨at_, cls, pri, .event i arg⟩ ∈ (s.post at_ cls pri i arg).agenda := by
  have hat : (⟨at_, cls, pri, .event i arg⟩ : Due) = ⟨max at_ s.cycle, cls, pri, .event i arg⟩ := by rw [max_eq_left h]
  rw [hat]
  exact mem_insertDue_self _ _

/-! A slot that is not the default one, be its thread running or not. -/

theorem State.slot_setSlot_other_of_ne (s : State) {g g' : Nat} {x : Slot} (h : x ≠ {}) (hg : g' ≠ g) :
    (s.setSlot g x).slot g' = s.slot g' := by
  change tget {} (tput {} s.slots g x) g' = _
  rw [tput, if_neg h]
  exact tget_tins_other _ _ _ _ _ hg

theorem State.updMe_me_of_ne (s : State) {f : Slot → Slot} (h : f s.me ≠ {}) : (s.updMe f).me = f s.me :=
  tget_tput_same' _ _ _ _ h

theorem State.updMe_slot_other_of_ne (s : State) {f : Slot → Slot} {g : Nat} (h : f s.me ≠ {}) (hg : g ≠ s.cur) :
    (s.updMe f).slot g = s.slot g := s.slot_setSlot_other_of_ne h hg

theorem Slot.ne_default_of_ring {x : Slot} (h : x.ring ≠ []) : x ≠ {} := fun e => h (by rw [e])

theorem State.ctxOfSlot_congr {s t : State} {g : Nat} (hlaunches : t.launches = s.launches)
    (hlaunch : (t.slot g).launch = (s.slot g).launch) : t.ctxOfSlot g = s.ctxOfSlot g := by
  simp only [State.ctxOfSlot, State.launchOfSlot, State.launchOf, hlaunches, hlaunch]

/-! The late fault. -/

/-- The slot with the last cycle at which a late fault can still arrive. -/
def Slot.awaitLate (x : Slot) (t : Nat) : Slot := { x with lateDue := t }

theorem Slot.awaitLate_ne_default (x : Slot) (t : Nat) : x.awaitLate (t + 1) ≠ {} :=
  fun e => Nat.succ_ne_zero t (congrArg Slot.lateDue e)

theorem State.lateIn24_me (s : State) (code seq detail : Nat) : (s.lateIn24 code seq detail).me = s.me.awaitLate (s.cycle + 24) :=
  s.updMe_me_of_ne (f := fun x => x.awaitLate (s.cycle + 24)) (s.me.awaitLate_ne_default _)

theorem State.lateIn24_slot_other (s : State) (code seq detail : Nat) {g : Nat} (hg : g ≠ s.cur) :
    (s.lateIn24 code seq detail).slot g = s.slot g :=
  s.updMe_slot_other_of_ne (f := fun x => x.awaitLate (s.cycle + 24)) (s.me.awaitLate_ne_default _) hg

theorem State.mem_lateIn24_agenda (s : State) (code seq detail : Nat) :
    ⟨s.cycle + 24, 8, s.cur, .event .lateFault [s.cur, code, seq, detail, s.me.thread, s.ctxOfSlot s.cur]⟩ ∈
      (s.lateIn24 code seq detail).agenda :=
  State.mem_post_agenda (s := s.updMe _) (Nat.le_add_right s.cycle 24) _ _ _ _

/-! The flags of a vector instruction, and its going on. -/

/-- The slot once the instruction at `seq` in its ring has raised flags `fl`. -/
def Slot.vectorDone (x : Slot) (seq fl t : Nat) : Slot := ((x.orFlags fl).ringDone seq fl).awaitLate t

/-- The state in which the flags of the instruction at `seq` have entered FPFLAGS and the ring. -/
def State.flagsEntered (s : State) (seq fl : Nat) : State := s.updMe (fun x => x.vectorDone seq fl (s.cycle + 24))

/-- The state of `finishVector` before the thread goes on: the flags entered, and the late FPX posted where they trap. -/
def State.flagged (s : State) (seq fl : Nat) : State :=
  if s.me.traps fl then (s.flagsEntered seq fl).lateIn24 fcFpx seq fl else s.flagsEntered seq fl

theorem State.finishVector_eq (s : State) (seq fl : Nat) : s.finishVector seq fl = (s.flagged seq fl).advance := rfl

section
variable (s : State) (seq fl : Nat)

theorem State.flagsEntered_me : (s.flagsEntered seq fl).me = s.me.vectorDone seq fl (s.cycle + 24) :=
  s.updMe_me_of_ne (f := fun x => x.vectorDone seq fl (s.cycle + 24)) (Slot.awaitLate_ne_default _ _)

theorem State.flagsEntered_slot_other {g : Nat} (hg : g ≠ s.cur) : (s.flagsEntered seq fl).slot g = s.slot g :=
  s.updMe_slot_other_of_ne (f := fun x => x.vectorDone seq fl (s.cycle + 24)) (Slot.awaitLate_ne_default _ _) hg

theorem State.flagged_shape : s.flagged seq fl = { s with slots := (s.flagged seq fl).slots, agenda := (s.flagged seq fl).agenda } := by
  unfold State.flagged
  split <;> rfl

theorem State.flagged_me : (s.flagged seq fl).me = s.me.vectorDone seq fl (s.cycle + 24) := by
  unfold State.flagged
  split
  · rw [State.lateIn24_me, State.flagsEntered_me]
    rfl
  · exact s.flagsEntered_me seq fl

theorem State.flagged_slot_other {g : Nat} (hg : g ≠ s.cur) : (s.flagged seq fl).slot g = s.slot g := by
  unfold State.flagged
  split
  · exact ((s.flagsEntered seq fl).lateIn24_slot_other fcFpx seq fl hg).trans (s.flagsEntered_slot_other seq fl hg)
  · exact s.flagsEntered_slot_other seq fl hg

theorem State.finishVector_shape :
    s.finishVector seq fl = { s with slots := (s.finishVector seq fl).slots, agenda := (s.finishVector seq fl).agenda } := by
  rw [State.finishVector_eq, State.advance_shape, State.flagged_shape]

theorem State.finishVector_me : (s.finishVector seq fl).me =
    { s.me.vectorDone seq fl (s.cycle + 24) with pc := s.me.pc + 1, st := .running, due := some (issueAt s.cur (s.cycle + 1)) } := by
  have hcur : (s.flagged seq fl).cur = s.cur := by rw [State.flagged_shape]
  have hcycle : (s.flagged seq fl).cycle = s.cycle := by rw [State.flagged_shape]
  rw [State.finishVector_eq, State.advance_me, State.flagged_me, hcur, hcycle]
  rfl

theorem State.finishVector_slot_other {g : Nat} (hg : g ≠ s.cur) : (s.finishVector seq fl).slot g = s.slot g := by
  have hcur : (s.flagged seq fl).cur = s.cur := by rw [State.flagged_shape]
  rw [State.finishVector_eq, State.advance_slot_other _ (by rwa [hcur]), State.flagged_slot_other s seq fl hg]

/-- The instruction leaves the thread its launch, and the launch its context. -/
theorem State.finishVector_ctx : (s.finishVector seq fl).ctxOfSlot s.cur = s.ctxOfSlot s.cur := by
  have hshape := s.finishVector_shape seq fl
  have hcur : (s.finishVector seq fl).cur = s.cur := by rw [hshape]
  refine State.ctxOfSlot_congr (by rw [hshape]) ?_
  calc ((s.finishVector seq fl).slot s.cur).launch = (s.finishVector seq fl).me.launch := by rw [State.me, hcur]
    _ = s.me.launch := by rw [State.finishVector_me]; rfl

variable {s seq fl}

theorem State.finishVector_posts_fpx (h : s.me.traps fl = true) :
    ⟨s.cycle + 24, 8, s.cur, .event .lateFault [s.cur, fcFpx, seq, fl, s.me.thread, s.ctxOfSlot s.cur]⟩ ∈
      (s.finishVector seq fl).agenda := by
  have hme := s.flagsEntered_me seq fl
  have hthread : (s.flagsEntered seq fl).me.thread = s.me.thread := by rw [hme]; rfl
  have hctx : (s.flagsEntered seq fl).ctxOfSlot s.cur = s.ctxOfSlot s.cur :=
    State.ctxOfSlot_congr rfl ((congrArg Slot.launch hme).trans rfl)
  have hpost := (s.flagsEntered seq fl).mem_lateIn24_agenda fcFpx seq fl
  rw [hthread] at hpost
  rw [State.finishVector_eq, State.flagged, if_pos h, ← hctx]
  exact State.mem_advance_agenda hpost
end

/-! The issue of a vector instruction. -/

/-- The state in which a vector instruction has entered the ring and written what `f` computes there. -/
def vectorWritten (op fn : Nat) (f : State → (Slot → Slot) × Nat) (r : State) : State :=
  (r.enterRing op fn).2.updMe (f (r.enterRing op fn).2).1

theorem vectorBody_eq (op fn : Nat) (f : State → (Slot → Slot) × Nat) (r : State) :
    vectorBody op fn f r = (vectorWritten op fn f r).finishVector r.me.copseq.toNat (f (r.enterRing op fn).2).2 := rfl

theorem State.enterRing_me_ring_ne_nil (s : State) (op fn : Nat) : (s.enterRing op fn).2.me.ring ≠ [] := by
  rw [State.enterRing_me]
  exact List.cons_ne_nil _ _

theorem State.enterRing_slot_other (s : State) (op fn : Nat) {g : Nat} (hg : g ≠ s.cur) : (s.enterRing op fn).2.slot g = s.slot g :=
  s.slot_setSlot_other_of_ne (fun h => List.cons_ne_nil _ _ (congrArg Slot.ring h)) hg

section
variable {op fn : Nat} {f : State → (Slot → Slot) × Nat} {r : State}
  (h : ((f (r.enterRing op fn).2).1 (r.enterRing op fn).2.me).ring = (r.enterRing op fn).2.me.ring)
include h

/-- A write that leaves the ring alone leaves the slot an entry there, so that it is not the default one. -/
theorem vectorWrite_ne_default : (f (r.enterRing op fn).2).1 (r.enterRing op fn).2.me ≠ {} :=
  Slot.ne_default_of_ring (h ▸ r.enterRing_me_ring_ne_nil op fn)

theorem vectorWritten_me : (vectorWritten op fn f r).me = (f (r.enterRing op fn).2).1 (r.enterRing op fn).2.me :=
  State.updMe_me_of_ne _ (vectorWrite_ne_default h)

theorem vectorWritten_slot_other {g : Nat} (hg : g ≠ r.cur) : (vectorWritten op fn f r).slot g = r.slot g :=
  (State.updMe_slot_other_of_ne _ (vectorWrite_ne_default h) hg).trans (r.enterRing_slot_other op fn hg)
end

end Sys2Proof.Machine
end

section
/-! PROOFS. The obligation of the issue of a vector instruction. -/

open Sys2Proof Sys2Proof.Machine

/-- Settles O25: the instruction enters the ring and writes, and `finishVector` does the rest, each by its own lemmas. -/
theorem vectorIssue : Obligations.VectorIssue := by
  intro op fn f r q y w t hring
  have hy : (r.enterRing op fn).2.me = y := r.enterRing_me op fn
  have hkeeps : ((f (r.enterRing op fn).2).1 (r.enterRing op fn).2.me).ring = (r.enterRing op fn).2.me.ring := hy.symm ▸ hring
  have ht : t = (vectorWritten op fn f r).finishVector q w.2 := vectorBody_eq op fn f r
  have hme : (vectorWritten op fn f r).me = w.1 y := (vectorWritten_me hkeeps).trans (congrArg w.1 hy)
  rw [ht]
  refine ⟨?_, ?_, fun g hg => ?_, fun htrap => ?_⟩
  · rw [State.finishVector_me, hme, ← hring]
    rfl
  · exact State.finishVector_shape _ q w.2
  · exact (State.finishVector_slot_other (vectorWritten op fn f r) q w.2 hg).trans (vectorWritten_slot_other hkeeps hg)
  · have hposts := State.finishVector_posts_fpx (s := vectorWritten op fn f r) (seq := q) (fl := w.2)
      (by rw [hme]; exact bne_iff_ne.mpr htrap)
    rw [hme, ← State.finishVector_ctx _ q w.2] at hposts
    exact hposts

end

section
/-! PROOFS. The masked elements of a vector register: a result is its elements as the digits of a number in base 2^n (R22, R202 to
R204). -/

namespace Sys2Proof.Machine

open Sys2Proof

theorem vget_eq {n : Nat} (hn : 0 < n) (e : Nat) (v : VReg) : vget n e v = v.toNat / (2 ^ n) ^ e % 2 ^ n := by
  have hwidth : n * e + n - 1 + 1 - n * e = n := by omega
  rw [vget, bits_eq, hwidth, Nat.pow_mul]

theorem vget_lt {n : Nat} (hn : 0 < n) (e : Nat) (v : VReg) : vget n e v < 2 ^ n :=
  vget_eq hn e v ▸ Nat.mod_lt _ (Nat.two_pow_pos n)

/-- A digit of a number that is given by its digits. -/
theorem ofDigits_div_pow_mod {p i : Nat} {l : List Nat} (hp : 0 < p) (hl : ∀ d ∈ l, d < p) (hi : i < l.length) :
    Nat.ofDigits p l / p ^ i % p = l[i] := by
  rw [Nat.ofDigits_div_pow_eq_ofDigits_drop i hp l hl, List.drop_eq_getElem_cons hi, Nat.ofDigits_cons,
    Nat.add_mul_mod_self_left, Nat.mod_eq_of_lt (hl _ (List.getElem_mem hi))]

/-- Digits of n bits each that fit in w bits. -/
theorem toNat_ofNat_ofDigits {n w : Nat} {l : List Nat} (hn : 0 < n) (hfit : n * l.length ≤ w) (hl : ∀ d ∈ l, d < 2 ^ n) :
    (BitVec.ofNat w (Nat.ofDigits (2 ^ n) l)).toNat = Nat.ofDigits (2 ^ n) l := by
  rw [BitVec.toNat_ofNat]
  refine Nat.mod_eq_of_lt ?_
  calc Nat.ofDigits (2 ^ n) l < (2 ^ n) ^ l.length := Nat.ofDigits_lt_base_pow_length (Nat.one_lt_two_pow hn.ne') hl
    _ = 2 ^ (n * l.length) := (Nat.pow_mul ..).symm
    _ ≤ 2 ^ w := Nat.pow_le_pow_right Nat.two_pos hfit

/-- An element of the register whose elements are the digits of `l`. -/
theorem vget_ofDigits {n e : Nat} {l : List Nat} (hn : 0 < n) (hfit : n * l.length ≤ 2048) (hl : ∀ d ∈ l, d < 2 ^ n)
    (he : e < l.length) : vget n e (BitVec.ofNat 2048 (Nat.ofDigits (2 ^ n) l)) = l[e] := by
  rw [vget_eq hn, toNat_ofNat_ofDigits hn hfit hl, ofDigits_div_pow_mod (Nat.two_pow_pos n) hl he]

section
variable (n : Nat) (k : Word) (z : Bool) (old : VReg) (f : Nat → Nat × Nat)

/-- Element e of a masked result (R203). -/
def maskedElem (e : Nat) : Nat := if activeElem n k e then (f e).1 % 2 ^ n else if z then 0 else vget n e old

/-- The flags of the active elements of a list (R204). -/
def activeFlags (l : List Nat) : Nat := l.foldr (fun e fl => if activeElem n k e then (f e).2 ||| fl else fl) 0

/-- The register and the flags of `mapElems`, apart. -/
theorem mapElems_eq : mapElems n k z old f =
    (BitVec.ofNat 2048 (Nat.ofDigits (2 ^ n) ((List.range (elemCount n)).map (maskedElem n k z old f))),
      activeFlags n k f (List.range (elemCount n))) := by
  suffices h : ∀ l : List Nat, l.foldr (fun e (a : Nat × Nat) =>
      if activeElem n k e then let y := f e; (y.1 % 2 ^ n + 2 ^ n * a.1, y.2 ||| a.2)
      else ((if z then 0 else vget n e old) + 2 ^ n * a.1, a.2)) (0, 0) =
      (Nat.ofDigits (2 ^ n) (l.map (maskedElem n k z old f)), activeFlags n k f l) by
    unfold mapElems
    rw [h]
  intro l
  induction l with
  | nil => rfl
  | cons e l ih =>
    rw [List.foldr_cons, ih]
    by_cases ha : activeElem n k e = true
    · simp [ha, maskedElem, activeFlags, Nat.ofDigits_cons]
    · simp [ha, maskedElem, activeFlags, Nat.ofDigits_cons]

theorem maskedElem_lt {n : Nat} (hn : 0 < n) (e : Nat) : maskedElem n k z old f e < 2 ^ n := by
  unfold maskedElem
  split
  · exact Nat.mod_lt _ (Nat.two_pow_pos n)
  · split
    · exact Nat.two_pow_pos n
    · exact vget_lt hn e old

theorem vget_mapElems {n e : Nat} (hn : 0 < n) (he : e < elemCount n) :
    vget n e (mapElems n k z old f).1 = maskedElem n k z old f e := by
  have hlen : ((List.range (elemCount n)).map (maskedElem n k z old f)).length = elemCount n := by
    rw [List.length_map, List.length_range]
  rw [mapElems_eq, vget_ofDigits hn]
  case hfit => rw [hlen]; exact Nat.mul_div_le 2048 n
  case hl => exact List.forall_mem_map.mpr fun e _ => maskedElem_lt k z old f hn e
  case he => rwa [hlen]
  rw [List.getElem_map, List.getElem_range]

theorem testBit_activeFlags (l : List Nat) (b : Nat) :
    (activeFlags n k f l).testBit b = l.any (fun e => activeElem n k e && (f e).2.testBit b) := by
  induction l with
  | nil => exact Nat.zero_testBit b
  | cons e l ih =>
    rw [List.any_cons, ← ih]
    cases ha : activeElem n k e <;> simp [activeFlags, ha]
end

end Sys2Proof.Machine
end

section
/-! PROOFS. The values of integer elements (R207 to R209): an integer under T is its pattern modulo 2^n, so results agree modulo 2^n. -/

namespace Sys2Proof.Machine

open Sys2Proof

theorem toSigned_modEq (n x : Nat) : toSigned n x ≡ x [ZMOD (2 ^ n : Nat)] := by
  have hmod : ((x % 2 ^ n : Nat) : Int) ≡ x [ZMOD (2 ^ n : Nat)] := Int.natCast_modEq_iff.mpr (Nat.mod_modEq x _)
  unfold toSigned
  dsimp only
  split
  · exact hmod
  · exact (Int.sub_modulus_modEq_iff).mpr hmod

theorem valT_modEq (t : Nat) (y : Word) : valT t y ≡ y.toNat [ZMOD (2 ^ tyBits t : Nat)] := by
  unfold valT
  split
  · exact toSigned_modEq _ _
  · exact Int.natCast_modEq_iff.mpr (Nat.mod_modEq _ _)

/-- An integer that agrees with a natural modulo 2^n has the pattern of the natural's low n bits. -/
theorem ofSigned_of_modEq {n y : Nat} {x : Int} (h : x ≡ y [ZMOD (2 ^ n : Nat)]) : ofSigned n x = y % 2 ^ n := by
  rw [ofSigned, h, ← Int.natCast_emod, Int.toNat_natCast]

theorem ofSigned_natCast_of_lt {n y : Nat} (h : y < 2 ^ n) : ofSigned n y = y :=
  (ofSigned_of_modEq rfl).trans (Nat.mod_eq_of_lt h)

/-- An element of its type's width is the word that logic and shifts act on. -/
theorem toNat_ofNat_elem {t b : Nat} (hb : b < 2 ^ tyBits t) : (BitVec.ofNat 64 b).toNat = b := by
  rw [BitVec.toNat_ofNat, Nat.mod_eq_of_lt (Nat.lt_of_lt_of_le hb (Nat.pow_le_pow_right Nat.two_pos (tyBits_le t)))]

theorem elemInt_modEq {t b : Nat} (hb : b < 2 ^ tyBits t) : elemInt t b ≡ b [ZMOD (2 ^ tyBits t : Nat)] := by
  have h := valT_modEq t (BitVec.ofNat 64 b)
  rwa [toNat_ofNat_elem hb] at h

section
variable {x : Args} {e a b c : Nat}

section
variable (hf : isFloat x.ty = false)
include hf

/-- `vadd`, `vsub` and `vmul` on integers: the low bits of the exact result (R207). -/
theorem vArith_integer : vArith 0 x e b c a = (ofSigned (tyBits x.ty) (elemInt x.ty b + elemInt x.ty c), 0)
    ∧ vArith 1 x e b c a = (ofSigned (tyBits x.ty) (elemInt x.ty b - elemInt x.ty c), 0)
    ∧ vArith 2 x e b c a = (ofSigned (tyBits x.ty) (elemInt x.ty b * elemInt x.ty c), 0) := by
  have hno : ¬isFloat x.ty = true := by simp [hf]
  exact ⟨if_neg hno, if_neg hno, if_neg hno⟩

/-- `vmin` and `vmax` on integers: one of the operands, by the order of their type (R208). -/
theorem vMinMax_integer : vMinMax false x e b c a = (if elemInt x.ty b ≤ elemInt x.ty c then b else c, 0)
    ∧ vMinMax true x e b c a = (if elemInt x.ty b ≤ elemInt x.ty c then c else b, 0) := by
  have hpick (larger : Bool) :
      vMinMax larger x e b c a = (if decide (elemInt x.ty b ≤ elemInt x.ty c) != larger then b else c, 0) := if_neg (by simp [hf])
  rw [hpick, hpick]
  by_cases h : elemInt x.ty b ≤ elemInt x.ty c <;> simp [h]
end

section
variable (hb : b < 2 ^ tyBits x.ty) (hc : c < 2 ^ tyBits x.ty)
include hb hc

theorem ofSigned_elemInt_add : ofSigned (tyBits x.ty) (elemInt x.ty b + elemInt x.ty c) = (b + c) % 2 ^ tyBits x.ty :=
  ofSigned_of_modEq (by simpa using (elemInt_modEq hb).add (elemInt_modEq hc))

theorem ofSigned_elemInt_sub :
    ofSigned (tyBits x.ty) (elemInt x.ty b - elemInt x.ty c) = (b + 2 ^ tyBits x.ty - c) % 2 ^ tyBits x.ty := by
  have hwrap : ((b + 2 ^ tyBits x.ty - c : Nat) : Int) = b - c + (2 ^ tyBits x.ty : Nat) := by omega
  refine ofSigned_of_modEq (((elemInt_modEq hb).sub (elemInt_modEq hc)).trans ?_)
  rw [hwrap]
  exact Int.modEq_add_modulus_iff.mpr rfl

theorem ofSigned_elemInt_mul : ofSigned (tyBits x.ty) (elemInt x.ty b * elemInt x.ty c) = b * c % 2 ^ tyBits x.ty :=
  ofSigned_of_modEq (by simpa using (elemInt_modEq hb).mul (elemInt_modEq hc))

/-- Logic acts on the bits of two elements, and an element of their width comes out. -/
theorem vLogic_bitwise : vLogic 0 x e b c a = (b &&& c, 0) ∧ vLogic 1 x e b c a = (b ||| c, 0)
    ∧ vLogic 2 x e b c a = (b ^^^ c, 0) := by
  have hval {y : Word} {v : Nat} (hy : y.toNat = v) (hv : v < 2 ^ tyBits x.ty) :
      (ofSigned (tyBits x.ty) (y.toNat : Int), 0) = (v, 0) := by rw [hy, ofSigned_natCast_of_lt hv]
  have hbw := toNat_ofNat_elem hb
  have hcw := toNat_ofNat_elem hc
  exact ⟨hval (by rw [BitVec.toNat_and, hbw, hcw]) (Nat.and_lt_two_pow b hc),
    hval (by rw [BitVec.toNat_or, hbw, hcw]) (Nat.or_lt_two_pow hb hc),
    hval (by rw [BitVec.toNat_xor, hbw, hcw]) (Nat.xor_lt_two_pow hb hc)⟩

/-- Shifts left and right, of the bits and of the signed integer (R209). -/
theorem vLogic_shift : vLogic 3 x e b c a = (b * 2 ^ (c % 64 % tyBits x.ty) % 2 ^ tyBits x.ty, 0)
    ∧ vLogic 4 x e b c a = (b / 2 ^ (c % 64 % tyBits x.ty), 0)
    ∧ vLogic 5 x e b c a = (ofSigned (tyBits x.ty) (toSigned (tyBits x.ty) b / 2 ^ (c % 64 % tyBits x.ty)), 0) := by
  have hcount : shiftCount x.ty (BitVec.ofNat 64 c) = c % 64 % tyBits x.ty := by rw [shiftCount, toNat_ofNat_elem hc]
  have hu : unsignedB x.ty (BitVec.ofNat 64 b) = b := by rw [unsignedB, lowT, toNat_ofNat_elem hb, Nat.mod_eq_of_lt hb]
  have hs : signedB x.ty (BitVec.ofNat 64 b) = toSigned (tyBits x.ty) b := by rw [signedB, toNat_ofNat_elem hb]
  rw [← hcount]
  refine ⟨Prod.ext (ofSigned_of_modEq ?_) rfl, Prod.ext ?_ rfl, Prod.ext ?_ rfl⟩
  · rw [Nat.cast_mul]
    exact (elemInt_modEq hb).mul_right _
  · refine (congrArg (fun u => ofSigned (tyBits x.ty) ((u / _ : Nat) : Int)) hu).trans (ofSigned_natCast_of_lt ?_)
    exact (Nat.div_le_self ..).trans_lt hb
  · exact congrArg (fun i => ofSigned (tyBits x.ty) (i / _)) hs
end
end

end Sys2Proof.Machine
end

section
/-! PROOFS. The obligations of vector instructions. -/

open Sys2Proof Sys2Proof.Machine

/-- Settles O24: each row is the meaning of its instruction, and where it begins it is its own effect. -/
theorem vectorResults : Obligations.VectorResults := by
  intro x s r
  dsimp only
  simp only [List.forall_mem_cons, List.not_mem_nil, false_implies, implies_true, and_true]
  and_intros
  all_goals exact plain_begins _

/-- Settles O26: the result's elements are its digits in base 2^n, and its flags are those of the active elements. -/
theorem maskedElements : Obligations.MaskedElements := by
  intro n k z old f hn
  have hpos : 0 < n := (by decide : ∀ m ∈ [8, 16, 32, 64], 0 < m) n hn
  refine ⟨fun e he => vget_mapElems k z old f hpos he, fun b => ?_⟩
  rw [mapElems_eq]
  exact testBit_activeFlags n k f _ b

/-- Settles O27: arithmetic by its results modulo 2^n, logic and shifts on the element's bits, a minimum and a maximum by their test. -/
theorem integerElements : Obligations.IntegerElements := by
  intro x e a b c hf _ n hb hc
  obtain ⟨hadd, hsub, hmul⟩ := vArith_integer (e := e) (a := a) (b := b) (c := c) hf
  obtain ⟨hand, hor, hxor⟩ := vLogic_bitwise (e := e) (a := a) hb hc
  obtain ⟨hshl, hshr, hsra⟩ := vLogic_shift (e := e) (a := a) hb hc
  obtain ⟨hmin, hmax⟩ := vMinMax_integer (e := e) (a := a) (b := b) (c := c) hf
  refine ⟨?_, ?_, ?_, hand, hor, hxor, hshl, hshr, hsra, congrArg Prod.fst hmin, congrArg Prod.fst hmax⟩
  · rw [hadd, ofSigned_elemInt_add hb hc]
  · rw [hsub, ofSigned_elemInt_sub hb hc]
  · rw [hmul, ofSigned_elemInt_mul hb hc]

end

section
/-! PROOFS. Accumulators, steps and moves of the matrix engine, one lemma for each case of an instruction (R232 to R245). -/

namespace Sys2Proof.Machine

open Sys2Proof

/-! Checks of operands at issue. -/

/-- An issue that raises the fault of its operands, where they have one, and goes on otherwise. -/
def State.checked (s : State) (fault : Option (Nat × Nat)) (go : State) : State :=
  match fault with
  | some f => s.raise f.1 f.2
  | none => go

theorem State.checked_some {s go : State} {fault : Option (Nat × Nat)} {f : Nat × Nat} (h : fault = some f) :
    s.checked fault go = s.raise f.1 f.2 := by
  rw [h]
  rfl

theorem State.checked_none {s go : State} {fault : Option (Nat × Nat)} (h : fault = none) : s.checked fault go = go := by
  rw [h]
  rfl

/-! Accumulators. -/

/-- An accumulator of the running slot's core that is not on loan, and that no move holds (R242, R244). -/
abbrev State.accFree (s : State) (a : Nat) : Prop := s.myCore.onLoan a = false ∧ (s.myCore.acc a).busy = false

theorem State.accHeld_iff (s : State) (a : Nat) : (s.myCore.onLoan a || (s.myCore.acc a).busy) = true ↔ ¬s.accFree a := by
  rw [Bool.or_eq_true, not_and_or, Bool.not_eq_false, Bool.not_eq_false]

/-- The shape word of `mshape` is sound for a type (R232, R233). -/
abbrev shapeSound (w t : Nat) : Prop :=
  let m := w % 2 ^ 8
  let n := w / 2 ^ 8 % 2 ^ 8
  let k := w / 2 ^ 16 % 2 ^ 8
  w / 2 ^ 25 = 0 ∧ 1 ≤ m ∧ m ≤ (if t = 9 then 32 else 64) ∧ 1 ≤ n ∧ n ≤ (if t = 9 then 64 else 128) ∧ 8 ≤ k ∧ k ≤ 64
    ∧ k % 8 = 0 ∧ (t = 17 → k % 32 = 0) ∧ (w.testBit 24 = true → 13 ≤ t ∧ k % 32 = 0)

/-- The test that `mshape` makes of its word; its two clauses on scales are one in R233. -/
theorem shapeBad_iff (w t : Nat) :
    (w / 2 ^ 25 != 0 || bits w 7 0 == 0 || decide ((if t == 9 then 32 else 64) < bits w 7 0) || bits w 15 8 == 0
      || decide ((if t == 9 then 64 else 128) < bits w 15 8) || decide (bits w 23 16 < 8) || decide (64 < bits w 23 16)
      || bits w 23 16 % 8 != 0 || (t == 17 && bits w 23 16 % 32 != 0) || (w.testBit 24 && decide (t ≤ 12))
      || (w.testBit 24 && bits w 23 16 % 32 != 0)) = true ↔ ¬shapeSound w t := by
  simp only [shapeSound, bits_eq, Nat.pow_zero, Nat.div_one, Nat.reduceAdd, Nat.reduceSub, Bool.or_eq_true, Bool.and_eq_true, bne_iff_ne,
    beq_iff_eq, decide_eq_true_eq]
  generalize w % 2 ^ 8 = m, w / 2 ^ 8 % 2 ^ 8 = n, w / 2 ^ 16 % 2 ^ 8 = k
  cases w.testBit 24
  · simp only [Bool.false_eq_true, false_and, or_false, false_implies, and_true]
    omega
  · simp only [true_and, true_implies]
    omega

/-- The accumulator that a sound shape word makes: its elements are all 0 (R233). -/
def shapedAcc (w t t2 : Nat) : Acc :=
  { m := w % 2 ^ 8, n := w / 2 ^ 8 % 2 ^ 8, k := w / 2 ^ 16 % 2 ^ 8, t := t, t2 := if t2 = 0 then t else t2,
    scaled := w.testBit 24 && t != 17 }

/-- The shape is checked before the loan (log 145). -/
theorem mshapeBody_eq (x : Args) (s : State) : mshapeBody x s =
    if ¬shapeSound (s.opVal x.b).toNat x.ty then s.raise fcIllop (illopDetail (encWord 0xB0 0 x))
    else if ¬s.accFree x.a.idx then s.raise fcAccbusy x.a.idx
    else ((s.ringNow 0xB0 0).updCore (coreOf s.cur) (fun c => c.setAcc x.a.idx (shapedAcc (s.opVal x.b).toNat x.ty x.ty2))).advance := by
  unfold mshapeBody
  refine if_congr ?_ rfl (if_congr (s.accHeld_iff _) rfl ?_)
  · exact shapeBad_iff _ _
  · simp only [shapedAcc, bits_eq, Nat.pow_zero, Nat.div_one, beq_iff_eq]
    rfl

theorem mzeroBody_eq (x : Args) (s : State) : mzeroBody x s =
    if ¬s.accFree x.a.idx then s.raise fcAccbusy x.a.idx
    else ((s.ringNow 0xB0 3).updCore (coreOf s.cur) (fun c => c.setAcc x.a.idx { c.acc x.a.idx with elems := [] })).advance :=
  if_congr (s.accHeld_iff _) rfl rfl

/-! Steps. -/

/-- The step that `mma` stages, but for its number in the ring (R236, R237). -/
def State.stepOf (s : State) (x : Args) : EStep :=
  let acc := s.myCore.acc x.a.idx
  { slot := s.cur, acc := x.a.idx, m := acc.m, n := acc.n, k := acc.k, t := acc.t, t2 := acc.t2, scaled := acc.scaled
    a := (s.grp x.b 0, s.grp x.b 1), b := (s.grp x.c 0, s.grp x.c 1), av := s.vecOperand x.b, bv := s.vecOperand x.c }

/-- The first fault of a step's operands (R237). -/
def EStep.fault (e : EStep) (word : Nat) : Option (Nat × Nat) :=
  rectFault word e.rects ((e.av.isSome && hasScales e.t e.scaled) || (e.bv.isSome && hasScales e.t2 e.scaled))
    ((e.av.isSome && decide (512 < e.m * rowSize e.t e.k)) || (e.bv.isSome && decide (512 < e.k * rowSize e.t2 e.n)))

/-- The operands of `mma` are checked before its accumulator, and its accumulator before the room in the staging. -/
theorem mmaBody_eq (x : Args) (s : State) : mmaBody x s =
    s.checked ((s.stepOf x).fault (illopDetail (encWord 0xB0 1 x)))
      (if (s.myCore.acc x.a.idx).busy then s.raise fcAccbusy x.a.idx
      else if 32 ≤ s.myCore.staging.length then s.park s.cur .staging
      else ((s.enterRing 0xB0 1).2.updCore (coreOf s.cur)
        (fun c => { c with staging := c.staging ++ [{ s.stepOf x with seq := s.me.copseq.toNat }] })).advance) := rfl

/-! Moves. -/

/-- The move that `mld` or `mst` queues, but for its number in the ring and its stripes (R244). -/
def State.moveOf (s : State) (store : Bool) (x : Args) : Move :=
  { id := s.uid, store := store, core := coreOf s.cur, slot := s.cur, uid := s.uid, seq := 0, thread := s.me.thread, acc := x.a.idx
    base := s.grp x.b 0, pitch := s.grp x.b 1, issue := s.cycle, waits := s.me.fence, left := [] }

/-- The rectangle of that move, of the accumulator's shape. -/
def State.moveRect (s : State) (store : Bool) (x : Args) : Rect := (s.moveOf store x).rect (s.myCore.acc x.a.idx)

/-- The state that a sound move leaves: the accumulator is held, the move waits at the engine, an entry will take its
status, and the slot goes on. -/
def State.moveQueued (s : State) (store : Bool) (fn : Nat) (x : Args) : State :=
  let q := s.me.copseq.toNat
  let s1 := ({ s with uid := s.uid + 1 }.enterRing 0xB0 fn).2.updCore (coreOf s.cur)
    (fun k => k.setAcc x.a.idx { k.acc x.a.idx with busy := true })
  let s2 := s1.updCluster (clusterOf s.cur)
    (fun k => { k with moves := k.moves ++ [{ s.moveOf store x with seq := q, left := (s.moveRect store x).stripes }] })
  let s3 := s2.takeEntry { uid := s.uid, form := .engine, writes := [⟨.s, x.c.idx, 0, BitVec.allOnes 2048⟩], seq := some q }
  ((s3.updMe (fun y => { y with open_ := y.open_ ++ [{ uid := s.uid, space := .pond, atomic := false, left := 1 }] })).wakeEngine
    (clusterOf s.cur)).advance

theorem moveBody_eq (store : Bool) (fn : Nat) (x : Args) (s : State) : moveBody store fn x s =
    s.checked (rectFault (illopDetail (encWord 0xB0 fn x)) [s.moveRect store x] false false)
      (if ¬s.accFree x.a.idx then s.raise fcAccbusy x.a.idx else s.moveQueued store fn x) :=
  congrArg (s.checked _) (if_congr (s.accHeld_iff _) rfl rfl)

end Sys2Proof.Machine
end

section
/-! PROOFS. Batches of the matrix engine and commands of the copy unit at issue (R238, R246 to R250). -/

namespace Sys2Proof.Machine

open Sys2Proof

/-- The command that a copy instruction makes, but for its number in the ring (R246, R247). -/
def State.copyOf (s : State) (kind : Nat) (x : Args) : Copy :=
  { id := s.uid, kind := kind, slot := s.cur, thread := s.me.thread, launch := s.me.launch, crew := (s.mill (millOf s.cur)).crew
    issue := s.cycle, ctx := s.ctxOfSlot s.cur, r := [s.grp x.b 0, s.grp x.b 1, s.grp x.b 2, s.grp x.b 3]
    word := illopDetail (encWord 0xA0 kind x) }

/-- Whether a command writes to the mill of the running slot. -/
def State.writesHere (s : State) (c : Copy) : Bool := (s.copyDests c).contains (millOf s.cur)

/-- Room for a command: in the queue of its unit, on the scoreboard, and no operand range in its way (R248, R257). -/
abbrev State.copyRoom (s : State) (c : Copy) : Prop :=
  (s.cluster c.cluster).cu.queue.length < 16 ∧ (s.mill (millOf s.cur)).sb.length < 64
  ∧ ((s.writesHere c = true ∨ c.kind = 1) → ∀ e ∈ (s.mill (millOf s.cur)).sb, e.chunk = false →
      ¬(c.off < e.hi ∧ e.lo < c.off + 512 * c.count))

theorem State.copyBlocked_iff (s : State) (c : Copy) :
    ((decide (16 ≤ (s.cluster c.cluster).cu.queue.length) || decide (64 ≤ (s.mill (millOf s.cur)).sb.length)) = true
      ∨ ((s.writesHere c || c.kind == 1) && (s.mill (millOf s.cur)).sb.any
          (fun e => !e.chunk && decide (c.off < e.hi) && decide (e.lo < c.off + 512 * c.count))) = true) ↔ ¬s.copyRoom c := by
  simp only [State.copyRoom, Bool.or_eq_true, Bool.and_eq_true, Bool.not_eq_true', decide_eq_true_eq, beq_iff_eq, List.any_eq_true,
    not_and_or, not_or, Nat.not_lt, Nat.not_le, not_forall, exists_prop, and_assoc, or_assoc]

/-- The state that a command with room leaves. -/
def State.copyEntered (s : State) (kind : Nat) (x : Args) : State :=
  let c := s.copyOf kind x
  let mill := millOf s.cur
  let s1 := ({ s with uid := s.uid + 1 }.enterRing 0xA0 kind).2.setCopy s.uid { c with seq := s.me.copseq.toNat }
  let s2 := s1.updCu c.cluster (fun u => { u with queue := u.queue ++ [s.uid] })
  let s3 := if s.writesHere c = true then
      s2.updMill mill (fun m => { m with sb := m.sb ++
        [{ chunk := true, owner := s.uid, lo := c.off, hi := c.off + 512 * c.count, arrival := c.arrival }] })
    else s2
  let s4 := (if kind = 1 then [mill] else s3.copyDests c).foldl (fun t d => t.post (t.cycle + 2) 1 0 .chunkWrite [d, s.uid]) s3
  (s4.copyNext c.cluster).advance

/-- The two tests that park a command are one: it finds no room. -/
theorem copyBody_eq (kind : Nat) (x : Args) (s : State) : copyBody kind x s =
    s.checked (s.copyFault (s.copyOf kind x) (illopDetail (encWord 0xA0 kind x)))
      (if s.copyRoom (s.copyOf kind x) then s.copyEntered kind x else s.park s.cur .copyRoom) := by
  refine congrArg (s.checked _) ?_
  refine ((ite_or ..).symm.trans (if_congr (s.copyBlocked_iff (s.copyOf kind x)) rfl ?_)).trans (ite_not ..)
  simp only [beq_iff_eq]
  rfl

end Sys2Proof.Machine
end

section
/-! PROOFS. The obligations of the matrix engine and of the copy unit. -/

open Sys2Proof Sys2Proof.Machine

/-- Settles O40: a bad shape, an accumulator that is held, and a free one, each by the equation of the instruction. -/
theorem accumulatorShapes : Obligations.AccumulatorShapes := by
  intro x s r w a m n k sc t free core
  refine ⟨fun hb => ?_, fun hb => ?_⟩
  · intro ok
    have e := (plain_begins (mshapeBody x) hb).trans (congrArg Host.Outcome.next (mshapeBody_eq x r))
    exact ⟨fun h => e.trans (congrArg _ (if_pos h)), fun h hf => e.trans (congrArg _ ((if_neg (not_not.mpr h)).trans (if_pos hf))),
      fun h hf => e.trans (congrArg _ ((if_neg (not_not.mpr h)).trans (if_neg (not_not.mpr hf))))⟩
  · have e := (plain_begins (mzeroBody x) hb).trans (congrArg Host.Outcome.next (mzeroBody_eq x r))
    exact ⟨fun hf => e.trans (congrArg _ (if_pos hf)), fun hf => e.trans (congrArg _ (if_neg (not_not.mpr hf)))⟩

/-- A step by the equation of `mma`: its operands, its accumulator, the room in the staging. -/
theorem matrixSteps_hold : Claims.MatrixSteps := by
  intro x s r hb a acc e fault
  have he := (plain_begins (mmaBody x) hb).trans (congrArg Host.Outcome.next (mmaBody_eq x r))
  refine ⟨fun f hf => ?_, fun hf hbusy => ?_, fun hf hbusy hfull => ?_, fun hf hbusy hroom => ?_⟩
  · exact he.trans (congrArg _ (State.checked_some hf))
  · exact he.trans (congrArg _ ((State.checked_none hf).trans (if_pos hbusy)))
  · exact he.trans (congrArg _ ((State.checked_none hf).trans ((if_neg (Bool.eq_false_iff.mp hbusy)).trans (if_pos hfull))))
  · exact he.trans (congrArg _ ((State.checked_none hf).trans
      ((if_neg (Bool.eq_false_iff.mp hbusy)).trans (if_neg (Nat.not_le_of_lt hroom)))))

/-- A move by the equation that `mld` and `mst` share. -/
theorem matrixMoves_hold : Claims.MatrixMoves := by
  intro x s r p hp hb a v rect fault free
  have he : exec p.1 s = .next (moveBody p.2.2 p.2.1 x r) := by
    simp only [List.mem_cons, List.not_mem_nil, or_false] at hp
    rcases hp with rfl | rfl
    · exact buffered_begins (moveBody false 4 x) hb
    · exact buffered_begins (moveBody true 5 x) hb
  have he := he.trans (congrArg _ (moveBody_eq p.2.2 p.2.1 x r))
  refine ⟨fun f hf => ?_, fun hf hheld => ?_, fun hf hfree => ?_⟩
  · exact he.trans (congrArg _ (State.checked_some hf))
  · exact he.trans (congrArg _ ((State.checked_none hf).trans (if_pos hheld)))
  · exact he.trans (congrArg _ ((State.checked_none hf).trans (if_neg (not_not.mpr hfree))))

/-- Settles O41. -/
theorem matrixInstructions : Obligations.MatrixInstructions := ⟨matrixSteps_hold, matrixMoves_hold⟩

/-- `mcommit` has one outcome (R238), which its body writes out. -/
theorem batchCommit_hold : Claims.BatchCommit := by
  intro x s r hb
  refine (plain_begins (mcommitBody x) hb).trans (congrArg Host.Outcome.next ?_)
  simp only [mcommitBody, beq_iff_eq]
  rfl

/-- A command by the equation that the four instructions share. -/
theorem copyCommands_hold : Claims.CopyCommands := by
  intro x s r p hp hb mill m c fault mine lo hi room
  have he : exec p.1 s = .next (copyBody p.2 x r) := by
    simp only [List.mem_cons, List.not_mem_nil, or_false] at hp
    rcases hp with rfl | rfl | rfl | rfl
    all_goals exact plain_begins (copyBody _ x) hb
  have he := he.trans (congrArg _ (copyBody_eq p.2 x r))
  refine ⟨fun f hf => ?_, fun hf hfull => ?_, fun hf hroom => ?_⟩
  · exact he.trans (congrArg _ (State.checked_some hf))
  · exact he.trans (congrArg _ ((State.checked_none hf).trans (if_neg hfull)))
  · exact he.trans (congrArg _ ((State.checked_none hf).trans (if_pos hroom)))

/-- Settles O42. -/
theorem batchesAndCopies : Obligations.BatchesAndCopies := ⟨batchCommit_hold, copyCommands_hold⟩

end

section
/-! PROOFS. Messages of a thread at issue: the faults of their words, and the release that they start (R281, R309, R311). -/

namespace Sys2Proof.Machine

open Sys2Proof

theorem State.checked_ite {p : Prop} [Decidable p] (s go : State) (f : Nat × Nat) (fault : Option (Nat × Nat)) :
    s.checked (if p then some f else fault) go = if p then s.raise f.1 f.2 else s.checked fault go :=
  apply_ite (s.checked · go) p (some f) fault

/-! The fields of a send's two words, c of its destination and h of its header (R311). -/

/-- WHERE: a slot of this package, one of a peer package, or a host. -/
abbrev destWhere (c : Nat) : Nat := c / 2 ^ 36 % 4

/-- SLOT: a slot id, or the number of a host's mailbox. -/
abbrev destSlot (c : Nat) : Nat := c % 2 ^ 24

abbrev destNode (c : Nat) : Nat := c / 2 ^ 24 % 2 ^ 12

abbrev hdrKind (h : Nat) : Nat := h / 2 ^ 32 % 16

abbrev hdrTag (h : Nat) : Nat := h / 2 ^ 16 % 2 ^ 16

abbrev hdrLen (h : Nat) : Nat := h % 2 ^ 16

theorem bits_destWhere (c : Nat) : bits c 37 36 = destWhere c := bits_eq ..

theorem bits_destNode (c : Nat) : bits c 35 24 = destNode c := bits_eq ..

theorem bits_destSlot (c : Nat) : bits c 23 0 = destSlot c := by rw [bits_eq, Nat.pow_zero, Nat.div_one]

theorem bits_hdrKind (h : Nat) : bits h 35 32 = hdrKind h := bits_eq ..

theorem bits_hdrTag (h : Nat) : bits h 31 16 = hdrTag h := bits_eq ..

theorem bits_hdrLen (h : Nat) : bits h 15 0 = hdrLen h := by rw [bits_eq, Nat.pow_zero, Nat.div_one]

/-- The bytes that LEN may name: the message carries the sender's id in 8 of its own where it goes to another package (R281, R311). -/
abbrev sendRoom (fn c : Nat) : Nat := (if fn = 0 then 56 else 120) - (if destWhere c = 1 then 8 else 0)

/-- The words that the first check of R311 lets go on: no reserved bit, a destination and a kind that exist. -/
abbrev sendSound (c h : Nat) : Prop := c / 2 ^ 38 = 0 ∧ h / 2 ^ 36 = 0 ∧ destWhere c ≠ 3 ∧ (hdrKind h = 0 ∨ hdrKind h = 8)

/-- That check, as the body of `send` makes it. -/
theorem sendBad_iff (c h : Word) :
    (bits c.toNat 63 38 != 0 || bits h.toNat 63 36 != 0 || destWhere c.toNat == 3 || (hdrKind h.toNat != 0 && hdrKind h.toNat != 8)) = true
      ↔ ¬sendSound c.toNat h.toNat := by
  have hc := c.isLt
  have hh := h.isLt
  simp only [sendSound, bits_eq, Bool.or_eq_true, Bool.and_eq_true, bne_iff_ne, beq_iff_eq]
  generalize destWhere c.toNat = where_, hdrKind h.toNat = kind
  omega

/-- The fault of a send's operands, by the checks of R311 in their order. -/
def State.sendFault (s : State) (fn : Nat) (x : Args) : Option (Nat × Nat) :=
  let c := (s.grp x.c 0).toNat
  let h := (s.grp x.c 1).toNat
  if ¬sendSound c h then some (fcIllop, illopDetail (encWord 0x90 fn x))
  else if sendRoom fn c < hdrLen h then some (fcSpace, hdrLen h)
  else if destWhere c = 0 ∧ ¬s.liveSlotId (destSlot c) then some (fcSpace, destSlot c)
  else none

theorem State.sendFault_eq_none {s : State} {fn : Nat} {x : Args} (hsound : sendSound (s.grp x.c 0).toNat (s.grp x.c 1).toNat)
    (hroom : hdrLen (s.grp x.c 1).toNat ≤ sendRoom fn (s.grp x.c 0).toNat)
    (hlive : destWhere (s.grp x.c 0).toNat = 0 → s.liveSlotId (destSlot (s.grp x.c 0).toNat) = true) : s.sendFault fn x = none :=
  (if_neg (not_not.mpr hsound)).trans ((if_neg (Nat.not_lt.mpr hroom)).trans (if_neg fun h => h.2 (hlive h.1)))

/-- The state in which an entry will take the status of a send (R284). -/
def State.awaitsStatus (s : State) (x : Args) : State :=
  ({ s with uid := s.uid + 1 } : State).takeEntry { uid := s.uid, form := .status, writes := regS x }

/-- The message that a send makes: its header, its payload as the send captures it, its mailbox, and the entry that awaits its
status (R281, R311). -/
def State.sendMessage (s : State) (fn : Nat) (x : Args) : Sent :=
  let c := (s.grp x.c 0).toNat
  let h := (s.grp x.c 1).toNat
  let peer := decide (destWhere c = 1)
  let body := (s.me.vreg x.b.idx).toNat % 2 ^ (8 * hdrLen h)
  { msg := { hdr := if peer then mkHdr (hdrKind h) (decide (fn = 1)) 1 s.part.pkgix (hdrTag h) (hdrLen h + 8)
               else mkHdr (hdrKind h) (decide (fn = 1)) 0 s.cur (hdrTag h) (hdrLen h)
             pay := BitVec.ofNat 960 (if peer then s.cur + body * 2 ^ 64 else body), uid := s.uid + 1 }
    dest := if destWhere c = 0 then Dest.slot (destSlot c) else .fabric (destNode c) (destSlot c)
    reply := some (s.cur, s.uid), by_ := (s.awaitsStatus x).me.thread }

/-- The bindings of the thread's launch that a send releases: those of its tag and of its mailbox (R309, log 149). -/
def State.sendBinds (s : State) (x : Args) : List Nat :=
  ((s.binds (s.launchOfSlot s.cur)).map (·.2)).filter
    (fun e => bTag e (destSlot (s.grp x.c 0).toNat) && bits e 15 0 == hdrTag (s.grp x.c 1).toNat)

/-- The state that a sound send leaves: an entry will take its status, its release has begun or waits, and the slot goes on. -/
def State.messageSent (s : State) (fn : Nat) (x : Args) : State :=
  ((({ s.awaitsStatus x with uid := s.uid + 2 } : State).setSent (s.uid + 1) (s.sendMessage fn x)).sendRelease (s.sendBinds x)
    (s.uid + 1)).advance.useBinds

/-- The two outcomes of a send at issue (R311). -/
theorem sendBody_eq (fn : Nat) (x : Args) (s : State) :
    sendBody fn x s = s.checked (s.sendFault fn x) (s.messageSent fn x) := by
  rw [State.sendFault, State.checked_ite, State.checked_ite, State.checked_ite]
  simp only [sendBody, bits_destWhere, bits_destNode, bits_destSlot, bits_hdrKind, bits_hdrTag, bits_hdrLen (s.grp x.c 1).toNat]
  refine if_congr (sendBad_iff _ _) rfl (if_congr ?_ rfl (if_congr ?_ rfl ?_))
  · simp only [sendRoom, beq_iff_eq]
  · simp only [Bool.and_eq_true, beq_iff_eq, Bool.not_eq_true', Bool.not_eq_true]
  · simp only [State.messageSent, State.sendMessage, beq_eq_decide, decide_eq_true_eq]
    rfl

end Sys2Proof.Machine
end

section
/-! PROOFS. The obligation of messages at issue. -/

open Sys2Proof Sys2Proof.Machine

/-- Settles O36: a send whose operands have no fault leaves the state of a message sent. -/
theorem sends : Obligations.Sends := by
  intro x s r p hp hb c h where_ kind len tag slot body host long hdr pay dest es s1 hc hh hwhere hkind hlen hlive
  obtain ⟨he, hlimit⟩ : exec p.1 s = .next (sendBody p.2.1 x r) ∧ (if p.2.1 = 0 then 56 else 120) = p.2.2 := by
    simp only [List.mem_cons, List.not_mem_nil, or_false] at hp
    rcases hp with rfl | rfl
    · exact ⟨buffered_begins (sendBody 0 x) hb, rfl⟩
    · exact ⟨buffered_begins (sendBody 1 x) hb, rfl⟩
  have hroom : len ≤ sendRoom p.2.1 c := by
    rw [sendRoom, hlimit]
    simp only [host, decide_eq_true_eq] at hlen
    exact Nat.le_sub_of_add_le hlen
  have hok : r.sendFault p.2.1 x = none := State.sendFault_eq_none ⟨hc, hh, hwhere, hkind⟩ hroom hlive
  exact he.trans (congrArg _ ((sendBody_eq p.2.1 x r).trans (State.checked_none hok)))

end

section
/-! PROOFS. What stops the machine: every instruction and every event answers a next state, and a frozen machine serves resets and
reads over the management path (R378). -/

namespace Sys2Proof.Machine

open Sys2Proof

/-- An outcome that is a next state, and neither a fault of the machine nor a refusal. -/
inductive AnswersNext : Result → Prop
  | next (s : State) : AnswersNext (.next s)

theorem AnswersNext.exists {r : Result} (h : AnswersNext r) : ∃ t, r = .next t := by
  obtain ⟨t⟩ := h
  exact ⟨t, rfl⟩

theorem execGraphImageLoaded_answers (s : State) : AnswersNext (execGraphImageLoaded s) := by
  obtain ⟨read, hr⟩ : ∃ read, s.readGraph = read := ⟨_, rfl⟩
  simp only [execGraphImageLoaded, hr]
  (repeat' split) <;> exact .next _

/-- An event's meaning is a next state in each case that it distinguishes. -/
theorem exec_event_answers {i : Instr} (hi : i.opFn = none) (s : State) : AnswersNext (exec i s) := by
  cases i <;> cases hi
  case graphImageLoaded => exact execGraphImageLoaded_answers s
  case icacheMiss | tlbMissWalk | walkAnswer | l2Fill | writeBack | clusterRetire | tldgAonRetry | copyChunkReady | chunkWrite
    | engineStep | batchComplete | flitHop | crewAccessArrive | messageDelivery | heldMessageRetry | dispenserHandout | migrationStart
    | trapForward | taskStart | taskEnd | launchNotice | destroy | preempt | switchin | resume | handler | kill | budget | vacate
    | machineCheck | fabricReplay | combineControlServe | cbputDeposit | combineRelease | runStartTime | runEnd | inSwitchMerge
    | pondWordService | resultLands | blockTurn | copyLateFault | copyComplete | engineStepEnd | sendStatus | barrierArrival
    | migrationArrive | lateFault | switchout | restore | waitBudgetExpiry | freeze | boot | hostMemoryRequest | windowAccess
    | combineDeadline | nodeComplete | tlbiComplete | supervisorRestart =>
    dsimp only [exec, execIcacheMiss, execTlbMissWalk, execWalkAnswer, execL2Fill, execWriteBack, execClusterRetire, execTldgAonRetry,
      execCopyChunkReady, execChunkWrite, execEngineStep, execBatchComplete, execFlitHop, execCrewAccessArrive, execMessageDelivery,
      execHeldMessageRetry, execDispenserHandout, execMigrationStart, execTrapForward, execTaskStart, execTaskEnd, execLaunchNotice,
      execDestroy, execPreempt, execSwitchin, execResume, execHandler, execKill, execBudget, execVacate, execMachineCheck,
      execFabricReplay, execCombineControlServe, execCbputDeposit, execCombineRelease, execRunStartTime, execRunEnd, execInSwitchMerge,
      execPondWordService, execResultLands, execBlockTurn, execCopyLateFault, execCopyComplete, execEngineStepEnd, execSendStatus,
      execBarrierArrival, execMigrationArrive, execLateFault, execSwitchout, execRestore, execWaitBudgetExpiry, execFreeze, execBoot,
      execHostMemoryRequest, execWindowAccess, execCombineDeadline, execNodeComplete, execTlbiComplete, execSupervisorRestart]
    (repeat' split) <;> exact .next _
  all_goals exact .next _

/-- An instruction that has a word is issued, which is a next state; every other constructor is an event. -/
theorem exec_answers (i : Instr) (s : State) : AnswersNext (exec i s) := by
  rcases hi : i.opFn with _ | ⟨op, fn, x⟩
  · exact exec_event_answers hi s
  · obtain ⟨takes, always, body, he⟩ := exec_eq_issue hi s
    exact he ▸ .next _

theorem runTurn_answers (g : Nat) (s : State) : AnswersNext (runTurn g s) := by
  unfold runTurn
  split
  · split
    · unfold issueWord
      split
      · exact exec_answers _ _
      · exact .next _
    · exact .next _
  · exact .next _

theorem runDue_answers (d : Due) (s : State) : AnswersNext (runDue d s) := by
  unfold runDue
  split
  · exact runTurn_answers _ s
  · exact exec_answers _ _

/-- A step stops only where a frozen machine has nothing to serve, or where nothing is due. -/
theorem step_answers_or_stops (s : State) :
    AnswersNext (step s) ∨ (step s = .fault .frozen ∧ s.frozen = true) ∨ (step s = .fault .idle ∧ s.agenda = []) := by
  unfold step
  split
  · rename_i hf
    split
    · exact .inl (runDue_answers _ _)
    · exact .inr (.inl ⟨rfl, hf⟩)
  · split
    · rename_i ha
      exact .inr (.inr ⟨rfl, ha⟩)
    · exact .inl (runDue_answers _ _)

/-- The items that a frozen machine serves are the resets and the reads over the management path. -/
theorem Todo.servedFrozen_iff {w : Todo} :
    w.servedFrozen = true ↔ ∃ a, w = .event .reset a ∨ w = .event .managementPathRead a := by
  constructor
  · intro h
    unfold Todo.servedFrozen at h
    split at h
    · exact ⟨_, .inl rfl⟩
    · exact ⟨_, .inr rfl⟩
    · cases h
  · rintro ⟨a, rfl | rfl⟩ <;> rfl

theorem step_frozen_of_none {s : State} (hf : s.frozen = true) (h : ∀ d ∈ s.agenda, d.what.servedFrozen ≠ true) :
    step s = .fault .frozen := by
  have hnone : s.agenda.find? (fun d => d.what.servedFrozen) = none := List.find?_eq_none.mpr h
  rw [step, if_pos hf, hnone]

/-- A frozen machine serves the first of its agenda that it may, and takes it off. -/
theorem step_frozen_of_first {s : State} {before after : List Due} {d : Due} (hf : s.frozen = true)
    (ha : s.agenda = before ++ d :: after) (hb : ∀ e ∈ before, e.what.servedFrozen ≠ true) (hd : d.what.servedFrozen = true) :
    step s = runDue d { s with agenda := before ++ after } := by
  have hfirst : s.agenda.find? (fun d => d.what.servedFrozen) = some d := by
    rw [ha, List.find?_append, List.find?_eq_none.mpr hb, Option.none_or]
    exact List.find?_cons_of_pos (p := fun e : Due => e.what.servedFrozen) hd
  have hnot : d ∉ before := fun h => hb d h hd
  have herase : s.agenda.erase d = before ++ after := by
    rw [ha, List.erase_append_right _ hnot, List.erase_cons_head]
  rw [step, if_pos hf, hfirst]
  simp only [herase]

/-- A read over the management path adds one answer, and leaves the rest. -/
theorem execManagementPathRead_frame (s : State) :
    ∃ t, execManagementPathRead s = .next t ∧ t = { s with answers := t.answers } :=
  ⟨_, rfl, rfl⟩

end Sys2Proof.Machine
end

section
/-! PROOFS. The obligation of what stops the machine. -/

open Sys2Proof Sys2Proof.Machine

/-- Settles O50. -/
theorem stopsAndFreeze : Obligations.StopsAndFreeze := by
  refine ⟨fun i s => (exec_answers i s).exists, fun s => (step_answers_or_stops s).imp_left AnswersNext.exists, fun s hf => ?_⟩
  simp only [← Todo.servedFrozen_iff]
  refine ⟨step_frozen_of_none hf, fun before d after ha hb hd => ?_⟩
  have hstep := step_frozen_of_first hf ha hb hd
  refine ⟨fun i a hi => ?_, fun a hi => ?_⟩
  · rw [hstep, runDue, hi]
  · rw [hstep, runDue, hi]
    exact execManagementPathRead_frame _

end

section
/-! PROOFS. The fields of a header and of a trap message, and the slot that an exact fault stops (R281, R370, R371). -/

namespace Sys2Proof.Machine

open Sys2Proof

theorem bits_ofNat {w hi lo : Nat} (x : Nat) (h : hi < w) (hl : lo ≤ hi) :
    bits (BitVec.ofNat w x).toNat hi lo = x / 2 ^ lo % 2 ^ (hi + 1 - lo) := by
  have hw : 2 ^ w = 2 ^ lo * 2 ^ (w - lo) := by rw [← pow_add, Nat.add_sub_cancel' (by omega)]
  rw [bits_eq, BitVec.toNat_ofNat, hw, Nat.mod_mul_right_div_self, Nat.mod_mod_of_dvd _ (Nat.pow_dvd_pow 2 (by omega))]

theorem mkHdr_toNat (kind : Nat) (long : Bool) (orig src tag len : Nat) : (mkHdr kind long orig src tag len).toNat =
    kind % 16 * 2 ^ 60 + (if long then 2 ^ 59 else 0) + orig % 4 * 2 ^ 56 + src % 2 ^ 24 * 2 ^ 32 + tag % 65536 * 65536 + len % 65536 := by
  rw [mkHdr, BitVec.toNat_ofNat, Nat.mod_eq_of_lt]
  split <;> omega

theorem mkHdr_kind (kind : Nat) (long : Bool) (orig src tag len : Nat) :
    (mkHdr kind long orig src tag len).toNat / 2 ^ 60 = kind % 16 := by
  rw [mkHdr_toNat]
  split <;> omega

theorem mkHdr_tag (kind : Nat) (long : Bool) (orig src tag len : Nat) :
    bits (mkHdr kind long orig src tag len).toNat 31 16 = tag % 65536 := by
  rw [bits_eq, mkHdr_toNat]
  split <;> omega

/-- The fields of R371's body: the slot, the index, the code and DETAIL. -/
theorem trapMsg_fields {g ctx code cls ix detail seq ring : Nat} {lost : Bool} (hcode : code < 256) (hcls : cls < 4) :
    let pay := (trapMsg g ctx code cls ix detail seq ring lost).pay.toNat
    bits pay 23 0 = g % 2 ^ 24 ∧ bits pay 63 56 = code ∧ bits pay 95 64 = ix % 2 ^ 32 ∧ bits pay 191 128 = detail % 2 ^ 64 := by
  have hlost : (if lost then 2 ^ 53 else 0) = (if lost then 1 else 0) * 2 ^ 53 := by cases lost <;> rfl
  have hbit : (if lost then 1 else 0) < 2 := by cases lost <;> decide
  simp only [trapMsg, hlost]
  generalize (if lost = true then 1 else 0) = b at hbit
  rw [bits_ofNat _ (by decide) (by decide), bits_ofNat _ (by decide) (by decide), bits_ofNat _ (by decide) (by decide),
    bits_ofNat _ (by decide) (by decide)]
  omega

theorem State.raise_me (s : State) (code detail : Nat) :
    (s.raise code detail).me = { s.me with st := .stopped code, due := none, trapped := some (s.exactMsg code detail) } := by
  have hstop : (s.stopped code detail).me =
      { s.me with st := .stopped code, due := none, trapped := some (s.exactMsg code detail) } :=
    s.slot_setSlot_busy s.cur (by simp)
  by_cases h : s.cur % 128 = 127
  · rw [State.raise_of_supervisor h]
    exact hstop
  · rw [State.raise_of_slot h]
    exact hstop

end Sys2Proof.Machine
end

section
/-! PROOFS. The obligation of exact faults. -/

open Sys2Proof Sys2Proof.Machine

/-- Settles O11: an exact fault leaves the stopped slot and its message. -/
theorem exactFaultStopsSlot : Obligations.ExactFaultStopsSlot := by
  intro s code detail hcode
  obtain ⟨hslot, hc, hix, hdet⟩ := trapMsg_fields (g := s.cur) (ctx := s.ctxOfSlot s.cur) (ix := s.me.pc.toNat) (detail := detail)
    (seq := 0) (ring := 0) (lost := false) hcode (show 0 < 4 by decide)
  refine ⟨s.exactMsg code detail, s.raise_me code detail, mkHdr_kind .., (mkHdr_tag ..).trans ?_, hslot, ?_, hc, hdet, ?_, ?_⟩
  · omega
  · exact hix.trans (Nat.mod_eq_of_lt s.me.pc.isLt)
  · intro h
    rw [s.raise_me code detail]
    exact State.raise_of_slot h code detail
  · intro h
    rw [State.raise_of_supervisor h]

end

section
/-! PROOFS. The items of a slot and the supervisor's instructions on a target (R383, R384). -/

namespace Sys2Proof.Machine

open Sys2Proof

theorem isSome_if_some {α : Type} {c : Prop} [Decidable c] (a : α) (o : Option α) :
    (if c then some a else o).isSome = true ↔ c ∨ o.isSome = true := by
  split <;> simp [*]

/-- The selectors of R384 that name an item. -/
theorem Slot.select_isSome_iff (y : Slot) (i : Nat) :
    (y.select i).isSome = true ↔ i < 0x57 ∨ (0x60 ≤ i ∧ i < 0x70) ∨ (0x80 ≤ i ∧ i < 0xC0) ∨ (0x1000 ≤ i ∧ i < 0x1800) := by
  unfold Slot.select
  dsimp only
  iterate 13 rw [isSome_if_some]
  simp only [Option.isSome_none, beq_iff_eq, Bool.and_eq_true, decide_eq_true_eq, Bool.false_eq_true, or_false]
  omega

/-- The selectors whose item takes a write. -/
theorem Slot.assign_isSome_iff (y : Slot) (i : Nat) (w : Word) :
    (y.assign i w).isSome = true ↔ i < 0x51 ∨ i = 0x52 ∨ i = 0x53 ∨ (0x1000 ≤ i ∧ i < 0x1800) := by
  unfold Slot.assign
  iterate 7 rw [isSome_if_some]
  simp only [Option.isSome_none, beq_iff_eq, Bool.and_eq_true, decide_eq_true_eq, Bool.false_eq_true, or_false]
  omega

section
variable {s : State} {x : Args} {fn : Nat} {self : Bool} {body : Nat → State → State}

theorem onTarget_elsewhere (h : (s.opVal x.b).toNat / 128 ≠ s.cur / 128) :
    onTarget fn x self body s = s.raise 0x0B (s.opVal x.b).toNat := by
  simp [onTarget, State.targetOk, h, fcSpace]

theorem onTarget_self (h : (s.opVal x.b).toNat = s.cur) :
    onTarget fn x false body s = s.raise 0x01 ((encWord 2 fn x).toNat / 2 ^ 32) := by
  simp [onTarget, State.targetOk, h, fcIllop, illopDetail]

theorem onTarget_other (h : (s.opVal x.b).toNat / 128 = s.cur / 128) (hs : self = true ∨ (s.opVal x.b).toNat ≠ s.cur) :
    onTarget fn x self body s = body (s.opVal x.b).toNat s := by
  rcases hs with rfl | hs <;> simp_all [onTarget, State.targetOk]

end

theorem slotrBody_item {x : Args} {s : State} {v : Word} (h : (s.opVal x.b).toNat / 128 = s.cur / 128)
    (hv : (s.slot (s.opVal x.b).toNat).select (s.opVal x.c).toNat = some v) :
    slotrBody x s = (s.writeA x (if (s.slot (s.opVal x.b).toNat).st.code = 0 then 0
      else if (s.slot (s.opVal x.b).toNat).st.code = 5 then (if s.opVal x.c = 0x51 then 5 else 0) else v)).advance := by
  have hsel : s.opVal x.c = 0x51 ↔ (s.opVal x.c).toNat = 0x51 := by
    rw [← BitVec.toNat_inj]
    rfl
  rw [slotrBody, onTarget_other h (.inl rfl)]
  simp only [hv, beq_iff_eq, hsel]

theorem slotrBody_unnamed {x : Args} {s : State} (h : (s.opVal x.b).toNat / 128 = s.cur / 128)
    (hv : (s.slot (s.opVal x.b).toNat).select (s.opVal x.c).toNat = none) :
    slotrBody x s = s.raise 0x01 ((encWord 2 0 x).toNat / 2 ^ 32) := by
  rw [slotrBody, onTarget_other h (.inl rfl)]
  simp only [hv]
  rfl

section
variable {x : Args} {s : State} (h : (s.opVal x.b).toNat / 128 = s.cur / 128) (hs : (s.opVal x.b).toNat ≠ s.cur)
include h hs

theorem slotwBody_item {z : Slot} (hst : (s.slot (s.opVal x.b).toNat).st.code = 3 ∨ (s.slot (s.opVal x.b).toNat).st.code = 4)
    (hz : (s.slot (s.opVal x.b).toNat).assign (s.opVal x.c).toNat (s.opVal x.a) = some z) :
    slotwBody x s = (s.setSlot (s.opVal x.b).toNat z).advance := by
  rw [slotwBody, onTarget_other h (.inr hs)]
  simp only [hz]
  rcases hst with hst | hst <;> rw [hst] <;> rfl

theorem slotwBody_refused (hbad : ((s.slot (s.opVal x.b).toNat).st.code ≠ 3 ∧ (s.slot (s.opVal x.b).toNat).st.code ≠ 4)
      ∨ (s.slot (s.opVal x.b).toNat).assign (s.opVal x.c).toNat (s.opVal x.a) = none) :
    slotwBody x s = s.raise 0x01 ((encWord 2 1 x).toNat / 2 ^ 32) := by
  rw [slotwBody, onTarget_other h (.inr hs)]
  rcases hbad with ⟨h3, h4⟩ | hnone
  · simp only [bne_iff_ne, Bool.and_eq_true, h3, h4, ne_eq, not_false_eq_true, and_self, if_true]
    rfl
  · simp only [hnone, ite_self]
    rfl

theorem slotgoBody_refused (hm : 2 < (s.opVal x.c).toNat) : slotgoBody x s = s.raise 0x01 ((encWord 2 2 x).toNat / 2 ^ 32) := by
  rw [slotgoBody, onTarget_other h (.inr hs)]
  exact if_pos hm

theorem slotgoBody_resumes (hm : (s.opVal x.c).toNat ≤ 2) : slotgoBody x s =
    ((if (s.slot (s.opVal x.b).toNat).st.code = 3 ∨ (s.slot (s.opVal x.b).toNat).st.code = 4
        then s.resumeSlot (s.opVal x.b).toNat (s.opVal x.c).toNat else s).writeA x
      (BitVec.ofNat 64 (s.slot (s.opVal x.b).toNat).st.code)).advance := by
  rw [slotgoBody, onTarget_other h (.inr hs)]
  simp only [if_neg (Nat.not_lt.mpr hm), Bool.or_eq_true, beq_iff_eq]

theorem slotstopBody_stops : slotstopBody x s =
    ((if (s.slot (s.opVal x.b).toNat).st.code = 1 ∨ (s.slot (s.opVal x.b).toNat).st.code = 2
        then s.setSlot (s.opVal x.b).toNat { s.slot (s.opVal x.b).toNat with st := .halted, due := none } else s).writeA x
      (BitVec.ofNat 64 (s.slot (s.opVal x.b).toNat).st.code)).advance := by
  rw [slotstopBody, onTarget_other h (.inr hs)]
  simp only [Bool.or_eq_true, beq_iff_eq]

end

end Sys2Proof.Machine
end

section
/-! PROOFS. The obligation of the supervisor's instructions. -/

open Sys2Proof Sys2Proof.Machine

/-- Settles O22. -/
theorem supervisorSlots : Obligations.SupervisorSlots := by
  intro x s r
  dsimp only
  have hread := Slot.select_isSome_iff (r.slot (r.opVal x.b).toNat) (r.opVal x.c).toNat
  have hwrite := Slot.assign_isSome_iff (r.slot (r.opVal x.b).toNat) (r.opVal x.c).toNat (r.opVal x.a)
  refine ⟨?_, fun h => ⟨?_, ?_, ?_, hread.mpr, hwrite.mpr, fun hs => ⟨?_, ?_, ?_, ?_, ?_⟩⟩⟩
  · intro p hp hb h
    simp only [List.mem_cons, List.not_mem_nil, or_false] at hp
    rcases hp with rfl | rfl | rfl | rfl
    all_goals exact (plain_begins _ hb).trans (congrArg _ (onTarget_elsewhere h))
  · exact fun v hb hv => (plain_begins _ hb).trans (congrArg _ (slotrBody_item h hv))
  · intro hself p hp hb
    simp only [List.mem_cons, List.not_mem_nil, or_false] at hp
    rcases hp with rfl | rfl | rfl
    all_goals exact (plain_begins _ hb).trans (congrArg _ (onTarget_self hself))
  · intro hb hnot
    have hnone := Option.not_isSome_iff_eq_none.mp (mt hread.mp hnot)
    exact (plain_begins _ hb).trans (congrArg _ (slotrBody_unnamed h hnone))
  · intro hb hbad
    have hrefused := hbad.imp_right (fun hnot => Option.not_isSome_iff_eq_none.mp (mt hwrite.mp hnot))
    exact (plain_begins _ hb).trans (congrArg _ (slotwBody_refused h hs hrefused))
  · exact fun hb hm => (plain_begins _ hb).trans (congrArg _ (slotgoBody_refused h hs hm))
  · exact fun z hb hst hz => (plain_begins _ hb).trans (congrArg _ (slotwBody_item h hs hst hz))
  · exact fun hb hm => (plain_begins _ hb).trans (congrArg _ (slotgoBody_resumes h hs hm))
  · exact fun hb => (plain_begins _ hb).trans (congrArg _ (slotstopBody_stops h hs))

end

section
/-! PROOFS. What the checks of R319 let go on. -/

namespace Sys2Proof.Machine

open Sys2Proof

/-- A crew access that passes the checks of R319 goes on as that access, in the crew's space. -/
theorem crewIssue_ready {off : Int} {n al : Nat} {mk : Nat → Access} {go : Access → State → State} {s : State}
    (h : s.crewReady off n al) : crewIssue off n al mk go s = go { mk off.toNat with space := .crew, slot := s.cur } s := by
  obtain ⟨h0, h1, h2, hmember, ha, hbanks⟩ := h
  have hin : crewInside off n := ⟨h0, h1, h2⟩
  rw [crewIssue, if_neg (crewInside_check hin)]
  dsimp only
  rw [crew_member hin, if_neg (Nat.not_le_of_lt hmember), if_neg (by simp [ha]), if_neg]
  rw [List.any_eq_true]
  rintro ⟨i, hi, hbank⟩
  exact absurd (hbank.symm.trans (hbanks i hi)) (by decide)

end Sys2Proof.Machine
end

section
/-! PROOFS. The obligation of crew accesses. -/

open Sys2Proof Sys2Proof.Machine

/-- Settles O33: each form's body is the access, checked by `crewIssue`. -/
theorem crewAccesses : Obligations.CrewAccesses := by
  intro x s r
  dsimp only
  refine ⟨fun hb h => ?_, fun hb h => ?_, fun hb h => ?_, fun hb h => ?_, fun p hp hb h => ?_⟩
  · exact (buffered_begins (ldcBody x) hb).trans (congrArg _ (by unfold ldcBody; exact crewIssue_ready h))
  · exact (plain_begins (stcBody x) hb).trans (congrArg _ (by unfold stcBody; exact crewIssue_ready h))
  · exact (buffered_begins (vldcBody x) hb).trans (congrArg Host.Outcome.next (crewIssue_ready h))
  · exact (plain_begins (vstcBody x) hb).trans (congrArg Host.Outcome.next (crewIssue_ready h))
  · simp only [List.mem_cons, List.not_mem_nil, or_false] at hp
    rcases hp with rfl | rfl | rfl | rfl | rfl | rfl | rfl | rfl | rfl | rfl | rfl | rfl
    all_goals exact (buffered_begins _ hb).trans (congrArg Host.Outcome.next (crewIssue_ready h))

end

section
/-! PROOFS. Requests of the combine control at issue (R395 to R397, R402). -/

namespace Sys2Proof.Machine

open Sys2Proof

theorem length_eraseDups_le {α : Type} [BEq α] [LawfulBEq α] (l : List α) : l.eraseDups.length ≤ l.length := by
  induction hn : l.length using Nat.strong_induction_on generalizing l with
  | _ n ih =>
    cases l with
    | nil => simp
    | cons a l =>
      rw [List.eraseDups_cons, List.length_cons]
      have hf := List.length_filter_le (fun b => !b == a) l
      have := ih _ (by simp only [List.length_cons] at hn; omega) (l.filter (fun b => !b == a)) rfl
      simp only [List.length_cons] at hn
      omega

/-- No entry is dropped exactly where none stands twice. -/
theorem length_eraseDups_eq_iff {α : Type} [BEq α] [LawfulBEq α] (l : List α) : l.eraseDups.length = l.length ↔ l.Nodup := by
  induction l with
  | nil => simp
  | cons a l ih =>
    have hf := List.length_filter_le (fun b => !b == a) l
    have hle := length_eraseDups_le (l.filter (fun b => !b == a))
    rw [List.eraseDups_cons, List.length_cons, List.length_cons, List.nodup_cons, ← ih]
    by_cases ha : a ∈ l
    · have hlt : (l.filter (fun b => !b == a)).length < l.length := by
        refine lt_of_le_of_ne hf fun h => ?_
        simpa using List.length_filter_eq_length_iff.mp h a ha
      simp only [ha, not_true_eq_false, false_and, iff_false]
      omega
    · have hall : l.filter (fun b => !b == a) = l :=
        List.filter_eq_self.mpr fun b hb => by simpa using fun (h : b = a) => ha (h ▸ hb)
      simp [ha, hall]

/-- A control request leaves as what the claim writes out. -/
theorem ctlIssue_sent (fn kind : Nat) (x : Args) (w : List Word) (gates : VReg) (stop : Nat) (s : State) :
    ctlIssue 0xC1 fn kind x w gates stop s = Claims.controlSent s fn kind x w gates stop := rfl

/-- The operands of `cbq` that R395 accepts. -/
def cbqSound (w0 w1 w2 : Nat) : Prop :=
  w0 / 2 ^ 29 = 0 ∧ w0 / 2 ^ 21 % 8 = 0 ∧ w0 / 2 ^ 9 % 128 = 0 ∧ w0 / 2 ^ 6 % 4 = 0 ∧ w1 < 2 ^ 32 ∧ w2 < 2 ^ 24
    ∧ 10 ≤ w0 / 2 ^ 16 % 32 ∧ w0 / 2 ^ 16 % 32 ≤ 12 ∧ (w0 / 2 ^ 24 % 32 = 0 ∨ w0 / 2 ^ 24 % 32 = 11 ∨ w0 / 2 ^ 24 % 32 = 12)
    ∧ (w0 / 2 ^ 24 % 32 = 0 → w0 / 2 ^ 16 % 32 ≠ 10)

/-- The model's test of them. -/
def cbqBad (w0 w1 w2 : Nat) : Bool :=
  w0 / 2 ^ 29 != 0 || bits w0 23 21 != 0 || bits w0 15 9 != 0 || bits w0 7 6 != 0 || w1 / 2 ^ 32 != 0 || w2 / 2 ^ 24 != 0
    || bits w0 20 16 < 10 || 12 < bits w0 20 16 || (bits w0 28 24 != 0 && bits w0 28 24 != 11 && bits w0 28 24 != 12)
    || (bits w0 28 24 == 0 && bits w0 20 16 == 10)

theorem cbqBad_iff {w0 w1 w2 : Nat} : cbqBad w0 w1 w2 = true ↔ ¬cbqSound w0 w1 w2 := by
  simp only [cbqBad, cbqSound, bits_eq, Bool.or_eq_true, Bool.and_eq_true, bne_iff_ne, beq_iff_eq, decide_eq_true_eq]
  norm_num only
  omega

/-- The completion slot of a queue is one of a live mill of the issuer's die. -/
theorem cbq_elsewhere_iff {w2 cur live : Nat} (hw : w2 < 2 ^ 24) :
    (bits w2 23 15 != dieOf cur || decide (live ≤ bits w2 14 9)) = true ↔ ¬(w2 / 2 ^ 15 = cur / 32768 ∧ w2 / 2 ^ 9 % 64 < live) := by
  simp only [bits_eq, dieOf, Bool.or_eq_true, bne_iff_ne, decide_eq_true_eq]
  norm_num only
  omega

section
variable {x : Args} {s : State}

theorem cbqBody_unsound (h : ¬cbqSound (s.grp x.b 0).toNat (s.grp x.b 1).toNat (s.grp x.b 2).toNat) :
    cbqBody x s = s.raise 0x01 ((encWord 0xC1 0 x).toNat / 2 ^ 32) := if_pos (cbqBad_iff.mpr h)

variable (h : cbqSound (s.grp x.b 0).toNat (s.grp x.b 1).toNat (s.grp x.b 2).toNat)
include h

theorem cbqBody_elsewhere
    (he : ¬((s.grp x.b 2).toNat / 2 ^ 15 = s.cur / 32768 ∧ (s.grp x.b 2).toNat / 2 ^ 9 % 64 < s.part.liveMills)) :
    cbqBody x s = s.raise 0x0B (s.grp x.b 2).toNat := by
  have hw : (s.grp x.b 2).toNat < 2 ^ 24 := by
    unfold cbqSound at h
    omega
  exact (if_neg (not_imp_not.mpr cbqBad_iff.mp (not_not.mpr h))).trans (if_pos ((cbq_elsewhere_iff hw).mpr he))

theorem cbqBody_leaves
    (he : (s.grp x.b 2).toNat / 2 ^ 15 = s.cur / 32768 ∧ (s.grp x.b 2).toNat / 2 ^ 9 % 64 < s.part.liveMills) :
    cbqBody x s = Claims.controlSent s 0 0 x [s.grp x.b 0, s.grp x.b 1, s.grp x.b 2] 0 60 := by
  have hw : (s.grp x.b 2).toNat < 2 ^ 24 := by
    unfold cbqSound at h
    omega
  exact (if_neg (not_imp_not.mpr cbqBad_iff.mp (not_not.mpr h))).trans (if_neg (mt (cbq_elsewhere_iff hw).mp (not_not.mpr he)))

end

/-- The experts that the second word of `cbres` lists. -/
def cbresExperts (w0 w1 : Nat) : List Nat := (List.range (w0 / 2 ^ 8 % 16)).map (fun i => w1 / 2 ^ (8 * i) % 256)

/-- The operands of `cbres` that R396 accepts. -/
def cbresSound (w0 w1 : Nat) : Prop :=
  w0 / 2 ^ 12 % 16 = 0 ∧ w0 / 2 ^ 6 % 4 = 0 ∧ 1 ≤ w0 / 2 ^ 8 % 16 ∧ w0 / 2 ^ 8 % 16 ≤ 8 ∧ w1 < 2 ^ (8 * (w0 / 2 ^ 8 % 16))
    ∧ (cbresExperts w0 w1).Nodup

/-- The model's test of them. -/
def cbresBad (w0 w1 : Nat) : Bool :=
  bits w0 15 12 != 0 || bits w0 7 6 != 0 || bits w0 11 8 == 0 || 8 < bits w0 11 8 || w1 / 2 ^ (8 * bits w0 11 8) != 0
    || ((List.range (bits w0 11 8)).map (fun i => bits w1 (8 * i + 7) (8 * i))).eraseDups.length != bits w0 11 8

theorem cbresBad_iff {w0 w1 : Nat} : cbresBad w0 w1 = true ↔ ¬cbresSound w0 w1 := by
  have hk : bits w0 11 8 = w0 / 2 ^ 8 % 16 := bits_eq ..
  have hes : (List.range (bits w0 11 8)).map (fun i => bits w1 (8 * i + 7) (8 * i)) = cbresExperts w0 w1 := by
    rw [hk]
    refine List.map_congr_left fun i _ => ?_
    rw [bits_eq, show 8 * i + 7 + 1 - 8 * i = 8 by omega]
    rfl
  have hlen : (cbresExperts w0 w1).length = w0 / 2 ^ 8 % 16 := by simp [cbresExperts]
  have hdup : (cbresExperts w0 w1).eraseDups.length = w0 / 2 ^ 8 % 16 ↔ (cbresExperts w0 w1).Nodup := by
    rw [← length_eraseDups_eq_iff, hlen]
  have hlim : w1 / 2 ^ (8 * (w0 / 2 ^ 8 % 16)) = 0 ↔ w1 < 2 ^ (8 * (w0 / 2 ^ 8 % 16)) :=
    Nat.div_eq_zero_iff_lt (Nat.two_pow_pos _)
  rw [cbresBad, cbresSound, hes, hk, ← hdup, ← hlim]
  simp only [bits_eq, Bool.or_eq_true, bne_iff_ne, beq_iff_eq, decide_eq_true_eq]
  norm_num only
  omega

section
variable {x : Args} {s : State}

theorem cbresBody_unsound (h : ¬cbresSound (s.grp x.b 0).toNat (s.grp x.b 1).toNat) :
    cbresBody x s = s.raise 0x01 ((encWord 0xC1 1 x).toNat / 2 ^ 32) := if_pos (cbresBad_iff.mpr h)

variable (h : cbresSound (s.grp x.b 0).toNat (s.grp x.b 1).toNat)
include h

theorem cbresBody_sound : cbresBody x s =
    if 2 ^ 57 ≤ (s.grp x.b 2).toNat then s.raise 0x0B (s.grp x.b 2).toNat
    else if (s.grp x.b 2).toNat % 512 != 0 then s.raise 0x02 (s.grp x.b 2).toNat
    else Claims.controlSent s 1 1 x [s.grp x.b 0, s.grp x.b 1, s.grp x.b 2] (s.me.vreg x.c.idx) 60 :=
  if_neg (not_imp_not.mpr cbresBad_iff.mp (not_not.mpr h))

end

theorem cbstatBody_unsound {x : Args} {s : State} (h : 2 ^ 16 ≤ (s.opVal x.b).toNat) :
    cbstatBody x s = s.raise 0x01 ((encWord 0xC1 3 x).toNat / 2 ^ 32) := by
  refine if_pos (bne_iff_ne.mpr ?_)
  omega

theorem cbstatBody_leaves {x : Args} {s : State} (h : (s.opVal x.b).toNat < 2 ^ 16) :
    cbstatBody x s = Claims.controlSent s 3 2 x [s.opVal x.b] 0 ((s.opVal x.b).toNat / 2 ^ 5 % 64) := by
  have hstop : bits (s.opVal x.b).toNat 10 5 = (s.opVal x.b).toNat / 2 ^ 5 % 64 := bits_eq ..
  rw [← hstop]
  refine if_neg (mt bne_iff_ne.mp (not_not.mpr ?_))
  omega

theorem cbputBody_unsound {x : Args} {s : State} (h : 2 ^ 24 ≤ (s.opVal x.b).toNat) :
    cbputBody x s = s.raise 0x01 ((encWord 0xC1 2 x).toNat / 2 ^ 32) := by
  refine if_pos (bne_iff_ne.mpr ?_)
  omega

end Sys2Proof.Machine
end

section
/-! PROOFS. The obligation of combine control at issue. -/

open Sys2Proof Sys2Proof.Machine

theorem queueRequests_hold : Claims.QueueRequests := by
  intro x s r w0 w1 w2
  refine ⟨fun hb => ?_, fun hb => ?_⟩
  · have he : exec (.cbq x) s = .next (cbqBody x r) := buffered_begins (cbqBody x) hb
    rw [he]
    exact ⟨fun h => congrArg _ (cbqBody_unsound h), fun h h' => congrArg _ (cbqBody_elsewhere h h'),
      fun h h' => congrArg _ (cbqBody_leaves h h')⟩
  · have he : exec (.cbres x) s = .next (cbresBody x r) := buffered_begins (cbresBody x) hb
    rw [he]
    refine ⟨fun h => congrArg _ (cbresBody_unsound h), fun h hs => congrArg _ ((cbresBody_sound h).trans (if_pos hs)),
      fun h hs ha => congrArg _ ((cbresBody_sound h).trans ?_), fun h hs ha => congrArg _ ((cbresBody_sound h).trans ?_)⟩
    · exact (if_neg (Nat.not_le_of_lt hs)).trans (if_pos (bne_iff_ne.mpr ha))
    · exact (if_neg (Nat.not_le_of_lt hs)).trans (if_neg (mt bne_iff_ne.mp (not_not.mpr ha)))

theorem slotRequests_hold : Claims.SlotRequests := by
  intro x s r v
  refine ⟨fun hb => ?_, fun hb => ?_⟩
  · have he : exec (.cbstat x) s = .next (cbstatBody x r) := buffered_begins (cbstatBody x) hb
    rw [he]
    exact ⟨fun h => congrArg _ (cbstatBody_leaves h), fun h => congrArg _ (cbstatBody_unsound h)⟩
  · have he : exec (.cbput x) s = .next (cbputBody x r) := buffered_begins (cbputBody x) hb
    rw [he]
    refine ⟨fun h => congrArg _ (cbputBody_unsound h), fun h hready => congrArg _ ?_⟩
    refine (if_neg (mt bne_iff_ne.mp (not_not.mpr ?_))).trans (pondIssue_ready hready)
    omega

/-- Settles O43. -/
theorem combineControl : Obligations.CombineControl := ⟨queueRequests_hold, slotRequests_hold⟩

end

section
/-! PROOFS. A graph that is unloaded while a merge of its group awaits its rank (R409, R415). -/

namespace Sys2Proof.Machine

open Sys2Proof

/-- Slot 0 is to unload handle 0, a graph of the one rank 0; a merge of its group has ended, and rank 0 is to take it yet. -/
def unloading : State :=
  { State.reset with
    slots := [(0, { st := .running, thread := 1, s := [(1, 2 ^ 63)] })]
    contexts := [(0, { record := BitVec.ofNat 512 (63 * 2 ^ 256) })]
    dies := [(0, { graphs := [(0, { ranks := [7] })] })]
    merges := [(1, { table := [7], ranks := [0], takers := [0], st := 1 })] }

/-- `cgload` of s1, its status to s2. -/
def unloadArgs : Args := .always (.reg .s 0 2) (.reg .s 0 1) (.none 0)

/-- The merges that a result keeps. -/
def mergesOf : Result → Tab Merge
  | .next s => s.merges
  | _ => []

theorem unloading_begins : unloading.begins 0xC0 0 unloadArgs true false = some unloading := by
  have h : (unloading.accepted 0xC0 0 unloadArgs && unloading.guard unloadArgs) = true := by decide +kernel
  rw [State.begins, if_pos h]
  rfl

end Sys2Proof.Machine
end

section
/-! PROOFS. The obligation of the windrose's commands. -/

open Sys2Proof Sys2Proof.Machine

/-- Refutes O44: the clause of an unloaded graph leaves the merges alone, and where the last graph of a rank goes, the merges of its
group that have ended no longer await the rank (log 58): the one of `unloading` is gone. -/
theorem not_windroseCommands : ¬ Obligations.WindroseCommands := by
  unfold Obligations.WindroseCommands
  rintro ⟨hloads, -, -⟩
  obtain ⟨-, -, -, -, hunload⟩ := hloads unloadArgs unloading unloading unloading_begins
  have hmodel : mergesOf (exec (.cgloadUnload unloadArgs) unloading) = [] := by decide +kernel
  rw [hunload] at hmodel
  exact absurd hmodel (by decide +kernel)

end

section
/-! PROOFS. Receives, spawn, launch and the binding table at issue (R305, R307, R308, R313, R314, R317, R318). -/

namespace Sys2Proof.Machine

open Sys2Proof

theorem recvJobBody_eq (x : Args) (s : State) : recvJobBody x s = ((({ s with uid := s.uid + 1 } : State).takeEntry
    { uid := s.uid, form := .job ((s.opVal x.b).toNat % 2 ^ 21), writes := regS x }).claims s.cur).advance := by
  have hoff : bits (s.opVal x.b).toNat 20 0 = (s.opVal x.b).toNat % 2 ^ 21 := by rw [bits_eq, Nat.pow_zero, Nat.div_one]
  rw [← hoff]
  rfl

/-- `recv.work` adds no second entry to one that still waits. -/
theorem recvWorkBody_eq (x : Args) (s : State) : recvWorkBody x s =
    ((if s.me.rb.any (fun e => e.form == .work && !e.landed) then s
      else ({ s with uid := s.uid + 1 } : State).takeEntry { uid := s.uid, form := .work, writes := regS x }).park s.cur .recvWork).post
        s.cycle 3 900 .dispenserHandout [s.cur / 128] := by
  rw [recvWorkBody]
  dsimp only
  split <;> rfl

/-- The number of a crew member in a target of `spawn`. -/
theorem spawn_member (t : Nat) : bits t 37 34 = t / 2 ^ 34 % 16 := bits_eq ..

section
variable {x : Args} {s : State} (h : (s.opVal x.c).toNat / 2 ^ 38 = 0)
include h

theorem spawnBody_out (hk : s.crewN ≤ (s.opVal x.c).toNat / 2 ^ 34 % 16) :
    spawnBody x s = s.raise 0x07 ((s.opVal x.c).toNat / 2 ^ 34 % 16) := by
  rw [← spawn_member] at hk ⊢
  exact (if_neg (mt bne_iff_ne.mp (not_not.mpr h))).trans (if_pos hk)

theorem spawnBody_sends (hk : (s.opVal x.c).toNat / 2 ^ 34 % 16 < s.crewN) :
    let t := (s.opVal x.c).toNat
    let c := s.memberMill (s.cur / 512) (t / 2 ^ 34 % 16) * 4 + t / 2 ^ 32 % 4
    let pay := (List.range 8).foldl (fun p i => p + (s.grp x.b i).toNat * 2 ^ (64 * (i + 1))) (t % 2 ^ 32)
    let s1 := ({ s with uid := s.uid + 1 } : State).takeEntry { uid := s.uid, form := .status, writes := regS x }
    spawnBody x s = (({ s1 with uid := s.uid + 2 }.setSent (s.uid + 1)
      { msg := { hdr := mkHdr 1 true 0 s.cur 0 72, pay := BitVec.ofNat 960 pay, uid := s.uid + 1 }, dest := .dispenser c,
        reply := some (s.cur, s.uid), launch := s1.me.launch, task := s1.me.task }).routeMsg (s.uid + 1) s.cur).advance := by
  intro t c pay s1
  have hcluster : bits t 33 32 = t / 2 ^ 32 % 4 := bits_eq ..
  have hentry : bits t 31 0 = t % 2 ^ 32 := by rw [bits_eq, Nat.pow_zero, Nat.div_one]
  simp only [c, pay, ← spawn_member, ← hcluster, ← hentry]
  rw [← spawn_member] at hk
  exact (if_neg (mt bne_iff_ne.mp (not_not.mpr h))).trans (if_neg (Nat.not_le.mpr hk))

end

section
variable {x : Args} {s : State}

theorem launchBody_space (h : 2 ^ 57 ≤ (s.opVal x.b).toNat ∨ 8 ≤ (s.opVal x.c).toNat) :
    launchBody x s = s.raise 0x0B (s.opVal x.b).toNat := if_pos (by simpa using h)

variable (hva : (s.opVal x.b).toNat < 2 ^ 57) (hdie : (s.opVal x.c).toNat < 8)
include hva hdie

theorem launch_inside : ¬(decide (2 ^ 57 ≤ (s.opVal x.b).toNat) || decide (8 ≤ (s.opVal x.c).toNat)) = true := by
  simp only [Bool.or_eq_true, decide_eq_true_eq]
  omega

theorem launchBody_align (ha : (s.opVal x.b).toNat % 64 ≠ 0) : launchBody x s = s.raise 0x02 (s.opVal x.b).toNat :=
  (if_neg (launch_inside hva hdie)).trans (if_pos (bne_iff_ne.mpr ha))

theorem launchBody_sends (ha : (s.opVal x.b).toNat % 64 = 0) :
    let a := ({ kind := .launchRec, slot := s.cur, uid := s.uid, addr := (s.opVal x.b).toNat, span := 64, aux := s.uid + 1 } : Access)
    let s1 := ({ s with uid := s.uid + 2 } : State).takeEntry { uid := s.uid, form := .status, writes := regS x, acc := some a }
    launchBody x s = ((s1.setSent (s.uid + 1)
      { msg := { hdr := mkHdr 5 true 0 s.cur 0 64, uid := s.uid + 1 }, dest := .dispatcher (s.opVal x.c).toNat (s1.ctxOfSlot s.cur),
        reply := some (s.cur, s.uid), thread := s1.me.thread, by_ := s1.me.thread }).issueAccess a).advance :=
  (if_neg (launch_inside hva hdie)).trans (if_neg (mt bne_iff_ne.mp (not_not.mpr ha)))

end

/-! The binding table. -/

/-- The object, range and scope that R307 accepts. -/
def bindSound (obj start len scope : Nat) : Prop :=
  (if obj.testBit 63 then obj / 2 ^ 40 % 2 ^ 23 = 0 else obj / 2 ^ 57 % 2 ^ 6 = 0) ∧ 2 ≤ scope ∧ scope ≤ 7
    ∧ start % 64 = 0 ∧ len % 64 = 0 ∧ len ≠ 0 ∧ start + len ≤ 2 ^ 57

/-- With operands that R307 accepts, what remains is the access of the table: its fault, or the effect. -/
theorem bindCheck_sound {op : Nat} {x : Args} {f : Nat → Nat → Nat → Nat → State → State} {s : State}
    (h : bindSound (s.grp x.b 0).toNat (s.grp x.b 1).toNat (s.grp x.b 2).toNat x.c.immInt.toNat) : bindCheck op x f s =
    match s.bindFault (s.launchOfSlot s.cur) true with
    | some e =>
      ((({ s with uid := s.uid + 1 } : State).bindRecord
        { kind := .bind op, slot := s.cur, uid := s.uid, ix := s.me.pc.toNat, addr := e.2, ctx := s.ctxOfSlot s.cur, thread := s.me.thread
          data := BitVec.ofNat 4096 (bindBits (s.grp x.b 0).toNat (s.grp x.b 1).toNat (s.grp x.b 2).toNat x.c.immInt.toNat) }
        (regS x) e).advance).useBinds
    | none => f (s.grp x.b 0).toNat (s.grp x.b 1).toNat (s.grp x.b 2).toNat x.c.immInt.toNat s := by
  obtain ⟨hobj, hlo, hhi, hstart, hlen, hne, hend⟩ := h
  have hreserved : (if (s.grp x.b 0).toNat.testBit 63 then bits (s.grp x.b 0).toNat 62 40 != 0
      else bits (s.grp x.b 0).toNat 62 57 != 0) = false := by
    simp only [bits_eq]
    split at hobj <;> simp_all
  rw [bindCheck]
  dsimp only
  rw [hreserved, if_neg (by simp; omega), if_neg (by simp [hstart, hlen, hne]; omega)]
  cases s.bindFault (s.launchOfSlot s.cur) true <;> rfl

/-- The lowest free slot of the table takes the entry. -/
theorem State.bindIn_free {s : State} {i : Nat} (obj start len scope : Nat) (hi : i < 256)
    (hfree : (s.bindEntry (s.launchOfSlot s.cur) i).testBit 255 = false)
    (hlow : ∀ j, j < i → (s.bindEntry (s.launchOfSlot s.cur) j).testBit 255 = true) :
    s.bindIn obj start len scope = (0, s.setBind (s.launchOfSlot s.cur) i (bindBits obj start len scope)) := by
  have hfind : (List.range 256).find? (fun i => !(s.bindEntry (s.launchOfSlot s.cur) i).testBit 255) = some i :=
    List.find?_range_eq_some.mpr ⟨by simp [hfree], List.mem_range.mpr hi, fun j hj => by simp [hlow j hj]⟩
  rw [State.bindIn]
  simp only [hfind]

theorem State.bindIn_full {s : State} (obj start len scope : Nat)
    (h : ∀ i, i < 256 → (s.bindEntry (s.launchOfSlot s.cur) i).testBit 255 = true) : s.bindIn obj start len scope = (2, s) := by
  have hfind : (List.range 256).find? (fun i => !(s.bindEntry (s.launchOfSlot s.cur) i).testBit 255) = none :=
    List.find?_eq_none.mpr fun i hi => by simp [h i (List.mem_range.mp hi)]
  rw [State.bindIn]
  simp only [hfind]

/-- `bind` with operands that R307 accepts, of a table that its core reaches. -/
theorem bindBody_reached {x : Args} {s : State} {r : Word × State}
    (h : bindSound (s.grp x.b 0).toNat (s.grp x.b 1).toNat (s.grp x.b 2).toNat x.c.immInt.toNat)
    (hf : s.bindFault (s.launchOfSlot s.cur) true = none)
    (hr : s.bindIn (s.grp x.b 0).toNat (s.grp x.b 1).toNat (s.grp x.b 2).toNat x.c.immInt.toNat = r) :
    bindBody x s = (r.2.writeA x r.1).advance.useBinds := by
  rw [bindBody, bindCheck_sound h, hf, ← hr]

end Sys2Proof.Machine
end

section
/-! PROOFS. The obligations of receives, of spawn and launch, and of the binding table. -/

open Sys2Proof Sys2Proof.Machine

/-- Settles O37. -/
theorem receives : Obligations.Receives := by
  intro x s r fresh
  refine ⟨fun hb => ?_, fun hb => ?_, fun hb => ?_, fun hb => ?_⟩
  · exact buffered_begins (recvMbBody x) hb
  · exact (buffered_begins (recvJobBody x) hb).trans (congrArg _ (recvJobBody_eq x r))
  · exact buffered_begins (probeBody x) hb
  · exact congrArg Host.Outcome.next ((State.issue_begins (recvWorkBody x) hb).trans (recvWorkBody_eq x r))

/-- Settles O39. -/
theorem spawnAndLaunch : Obligations.SpawnAndLaunch := by
  intro x s r t va fresh
  refine ⟨fun hb => ?_, fun hb => ?_⟩
  · have he : exec (.spawn x) s = .next (spawnBody x r) := buffered_begins (spawnBody x) hb
    rw [he]
    exact ⟨fun h hk => congrArg _ (spawnBody_out h hk), fun h hk => congrArg _ (spawnBody_sends h hk)⟩
  · have he : exec (.launch x) s = .next (launchBody x r) := buffered_begins (launchBody x) hb
    rw [he]
    exact ⟨fun h => congrArg _ (launchBody_space h), fun hva hdie ha => congrArg _ (launchBody_align hva hdie ha),
      fun hva hdie ha => congrArg _ (launchBody_sends hva hdie ha)⟩

/-- Settles O35. -/
theorem bindings : Obligations.Bindings := by
  intro x s r obj start len scope l hobj hlo hhi hstart hlen hne hend
  have hsound : bindSound obj start len scope := ⟨hobj, hlo, hhi, hstart, hlen, hne, hend⟩
  refine ⟨fun f hf p hp hb => ?_, fun hf hb => ⟨fun i hi hfree hlow => ?_, fun hfull => ?_⟩, fun hf hb => ?_⟩
  · simp only [List.mem_cons, List.not_mem_nil, or_false] at hp
    rcases hp with rfl | rfl
    · refine (plain_begins (bindBody x) hb).trans (congrArg _ ((bindCheck_sound hsound).trans ?_))
      rw [hf]
      rfl
    · refine (plain_begins (unbindBody x) hb).trans (congrArg _ ((bindCheck_sound hsound).trans ?_))
      rw [hf]
      rfl
  · refine (plain_begins (bindBody x) hb).trans (congrArg Host.Outcome.next ?_)
    rw [bindBody_reached hsound hf (State.bindIn_free obj start len scope hi hfree hlow)]
  · refine (plain_begins (bindBody x) hb).trans (congrArg Host.Outcome.next ?_)
    rw [bindBody_reached hsound hf (State.bindIn_full obj start len scope hfull)]
  · refine (plain_begins (unbindBody x) hb).trans (congrArg _ ((bindCheck_sound hsound).trans ?_))
    rw [hf]
    rfl

end

section
/-! PROOFS. A launch of a die that no part has, and a table of queues that lists one queue twice: states of the model in which clauses
of the launches' and of the combine buffer's events fail (R360, R400). -/

namespace Sys2Proof.Machine

open Sys2Proof

/-- The notice of launch 1 is due, which is for its context's host; the launch names die 8. -/
def noticeOfDie8 : State := { State.reset with arg := [1, 0, 0], launches := [(1, { die := 8 })] }

/-- The dies of the packets that a result holds. -/
def packetDies : Result → List Nat
  | .next s => s.net.packets.map (fun kp => kp.2.die)
  | _ => []

/-- A line of release 0 has been performed; queue 0 is listed twice, with releases 1 and 2, of which no line is left. -/
def queueListedTwice : State :=
  { State.reset with
    arg := [0]
    dies := [(0, { queues := [(0, { rels := [1] }), (0, { rels := [2] })] })] }

/-- How many messages a result holds. -/
def sentCount : Result → Nat
  | .next s => s.sents.length
  | _ => 0

end Sys2Proof.Machine
end

section
/-! PROOFS. The obligations of launches and tasks, and of the combine buffer and the windrose, as events. -/

open Sys2Proof Sys2Proof.Machine

/-- Refutes O57: the clause of a notice for the host sends it from the launch's die, whatever that is, where the model sends it from the
die that the message's header names, in three bits (R281): die 0 for a launch of die 8. -/
theorem not_launchEvents : ¬ Obligations.LaunchEvents := by
  unfold Obligations.LaunchEvents
  rintro ⟨-, -, hnotice, -⟩
  obtain ⟨hhost, -⟩ := hnotice noticeOfDie8 1 0 0 rfl
  have hmodel : packetDies (exec .launchNotice noticeOfDie8) = [0] := by decide +kernel
  rw [hhost rfl] at hmodel
  exact absurd hmodel (by decide +kernel)

/-- Refutes O60: the clause of a queue's only release sends one message, and asks of no table that it is in canonical form: where the
queue is listed twice, its second entry shows once the first is back at its default and gone, and the release there goes too. -/
theorem not_combineAndWindroseEvents : ¬ Obligations.CombineAndWindroseEvents := by
  unfold Obligations.CombineAndWindroseEvents
  rintro ⟨-, ⟨-, hrelease, -⟩, -⟩
  obtain ⟨-, hone, -⟩ := hrelease queueListedTwice 0 rfl
  have hmodel : sentCount (exec .combineRelease queueListedTwice) = 2 := by decide +kernel
  rw [hone 1 (by decide +kernel) (by decide +kernel)] at hmodel
  exact absurd hmodel (by decide +kernel)

end

section
/-! PROOFS. Session commands of the management path (R352, R353, R379). -/

namespace Sys2Proof.Machine

open Sys2Proof

theorem State.command_noSession {s : State} {node : Nat} {rest : List Nat} (ha : s.arg = node :: rest) (f : Nat → Nat → State)
    (hs : s.sessions.lookup node = none) : s.command f = s.sessionAnswer node (.failed .noSession) := by
  rw [State.command, State.arg_one ha]
  simp only [hs]

section
variable {s : State} {node iv tag bytes ct : Nat} (ha : s.arg = [node, iv, tag, bytes, ct]) (f : Nat → Nat → State)
  {key : BitVec 256} (hs : s.sessions.lookup node = some key)
include ha hs

theorem State.command_notAuthentic (ho : gcmOpen key iv bytes ct tag = none) :
    s.command f = s.sessionAnswer node (.failed .notAuthentic) := by
  simp only [State.command, ha, List.headD_cons, List.getD_cons_zero, List.getD_cons_succ, hs, ho]

/-- A command that is authentic is carried out on its plaintext. -/
theorem State.command_authentic {x : Nat} (ho : gcmOpen key iv bytes ct tag = some x) : s.command f = f node x := by
  simp only [State.command, ha, List.headD_cons, List.getD_cons_zero, List.getD_cons_succ, hs, ho]

end

theorem bool_not_iff_false (b : Bool) : (!b) = true ↔ b = false := by simp

/-- The number of a key in LOADKEY. -/
theorem loadkey_number (x : Nat) : bits x 23 8 = x / 2 ^ 8 % 2 ^ 16 := bits_eq ..

/-- What a quote covers, of the nonce that a QUOTE carries. -/
theorem State.quoteBody_nonce (s : State) (ctx x : Nat) : s.quoteBody ctx (bits x 263 8) =
    (Config.firmwareDigest s.fwRel).toNat + s.fwRel % 2 ^ 32 * 2 ^ 256 + featAdv0 * 2 ^ 288 + s.part.grade * 2 ^ 544
      + ctx * 2 ^ 552 + x / 2 ^ 8 % 2 ^ 256 * 2 ^ 560 := by
  have hnonce : bits x 263 8 % 2 ^ 256 = x / 2 ^ 8 % 2 ^ 256 := by rw [bits_eq, Nat.mod_mod]
  rw [State.quoteBody, hnonce]

section
variable {s : State} {node iv tag bytes ct : Nat} (ha : s.arg = [node, iv, tag, bytes, ct])
include ha

theorem execDestroy_command : execDestroy s = .next (s.command (fun node x =>
    let u := s.switchOutAll (x % 256)
    let mine := (u.launches.filter (fun kl => kl.2.ctx == x % 256 && !kl.2.ended)).map (·.1)
    if !s.ctxExists (x % 256) then s.sessionAnswer node (.failed .noContext)
    else if mine.any (fun l => !(u.launchOf l).mills.isEmpty) then u.post (u.cycle + 8) 3 872 .destroy [node, x % 256]
    else (u.dropContext (x % 256) mine).sessionAnswer node .done)) := by
  simp only [execDestroy, ha]

variable {key : BitVec 256} (hs : s.sessions.lookup node = some key) {x : Nat} (ho : gcmOpen key iv bytes ct tag = some x)
include hs ho

theorem execCreate_authentic : execCreate s = .next (
    let r : Line := BitVec.ofNat 512 x
    let c := fieldOf r 255 248
    if fieldOf r 511 256 / 2 ^ 6 ≠ 0 ∨ r.getLsbD 256 = false then s.sessionAnswer node (.failed .features)
    else if 256 ≤ ((List.range 256).filter s.ctxExists).length then s.sessionAnswer node (.failed .full)
    else if s.ctxExists c = true then s.sessionAnswer node (.failed .taken)
    else (({ s with contexts := tput {} s.contexts c { record := r } }).keepRecord c r).sessionAnswer node .done) := by
  rw [execCreate, State.command_authentic ha _ hs ho]
  simp only [Bool.or_eq_true, bne_iff_ne, bool_not_iff_false]

theorem execDestroy_authentic : execDestroy s = .next (
    let u := s.switchOutAll (x % 256)
    let mine := (u.launches.filter (fun kl => kl.2.ctx == x % 256 && !kl.2.ended)).map (·.1)
    if s.ctxExists (x % 256) = false then s.sessionAnswer node (.failed .noContext)
    else if mine.any (fun l => !(u.launchOf l).mills.isEmpty) then u.post (u.cycle + 8) 3 872 .destroy [node, x % 256]
    else (u.dropContext (x % 256) mine).sessionAnswer node .done) := by
  rw [execDestroy_command ha, State.command_authentic ha _ hs ho]
  simp only [bool_not_iff_false]

theorem execLoadkey_authentic : execLoadkey s = .next (
    if s.ctxExists (x % 256) = false then s.sessionAnswer node (.failed .noContext)
    else { s with contexts := tput {} s.contexts (x % 256) { s.context (x % 256) with
      keys := tput 0 (s.context (x % 256)).keys (x / 2 ^ 8 % 2 ^ 16) (BitVec.ofNat 512 (x / 2 ^ 24)) } }.sessionAnswer node .done) := by
  rw [execLoadkey, State.command_authentic ha _ hs ho]
  simp only [bool_not_iff_false, loadkey_number]

theorem execQuote_authentic : execQuote s = .next (
    if s.ctxExists (x % 256) = false then s.sessionAnswer node (.failed .noContext)
    else
      let body := (Config.firmwareDigest s.fwRel).toNat + s.fwRel % 2 ^ 32 * 2 ^ 256 + featAdv0 * 2 ^ 288 + s.part.grade * 2 ^ 544
        + x % 256 * 2 ^ 552 + x / 2 ^ 8 % 2 ^ 256 * 2 ^ 560
      s.sessionAnswer node (.quote body (Config.attestationSign body) s.attestationCert s.identityCert)) := by
  rw [execQuote, State.command_authentic ha _ hs ho]
  simp only [bool_not_iff_false, State.quoteBody_nonce]

end

/-- Each command of a session is a `command` on its own plaintext. -/
theorem session_commands {s : State} {node iv tag bytes ct : Nat} (ha : s.arg = [node, iv, tag, bytes, ct]) {i : Instr}
    (hi : i ∈ ([.create, .destroy, .loadkey, .quote] : List Instr)) : ∃ f, exec i s = .next (s.command f) := by
  simp only [List.mem_cons, List.not_mem_nil, or_false] at hi
  obtain rfl | rfl | rfl | rfl := hi
  · exact ⟨_, rfl⟩
  · exact ⟨_, execDestroy_command ha⟩
  · exact ⟨_, rfl⟩
  · exact ⟨_, rfl⟩

theorem execDestroy_looksAgain {s : State} {node ctx : Nat} (ha : s.arg = [node, ctx]) : execDestroy s = .next (
    let mine := (s.launches.filter (fun kl => kl.2.ctx == ctx && !kl.2.ended)).map (·.1)
    if mine.any (fun l => !(s.launchOf l).mills.isEmpty) then s.post (s.cycle + 8) 3 872 .destroy [node, ctx]
    else (s.dropContext ctx mine).sessionAnswer node .done) := by
  simp only [execDestroy, ha]

theorem execAuthenticatedSession_eq {s : State} {node share : Nat} (ha : s.arg = [node, share]) :
    let a := Answer.session (Config.sessionHalf (BitVec.ofNat 12544 share)) (Config.identitySign (Config.sessionHalf (BitVec.ofNat 12544 share)))
    execAuthenticatedSession s = .next (({ s with sessions := tins s.sessions node (Config.sessionKey (BitVec.ofNat 12544 share)) }.manage
      node 0 a.text.1 0 0 a.text.2).answerTo node a) := by
  obtain ⟨hnode, hshare⟩ := State.arg_two ha
  rw [execAuthenticatedSession, hnode, hshare]

/-- What the management path reads: a line of the LLC, a set of an L1, a set of an L2, a slot, a mill, and a line of a pond. -/
theorem execManagementPathRead_reads (s : State) (u a : Nat) :
    (s.arg = [0, u, a] → execManagementPathRead s = .next (s.answerTo 4096 (.line (s.llcLine (a / 64) 0))))
    ∧ (s.arg = [1, u, a] → execManagementPathRead s = .next (s.answerTo 4096 (.cached (tget [] (s.core u).l1 (l1Set a)))))
    ∧ (s.arg = [2, u, a] → execManagementPathRead s = .next (s.answerTo 4096 (.cached (s.l2Lines u (l2Set a)))))
    ∧ (s.arg = [4, u, a] → execManagementPathRead s = .next (s.answerTo 4096 (.slot (s.slot u))))
    ∧ (s.arg = [7, u, a] → execManagementPathRead s = .next (s.answerTo 4096 (.mill (s.mill u))))
    ∧ (s.arg = [8, u, a] → execManagementPathRead s = .next (s.answerTo 4096
        (.line (BitVec.ofNat 512 (memRead s.pond (u * 2 ^ 21 + a / 64 * 64) 64))))) := by
  refine ⟨fun ha => ?_, fun ha => ?_, fun ha => ?_, fun ha => ?_, fun ha => ?_, fun ha => ?_⟩ <;>
    simp only [execManagementPathRead, ha, List.headD_cons, List.getD_cons_zero, List.getD_cons_succ]

end Sys2Proof.Machine
end

section
/-! PROOFS. The host's commands (R367, R373, R380, R383). -/

namespace Sys2Proof.Machine

open Sys2Proof

/-- PREEMPT takes a mask or a count, and not both. -/
theorem one_operand_iff (mask count : Nat) : ((mask == 0) != (count == 0)) = true ↔ (mask = 0 ↔ count ≠ 0) := by
  cases mask <;> cases count <;> simp

section
variable {s : State} {die ctx tag l mask count : Nat} (ha : s.arg = [die, ctx, tag, l, mask, count])
include ha

/-- PREEMPT with the crews that its operands name, which are some. -/
theorem execPreempt_vacates (hnames : s.names die ctx l = true) (hone : mask = 0 ↔ count ≠ 0)
    (hpick : (if mask ≠ 0 then (s.standing l).filter (fun q => mask.testBit q) else (s.standing l).take count) ≠ []) :
    execPreempt s = .next ((s.vacateAt l (if mask ≠ 0 then (s.standing l).filter (fun q => mask.testBit q) else (s.standing l).take count)
      (s.cycle / 32 * 32 + 32)).reply die ctx tag 1 true) := by
  have htest := (one_operand_iff mask count).mpr hone
  simp only [execPreempt, ha, hnames, htest, nextAt_round, bne_iff_ne, Bool.true_and, Bool.not_eq_true', List.isEmpty_eq_false_iff,
    if_pos hpick]

theorem execPreempt_refused (h : s.names die ctx l = false ∨ ¬(mask = 0 ↔ count ≠ 0)
      ∨ (if mask ≠ 0 then (s.standing l).filter (fun q => mask.testBit q) else (s.standing l).take count) = []) :
    execPreempt s = .next (s.reply die ctx tag 1 false) := by
  have hno : ¬(s.names die ctx l && ((mask == 0) != (count == 0))
      && !(if mask != 0 then (s.standing l).filter (fun q => mask.testBit q) else (s.standing l).take count).isEmpty) = true := by
    simp only [Bool.and_eq_true, Bool.not_eq_true', List.isEmpty_eq_false_iff]
    rintro ⟨⟨hnames, hone⟩, hpick⟩
    obtain hn | ho | hp := h
    · exact Bool.false_ne_true (hn.symm.trans hnames)
    · exact ho ((one_operand_iff ..).mp hone)
    · exact hpick (by simpa only [bne_iff_ne] using hp)
  simp only [execPreempt, ha]
  exact if_neg hno

end

section
variable {s : State} {die ctx tag : Nat}

theorem execSwitchout_eq (ha : s.arg = [die, ctx, tag]) :
    execSwitchout s = .next ((s.switchOutAll ctx).reply die ctx tag 2 true) := by
  simp only [execSwitchout, ha]

theorem execSwitchin_eq (ha : s.arg = [die, ctx, tag]) :
    execSwitchin s = .next (((List.range 8).foldl (fun (t : State) d => t.post t.cycle 3 860 .dispatch [d])
      { s with contexts := tput {} s.contexts ctx { s.context ctx with out := [] } }).reply die ctx tag 3 true) := by
  simp only [execSwitchin, ha]

/-- RESUME of a thread of the context that no supervisor runs: it goes on where it has stopped or faulted. -/
theorem execResume_goes {g mode : Nat} (ha : s.arg = [die, ctx, tag, g, mode]) (hmode : mode ≤ 2) (hg : g < 2 ^ 18)
    (hthread : (s.slot g).st.hasThread = true) (hsup : g % 128 ≠ 127) (hctx : s.ctxOfSlot g = ctx) :
    execResume s = .next ((if (s.slot g).st.code = 3 ∨ (s.slot g).st.code = 4 then s.resumeSlot g mode else s).reply die ctx tag 4 true) := by
  have hno : ¬(decide (2 < mode) || decide (2 ^ 18 ≤ g) || !(s.slot g).st.hasThread || isSupervisor g || s.ctxOfSlot g != ctx) = true := by
    simp only [hthread, hctx, isSupervisor, Bool.or_eq_true, decide_eq_true_eq, beq_iff_eq, bne_self_eq_false, Bool.not_true,
      Bool.false_eq_true, or_false]
    omega
  simp only [execResume, ha]
  rw [if_neg hno]
  simp only [Bool.or_eq_true, beq_iff_eq]

theorem execHandler_writes {fpol hslot : Nat} (ha : s.arg = [die, ctx, tag, fpol, hslot]) (hf : fpol ≤ 1) (hs : hslot < 2 ^ 24) :
    let r := setField (setField (s.context ctx).record 247 246 fpol) 245 222 hslot
    execHandler s = .next (({ s with contexts := tput {} s.contexts ctx { s.context ctx with record := r } }.keepRecord ctx r).reply
      die ctx tag 5 true) := by
  have hno : ¬(decide (1 < fpol) || decide (2 ^ 24 ≤ hslot)) = true := by
    simp only [Bool.or_eq_true, decide_eq_true_eq]
    omega
  simp only [execHandler, ha, if_neg hno]

theorem execKill_eq {l : Nat} (ha : s.arg = [die, ctx, tag, l]) : execKill s =
    .next (if s.names die ctx l then (s.killLaunch l).reply die ctx tag 6 true else s.reply die ctx tag 6 false) := by
  simp only [execKill, ha]
  split <;> rfl

end

/-! BUDGET and the waiting budget. -/

/-- When a launch's slice began: at the present cycle for a launch without one. -/
def State.sliceStart (s : State) (l : Nat) : Nat :=
  match (s.launchOf l).sliceEnd with | some e => e - 1024 * (s.launchOf l).slice | none => s.cycle

section
variable {s : State} {die ctx tag l wait slice : Nat} (ha : s.arg = [die, ctx, tag, l, wait, slice])
include ha

theorem execBudget_refused (h : s.names die ctx l = false ∨ 2 ^ 32 ≤ wait ∨ 2 ^ 32 ≤ slice) :
    execBudget s = .next (s.reply die ctx tag 7 false) := by
  have hno : (!s.names die ctx l || decide (2 ^ 32 ≤ wait) || decide (2 ^ 32 ≤ slice)) = true := by
    simpa only [Bool.or_eq_true, Bool.not_eq_true', decide_eq_true_eq, or_assoc] using h
  simp only [execBudget, ha, if_pos hno]

variable (hnames : s.names die ctx l = true) (hwait : wait < 2 ^ 32) (hslice : slice < 2 ^ 32)
include hnames hwait hslice

/-- A budget that is written: a launch without a slice, or without mills, has no end of one. -/
theorem execBudget_writes :
    let x := s.launchOf l
    let e := max s.cycle (s.sliceStart l + 1024 * slice)
    let record := setField (setField x.record 319 288 wait) 287 256 slice
    let u := if slice = 0 ∨ ¬x.mills ≠ [] then s.setLaunch l { x with record := record, sliceEnd := none, spent := false }
      else (s.setLaunch l { x with record := record, sliceEnd := some e, spent := false }).post e 3 890 .sliceExpiry [l]
    execBudget s = .next ((u.checkBudget l).reply die ctx tag 7 true) := by
  have hok : ¬(!s.names die ctx l || decide (2 ^ 32 ≤ wait) || decide (2 ^ 32 ≤ slice)) = true := by
    simp only [hnames, Bool.not_true, Bool.or_eq_true, decide_eq_true_eq, Bool.false_eq_true, false_or]
    omega
  have htest : ∀ b : Bool, (slice == 0 || !!b) = true ↔ slice = 0 ∨ b = true := by simp
  simp only [execBudget, ha, if_neg hok, State.sliceStart, htest, List.isEmpty_iff, ne_eq, not_not]
  by_cases h : slice = 0 ∨ (s.launchOf l).mills = []
  · simp only [if_pos h]
  · simp only [if_neg h] <;>
    rfl

end

/-- When a launch's waiting budget is spent: it runs, its threads have waited for it, and it has not been told. -/
theorem budget_spent_iff (x : Launch) (wait : Nat) :
    (!x.pending && !x.ended && !x.mills.isEmpty && wait != 0 && !x.spent && decide ((wait : Int) ≤ x.charged)) = true
      ↔ x.pending = false ∧ x.ended = false ∧ x.mills ≠ [] ∧ wait ≠ 0 ∧ x.spent = false ∧ (wait : Int) ≤ x.charged := by
  simp only [Bool.and_eq_true, Bool.not_eq_true', List.isEmpty_eq_false_iff, bne_iff_ne, decide_eq_true_eq, and_assoc, ne_eq]

theorem State.checkBudget_cases (u : State) (l : Nat) :
    let x := u.launchOf l
    let wait := fieldOf x.record 319 288 * 1024
    let spent := x.pending = false ∧ x.ended = false ∧ x.mills ≠ [] ∧ wait ≠ 0 ∧ x.spent = false ∧ (wait : Int) ≤ x.charged
    (spent → u.checkBudget l = (u.setLaunch l { x with spent := true }).stopContext x.die x.ctx) ∧ (¬spent → u.checkBudget l = u) := by
  intro x wait spent
  rw [State.checkBudget]
  exact ⟨fun h => if_pos ((budget_spent_iff ..).mpr h), fun h => if_neg (mt (budget_spent_iff ..).mp h)⟩

/-! VACATE. -/

section
variable {s : State} {l q : Nat} {ms : List Nat} (hms : ((s.launchOf l).crews[q]?).getD none = some ms)
include hms

theorem execVacate_begins (ha : s.arg = [l, q]) (hv : s.vacating l q = false) : execVacate s = .next (s.beginVacate l q ms) := by
  simp [execVacate, ha, hms, hv]

theorem execVacate_polls (ha : s.arg = [l, q, 1]) (hv : s.vacating l q = true) : execVacate s = .next (s.pollVacate l q ms) := by
  simp [execVacate, ha, hms, hv]

end

end Sys2Proof.Machine
end

section
/-! PROOFS. The end of a context (R353): what `dropContext` leaves of the launches, the dies and the save images. -/

namespace Sys2Proof.Machine

open Sys2Proof

/-! A write at the LLC stays in the LLC and in device memory. -/

/-- A state but for what a write at the LLC may change. -/
def State.apartLlc (s : State) : State := { s with llc := [], full := [], mem := [], saveAreas := [], hbmAttr := [] }

theorem State.llcFill_apartLlc (s : State) (line attr : Nat) : (s.llcFill line attr).apartLlc = s.apartLlc := by
  unfold State.llcFill
  split <;> rfl

theorem State.llcPut_apartLlc (s : State) (line attr : Nat) (data : Line) (mask : BitVec 64) :
    (s.llcPut line attr data mask).apartLlc = s.apartLlc := by
  unfold State.llcPut
  dsimp only
  split
  · exact State.llcFill_apartLlc s line attr
  · exact State.llcFill_apartLlc s line attr

theorem State.llcPoke_apartLlc (s : State) (pa attr n x : Nat) : (s.llcPoke pa attr n x).apartLlc = s.apartLlc := by
  induction n generalizing s pa x with
  | zero => rfl
  | succ n ih => exact (ih _ _ _).trans (State.llcPut_apartLlc ..)

theorem State.winStore_apartLlc (s : State) (w : BitVec 256) (k : Nat) (data : Line) :
    (s.winStore w k data).apartLlc = s.apartLlc := by
  unfold State.winStore
  dsimp only
  repeat' split
  all_goals simp only [State.llcPoke_apartLlc]

theorem State.llcEvict_apartLlc (s : State) (line : Nat) : (s.llcEvict line).apartLlc = s.apartLlc := by
  unfold State.llcEvict
  split
  · rfl
  · dsimp only
    split
    · rfl
    · split
      · exact State.winStore_apartLlc ..
      · rfl

theorem State.llcWrite_apartLlc (s : State) (line attr : Nat) (data : Line) (mask : BitVec 64) :
    (s.llcWrite line attr data mask).apartLlc = s.apartLlc := by
  rw [State.llcWrite, State.llcPut_apartLlc]
  induction s.aliasLines line generalizing s with
  | nil => rfl
  | cons b bs ih => exact (ih _).trans (State.llcEvict_apartLlc s b)

theorem State.keepRecord_apartLlc (s : State) (ctx : Nat) (r : Line) : (s.keepRecord ctx r).apartLlc = s.apartLlc :=
  State.llcWrite_apartLlc ..

/-! Entries of a table that are updated in turn. -/

/-- The entries `ks` of a table, each updated by `f`. -/
def Tab.updAll {α : Type} [DecidableEq α] (d : α) (f : α → α) (ks : List Nat) (t : Tab α) : Tab α :=
  ks.foldl (fun t k => tput d t k (f (tget d t k))) t

theorem tget_tput_of_update {α : Type} [DecidableEq α] {d : α} {f : α → α} {P : α → Prop} (hf : ∀ x, P (f x)) {t : Tab α}
    (w : Tab.wf d t = true) (k j : Nat) (h : j = k ∨ P (tget d t j)) : P (tget d (tput d t k (f (tget d t k))) j) := by
  by_cases hjk : j = k
  · rw [hjk, tget_tput_same d t k _ w]
    exact hf _
  · rw [tget_tput_other d t k j _ w hjk]
    exact h.resolve_left hjk

/-- What every update establishes holds of an entry that one of them updates, or that has it already. -/
theorem Tab.updAll_spec {α : Type} [DecidableEq α] {d : α} {f : α → α} {P : α → Prop} (hf : ∀ x, P (f x)) (ks : List Nat) {t : Tab α}
    (w : Tab.wf d t = true) (j : Nat) (h : j ∈ ks ∨ P (tget d t j)) : P (tget d (Tab.updAll d f ks t) j) := by
  induction ks generalizing t with
  | nil => exact h.resolve_left List.not_mem_nil
  | cons k ks ih =>
    refine ih (Tab.wf_tput d t k _ w) ?_
    by_cases hj : j ∈ ks
    · exact Or.inl hj
    · refine Or.inr (tget_tput_of_update hf w k j (h.imp_left fun hmem => ?_))
      exact (List.mem_cons.mp hmem).resolve_right hj

theorem State.foldl_updLaunch (s : State) (f : Launch → Launch) (ls : List Nat) :
    ls.foldl (fun s l => s.updLaunch l f) s = { s with launches := Tab.updAll {} f ls s.launches } := by
  induction ls generalizing s with
  | nil => rfl
  | cons l ls ih => exact ih _

theorem State.foldl_updDie (s : State) (f : Die → Die) (ds : List Nat) :
    ds.foldl (fun s d => s.updDie d f) s = { s with dies := Tab.updAll {} f ds s.dies } := by
  induction ds generalizing s with
  | nil => rfl
  | cons d ds ih => exact ih _

/-! A context that is dropped. -/

/-- A launch of a context that is dropped. -/
def Launch.dropped (x : Launch) : Launch := { x with ended := true, pending := false, spare := [], saved := [] }

/-- A die where a context's launches wait no more, and which keeps nothing for it. -/
def Die.without (y : Die) (ctx : Nat) (ls : List Nat) : Die :=
  { y with
    pool := y.pool.filter (fun l => !ls.contains l), boxes := tdel y.boxes ctx, boxAt := tdel y.boxAt ctx
    queues := y.queues.map (fun kq => (kq.1, if kq.2.ctx == some ctx then { kq.2 with ctx := none } else kq.2)) }

/-- Whether a save image is, by its number, one of some launches'. -/
def State.imageOf (s : State) (ls : List Nat) (img : Nat) : Bool :=
  ((s.saves.filter (fun ki => ls.contains ki.2.launch)).map (·.1)).contains img

theorem State.dropContext_apartLlc (s : State) (ctx : Nat) (ls : List Nat) : (s.dropContext ctx ls).apartLlc = { s.apartLlc with
    launches := Tab.updAll {} (fun x => x.dropped) ls s.launches
    dies := Tab.updAll {} (fun y => y.without ctx ls) (List.range 8) s.dies
    contexts := tdel s.contexts ctx
    saves := s.saves.filter (fun ki => !s.imageOf ls ki.1)
    savedSlots := s.savedSlots.filter (fun k => !s.imageOf ls k.2.1)
    copies := s.copies.filter (fun kc => !(ls.contains kc.2.launch))
    barriers := s.barriers.filter (fun kb => !ls.contains kb.2.launch) } := by
  rw [State.dropContext, State.keepRecord_apartLlc, State.foldl_updLaunch, State.foldl_updDie]
  simp only [Launch.dropped, Die.without, State.imageOf, State.apartLlc]

section
variable (s : State) (ctx : Nat) (ls : List Nat)

theorem State.dropContext_contexts : (s.dropContext ctx ls).contexts = tdel s.contexts ctx := by
  simpa only [State.apartLlc] using congrArg State.contexts (s.dropContext_apartLlc ctx ls)

theorem State.dropContext_pond : (s.dropContext ctx ls).pond = s.pond := by
  simpa only [State.apartLlc] using congrArg State.pond (s.dropContext_apartLlc ctx ls)

theorem State.dropContext_saves : (s.dropContext ctx ls).saves = s.saves.filter (fun ki => !s.imageOf ls ki.1) := by
  simpa only [State.apartLlc] using congrArg State.saves (s.dropContext_apartLlc ctx ls)

theorem State.dropContext_launches : (s.dropContext ctx ls).launches = Tab.updAll {} (fun x => x.dropped) ls s.launches := by
  simpa only [State.apartLlc] using congrArg State.launches (s.dropContext_apartLlc ctx ls)

theorem State.dropContext_dies :
    (s.dropContext ctx ls).dies = Tab.updAll {} (fun y => y.without ctx ls) (List.range 8) s.dies := by
  simpa only [State.apartLlc] using congrArg State.dies (s.dropContext_apartLlc ctx ls)

theorem State.imageOf_iff (img : Nat) : s.imageOf ls img = true ↔ ∃ k ∈ s.saves, k.2.launch ∈ ls ∧ k.1 = img := by
  simp only [State.imageOf, List.contains_iff_mem, List.mem_map, List.mem_filter, and_assoc]

theorem State.mem_dropContext_saves (k : Nat × SaveImage) :
    k ∈ (s.dropContext ctx ls).saves ↔ k ∈ s.saves ∧ ∀ j ∈ s.saves, j.1 = k.1 → j.2.launch ∉ ls := by
  rw [State.dropContext_saves, List.mem_filter, Bool.not_eq_true', ← Bool.not_eq_true, State.imageOf_iff]
  refine and_congr_right fun _ => ⟨fun h j hj hk hl => h ⟨j, hj, hl, hk⟩, fun h ⟨j, hj, hl, hk⟩ => h j hj hk hl⟩

theorem State.dropContext_launchOf (w : Tab.wf {} s.launches = true) (l : Nat) (hl : l ∈ ls) :
    let x := (s.dropContext ctx ls).launchOf l
    x.ended = true ∧ x.pending = false ∧ x.saved = [] := by
  dsimp only [State.launchOf]
  rw [State.dropContext_launches]
  exact Tab.updAll_spec (P := fun x : Launch => x.ended = true ∧ x.pending = false ∧ x.saved = []) (fun _ => ⟨rfl, rfl, rfl⟩) ls w l
    (Or.inl hl)

theorem State.dropContext_pool (w : Tab.wf {} s.dies = true) (d : Nat) (hd : d < 8) :
    ∀ l ∈ ((s.dropContext ctx ls).die d).pool, l ∉ ls := by
  rw [State.die, State.dropContext_dies]
  refine Tab.updAll_spec (P := fun y : Die => ∀ l ∈ y.pool, l ∉ ls) (fun y l hl => ?_) _ w d (Or.inl (List.mem_range.mpr hd))
  simpa using (List.mem_filter.mp hl).2

end

end Sys2Proof.Machine
end

section
/-! PROOFS. A restore takes no time: what it does to a mill, a copy unit or a slot leaves the clock alone, one lemma for each operation that
it uses. -/

namespace Sys2Proof.Machine

open Sys2Proof

/-- The cycle in which a state stands. -/
def State.clock (s : State) : Nat := s.cycle

/-- `simp` asks which update made the state whose clock is meant, and does not look inside it. -/
@[congr] theorem State.clock_congr (s : State) : s.clock = s.clock := (rfl)

/-- A record that keeps the cycle keeps the clock, whatever else it changes. -/
@[simp] theorem State.clock_update (s : State) {cur arg agenda frozen uid free part slots cores clusters mills dies slices net ports metAt reqs
      sents joins walks tiles copies controls rels runs links credits merges codeStores launches saves savedSlots vacates saveAreas barriers arrivals heldMsgs
      contexts sessions gathers mem pond llc fills hbmAttr unitBusy full feWait versions windows fabric ports_ poison corrected skyUnsync skyTime skyAt skyPpm
      skyErr fwRel tableGen hostOut answers} :
    State.clock ⟨s.cycle, cur, arg, agenda, frozen, uid, free, part, slots, cores, clusters, mills, dies, slices, net, ports, metAt, reqs, sents,
      joins, walks, tiles, copies, controls, rels, runs, links, credits, merges, codeStores, launches, saves, savedSlots, vacates, saveAreas,
      barriers, arrivals, heldMsgs, contexts, sessions, gathers, mem, pond, llc, fills, hbmAttr, unitBusy, full, feWait, versions, windows,
      fabric, ports_, poison, corrected, skyUnsync, skyTime, skyAt, skyPpm, skyErr, fwRel, tableGen, hostOut, answers⟩ = s.clock := (rfl)

@[simp] theorem State.clock_ite (c : Prop) [Decidable c] (s t : State) : (if c then s else t).clock = if c then s.clock else t.clock :=
  apply_ite State.clock c s t

@[simp] theorem State.clock_foldl {β : Type} (l : List β) (f : State → β → State) (s : State) (h : ∀ s b, (f s b).clock = s.clock) :
    (l.foldl f s).clock = s.clock := by
  induction l generalizing s with
  | nil => rfl
  | cons b l ih => exact (ih _).trans (h s b)

/-- A fold that carries the state beside something else leaves the clock alone where every step does. -/
theorem State.clock_foldl_acc {α β : Type} (p : α → State) (l : List β) (f : α → β → α) (a : α)
    (h : ∀ a b, (p (f a b)).clock = (p a).clock) : (p (l.foldl f a)).clock = (p a).clock := by
  induction l generalizing a with
  | nil => rfl
  | cons b l ih => exact (ih _).trans (h a b)

/-- The state beside a value that a function answers with. -/
theorem State.clock_of_snd {α : Type} {e : α × State} {a : α} {t : State} (h : e = (a, t)) : t.clock = e.2.clock := by rw [h]

@[simp] theorem State.setSlot_clock (s : State) (g : Nat) (x : Slot) : (s.setSlot g x).clock = s.clock := (rfl)

@[simp] theorem State.updSlot_clock (s : State) (g : Nat) (f : Slot → Slot) : (s.updSlot g f).clock = s.clock := (rfl)

@[simp] theorem State.setCore_clock (s : State) (c : Nat) (x : Core) : (s.setCore c x).clock = s.clock := (rfl)

@[simp] theorem State.setCluster_clock (s : State) (c : Nat) (x : Cluster) : (s.setCluster c x).clock = s.clock := (rfl)

@[simp] theorem State.updCluster_clock (s : State) (c : Nat) (f : Cluster → Cluster) : (s.updCluster c f).clock = s.clock := (rfl)

@[simp] theorem State.setMill_clock (s : State) (m : Nat) (x : Mill) : (s.setMill m x).clock = s.clock := (rfl)

@[simp] theorem State.updMill_clock (s : State) (m : Nat) (f : Mill → Mill) : (s.updMill m f).clock = s.clock := (rfl)

@[simp] theorem State.setReq_clock (s : State) (r : Nat) (x : GReq) : (s.setReq r x).clock = s.clock := (rfl)

@[simp] theorem State.setSent_clock (s : State) (m : Nat) (x : Sent) : (s.setSent m x).clock = s.clock := (rfl)

@[simp] theorem State.setCopy_clock (s : State) (c : Nat) (x : Copy) : (s.setCopy c x).clock = s.clock := (rfl)

@[simp] theorem State.setPort_clock (s : State) (p : Nat) (x : List PondReq) : (s.setPort p x).clock = s.clock := (rfl)

@[simp] theorem State.fresh_clock (s : State) : (s.fresh).2.clock = s.clock := (rfl)

@[simp] theorem State.post_clock (s : State) (at_ cls pri : Nat) (i : Instr) (arg : List Nat) :
    (s.post at_ cls pri i arg).clock = s.clock := (rfl)

@[simp] theorem State.turnAt_clock (s : State) (g t : Nat) : (s.turnAt g t).clock = s.clock := (rfl)

@[simp] theorem State.sendAt_clock (s : State) (t : Nat) (x : Sent) : (s.sendAt t x).clock = s.clock := (rfl)

@[simp] theorem State.reportFault_clock (s : State) (g t : Nat) (m : Msg) : (s.reportFault g t m).clock = s.clock := by
  unfold State.reportFault
  simp

@[simp] theorem State.lateFault_clock (s : State) (g0 code seq detail thread ctx : Nat) :
    (s.lateFault g0 code seq detail thread ctx).clock = s.clock := by
  unfold State.lateFault
  simp

@[simp] theorem State.updEntry_clock (s : State) (g uid : Nat) (f : Entry → Entry) : (s.updEntry g uid f).clock = s.clock := (rfl)

@[simp] theorem State.landAt_clock (s : State) (g uid t : Nat) : (s.landAt g uid t).clock = s.clock := (rfl)

@[simp] theorem State.faultEntry_clock (s : State) (g uid t code detail : Nat) : (s.faultEntry g uid t code detail).clock = s.clock := (rfl)

@[simp] theorem State.retryHeld_clock (s : State) (g : Nat) : (s.retryHeld g).clock = s.clock := by
  unfold State.retryHeld
  split <;> simp

@[simp] theorem State.setPacket_clock (s : State) (u : Nat) (p : Packet) : (s.setPacket u p).clock = s.clock := (rfl)

@[simp] theorem State.offer_clock (s : State) (die src dst lane len ready rank : Nat) (pl : Payload) :
    (s.offer die src dst lane len ready rank pl).clock = s.clock := by
  unfold State.offer
  simp

@[simp] theorem State.takeLink_clock (s : State) (a b len t : Nat) : (s.takeLink a b len t).2.clock = s.clock := (rfl)

@[simp] theorem State.offerTo_clock (s : State) (dieA src dieB dst lane len ready rank : Nat) (pl : Payload) :
    (s.offerTo dieA src dieB dst lane len ready rank pl).clock = s.clock := by
  unfold State.offerTo
  simp only [State.offer_clock]
  exact State.clock_foldl_acc (fun x : Nat × Nat × State => x.2.2) _ _ _ (fun a b => by simp)

@[simp] theorem State.offerOut_clock (s : State) (die src lane len ready rank cls node : Nat) (ls : List Line) (kind id : Nat) :
    (s.offerOut die src lane len ready rank cls node ls kind id).clock = s.clock := by
  unfold State.offerOut
  simp

@[simp] theorem State.landReq_clock (s : State) (r t : Nat) : (s.landReq r t).clock = s.clock := by
  unfold State.landReq
  split <;> simp

@[simp] theorem State.tlb_clock (s : State) (cluster ctx va : Nat) : (s.tlb cluster ctx va).2.clock = s.clock := by
  unfold State.tlb
  split <;> simp

@[simp] theorem State.missTlb_clock (s : State) (cluster ctx va : Nat) (w : Waiter) : (s.missTlb cluster ctx va w).clock = s.clock := by
  unfold State.missTlb
  dsimp only
  split <;> simp

@[simp] theorem State.toSlice_clock (s : State) (q : GReq) (t : Nat) : (s.toSlice q t).clock = s.clock := by
  unfold State.toSlice
  simp

@[simp] theorem State.toLlc_clock (s : State) (q : GReq) (t : Nat) : (s.toLlc q t).clock = s.clock := (rfl)

@[simp] theorem State.toWindow_clock (s : State) (q : GReq) : (s.toWindow q).clock = s.clock := by
  unfold State.toWindow
  simp

@[simp] theorem State.setL1_clock (s : State) (core set : Nat) (ls : List CLine) : (s.setL1 core set ls).clock = s.clock := (rfl)

@[simp] theorem State.wbL1_clock (s : State) (core : Nat) (l : CLine) (t : Nat) (sink : Sink) : (s.wbL1 core l t sink).clock = s.clock := by
  unfold State.wbL1
  simp

@[simp] theorem State.putL1_clock (s : State) (core : Nat) (l : CLine) (t : Nat) : (s.putL1 core l t).clock = s.clock := by
  unfold State.putL1
  simp

@[simp] theorem State.flushL1_clock (s : State) (core pa t : Nat) (sink : Sink) : (s.flushL1 core pa t sink).clock = s.clock := by
  unfold State.flushL1
  split <;> simp

@[simp] theorem State.takeL1_clock (s : State) (core pa : Nat) : (s.takeL1 core pa).2.clock = s.clock := (rfl)

@[simp] theorem State.l1Load_clock (s : State) (a : Access) (core pa attr t : Nat) (es : List Elem) :
    (s.l1Load a core pa attr t es).1.clock = s.clock := by
  unfold State.l1Load
  dsimp only
  (repeat' split) <;> simp

@[simp] theorem State.l1Store_clock (s : State) (a : Access) (core pa attr t : Nat) (es : List Elem) :
    (s.l1Store a core pa attr t es).1.clock = s.clock := by
  unfold State.l1Store
  dsimp only
  (repeat' split) <;> simp

@[simp] theorem State.startLine_clock (s : State) (a : Access) (core pa attr t : Nat) (es : List Elem) :
    (s.startLine a core pa attr t es).1.clock = s.clock := by
  unfold State.startLine
  dsimp only
  (repeat' split) <;> simp

@[simp] theorem State.accessFault_clock (s : State) (a : Access) (code addr : Nat) : (s.accessFault a code addr).clock = s.clock := by
  unfold State.accessFault
  split <;> simp

@[simp] theorem State.provisional_clock (s : State) (a : Access) : (s.provisional a).clock = s.clock := by
  unfold State.provisional
  simp

@[simp] theorem State.unrecord_clock (s : State) (a : Access) : (s.unrecord a).clock = s.clock := by
  unfold State.unrecord
  simp

@[simp] theorem State.codeStore_clock (s : State) (ls : List (Nat × Nat × BitVec 64)) : (s.codeStore ls).clock = s.clock := by
  unfold State.codeStore
  simp

@[simp] theorem State.postSend_clock (s : State) (g uid : Nat) : (s.postSend g uid).clock = s.clock := (rfl)

@[simp] theorem State.startGlobal_clock (s : State) (a : Access) : (s.startGlobal a).1.clock = s.clock := by
  unfold State.startGlobal
  dsimp only
  generalize hr : List.foldl _ _ _ = r
  have h : r.1.clock = s.clock := by
    rw [← hr]
    refine State.clock_foldl_acc (fun r : State × List (Nat × Nat × Nat × List Elem) × List Nat × Option (Nat × Nat) => r.1) _ _ _
      (fun r g => ?_)
    split <;> simp
  split
  · simp [h]
  split
  · simp [h]
  split
  · simp [h]
  · split <;> simp [h]

@[simp] theorem State.postPond_clock (s : State) (q : PondReq) (t : Nat) : (s.postPond q t).clock = s.clock := by
  unfold State.postPond
  simp

@[simp] theorem State.enqueuePond_clock (s : State) (a : Access) (port entry : Nat) (packet : Option Nat) :
    (s.enqueuePond a port entry packet).clock = s.clock := by
  unfold State.enqueuePond
  exact State.clock_foldl_acc (fun r : State × Nat => r.1) _ _ _ (fun r w => by simp)

@[simp] theorem State.startCrew_clock (s : State) (a : Access) : (s.startCrew a).clock = s.clock := by
  unfold State.startCrew
  simp

@[simp] theorem State.startTile_clock (s : State) (a : Access) : (s.startTile a).clock = s.clock := (rfl)

@[simp] theorem State.start_clock (s : State) (a0 : Access) : (s.start a0).1.clock = s.clock := by
  unfold State.start
  dsimp only
  (repeat' split) <;> simp

@[simp] theorem State.finish_clock (s : State) (g uid : Nat) (counts : Bool) : (s.finish g uid counts).clock = s.clock := by
  unfold State.finish
  simp

@[simp] theorem State.begin_clock (s : State) (a : Access) : (s.begin a).clock = s.clock := by
  unfold State.begin
  simp

@[simp] theorem State.joinPages_clock (s : State) (j : Nat) (n : Nat) : (s.joinPages j n).clock = s.clock := by
  induction n generalizing s with
  | zero => simp [State.joinPages]
  | succ n ih =>
    unfold State.joinPages
    dsimp only
    repeat' split
    all_goals simp [ih]

@[simp] theorem State.openJoin_clock (s : State) (x : Join) : (s.openJoin x).clock = s.clock := by
  unfold State.openJoin
  simp

@[simp] theorem State.drainCluster_clock (s : State) (c : Nat) (n : Nat) : (s.drainCluster c n).clock = s.clock := by
  induction n generalizing s with
  | zero => simp [State.drainCluster]
  | succ n ih =>
    unfold State.drainCluster
    dsimp only
    repeat' split
    all_goals simp [ih]

@[simp] theorem State.drain_clock (s : State) (g : Nat) : (s.drain g).clock = s.clock := by
  unfold State.drain
  simp

@[simp] theorem State.issueAccess_clock (s : State) (a0 : Access) (rel : Option Join := none) : (s.issueAccess a0 rel).clock = s.clock := by
  unfold State.issueAccess
  simp

@[simp] theorem State.claimOne_clock (s : State) (g : Nat) (e : Entry) (m : Msg) : (s.claimOne g e m).clock = s.clock := by
  unfold State.claimOne
  simp

@[simp] theorem State.claims_clock (s : State) (g : Nat) : (s.claims g).clock = s.clock := by
  unfold State.claims
  split
  · rfl
  · exact State.clock_foldl _ _ _ (fun s e => by (repeat' split) <;> simp)

@[simp] theorem State.setBarrier_clock (s : State) (k : Nat) (b : Barrier) : (s.setBarrier k b).clock = s.clock := (rfl)

@[simp] theorem State.landBar_clock (s : State) (g k completed : Nat) : (s.landBar g k completed).clock = s.clock := by
  unfold State.landBar
  split
  · rfl
  · exact State.clock_foldl _ _ _ (fun s e => by split <;> simp)

@[simp] theorem State.updCore_clock (s : State) (c : Nat) (f : Core → Core) : (s.updCore c f).clock = s.clock := (rfl)

@[simp] theorem State.updEngine_clock (s : State) (c : Nat) (f : Engine → Engine) : (s.updEngine c f).clock = s.clock := (rfl)

@[simp] theorem State.wakeEngine_clock (s : State) (c : Nat) : (s.wakeEngine c).clock = s.clock := by
  unfold State.wakeEngine
  simp

@[simp] theorem State.registerBatches_clock (s : State) (c limit : Nat) (n : Nat) : (s.registerBatches c limit n).clock = s.clock := by
  induction n generalizing s with
  | zero => simp [State.registerBatches]
  | succ n ih =>
    unfold State.registerBatches
    dsimp only
    repeat' split
    all_goals simp [ih]

@[simp] theorem State.queueBatches_clock (s : State) (c : Nat) (n : Nat) : (s.queueBatches c n).clock = s.clock := by
  induction n generalizing s with
  | zero => simp [State.queueBatches]
  | succ n ih =>
    unfold State.queueBatches
    dsimp only
    repeat' split
    all_goals simp [ih]

@[simp] theorem State.letIn_clock (s : State) (c : Nat) : (s.letIn c).clock = s.clock := by
  unfold State.letIn
  dsimp only
  split <;> simp

@[simp] theorem State.copyReq_clock (s : State) (c : Copy) (t : Trans) (kind : AccKind) (line tag : Nat) (pkg : Bool)
    (data : Line) (mask : BitVec 64) (at_ : Nat) :
    (s.copyReq c t kind line tag pkg data mask at_).clock = s.clock := by
  unfold State.copyReq
  simp

@[simp] theorem State.updCopy_clock (s : State) (id : Nat) (f : Copy → Copy) : (s.updCopy id f).clock = s.clock := (rfl)

@[simp] theorem State.updCu_clock (s : State) (c : Nat) (f : CopyUnit → CopyUnit) : (s.updCu c f).clock = s.clock := (rfl)

@[simp] theorem State.copyAdvance_clock (s : State) (cl : Nat) (n : Nat) : (s.copyAdvance cl n).clock = s.clock := by
  induction n generalizing s with
  | zero => simp [State.copyAdvance]
  | succ n ih =>
    unfold State.copyAdvance
    dsimp only
    repeat' split
    all_goals simp [ih]

@[simp] theorem State.sendLines_clock (s : State) (id : Nat) (lines : List Nat) : (s.sendLines id lines).clock = s.clock := by
  unfold State.sendLines
  exact State.clock_foldl _ _ _ (fun s l => by split <;> simp)

@[simp] theorem State.copySend_clock (s : State) (cl : Nat) (n : Nat) : (s.copySend cl n).clock = s.clock := by
  induction n generalizing s with
  | zero => simp [State.copySend]
  | succ n ih =>
    unfold State.copySend
    dsimp only
    repeat' split
    all_goals simp [ih]

@[simp] theorem State.copyGo_clock (s : State) (id : Nat) : (s.copyGo id).clock = s.clock := by
  unfold State.copyGo
  simp

@[simp] theorem State.copyDesc_clock (s : State) (id : Nat) : (s.copyDesc id).clock = s.clock := by
  unfold State.copyDesc
  dsimp only
  split <;> rename_i h <;> simp [State.clock_of_snd h]

@[simp] theorem State.copyBegin_clock (s : State) (id : Nat) : (s.copyBegin id).clock = s.clock := by
  unfold State.copyBegin
  simp

@[simp] theorem State.copyNext_clock (s : State) (cl : Nat) : (s.copyNext cl).clock = s.clock := by
  unfold State.copyNext
  simp

@[simp] theorem State.laneChunk_clock (s : State) (port id i : Nat) (kind : AccKind) (off : Nat) (data : VPair) (t : Nat) :
    (s.laneChunk port id i kind off data t).clock = s.clock := by
  unfold State.laneChunk
  simp

@[simp] theorem State.deliverChunk_clock (s : State) (c : Copy) (i : Nat) (data : VPair) (t : Nat) :
    (s.deliverChunk c i data t).clock = s.clock := by
  unfold State.deliverChunk
  simp

@[simp] theorem State.emptyL1_clock (s : State) (core : Nat) (sink : Sink) : (s.emptyL1 core sink).clock = s.clock := by
  unfold State.emptyL1
  simp

@[simp] theorem State.fireChunk_clock (s : State) (id i : Nat) (data : VPair) : (s.fireChunk id i data).clock = s.clock := by
  unfold State.fireChunk
  dsimp only
  split <;> simp

@[simp] theorem State.copyAgain_clock (s : State) (id : Nat) : (s.copyAgain id).clock = s.clock := by
  unfold State.copyAgain
  simp

@[simp] theorem State.rebindWait_clock (s : State) (g : Nat) (e : Entry) : (s.rebindWait g e).clock = s.clock := by
  unfold State.rebindWait
  split <;> simp

@[simp] theorem State.putSlot_clock (s : State) (x : Slot) (g b : Nat) (new rekey : Nat → Nat) : (s.putSlot x g b new rekey).clock = s.clock := by
  unfold State.putSlot
  dsimp only
  refine (State.clock_foldl _ _ _ (fun s f => by simp)).trans ((State.claims_clock _ _).trans ?_)
  generalize hr : List.foldl _ (List.foldl _ _ _) _ = r
  have h : r.clock = s.clock := by
    rw [← hr]
    refine (State.clock_foldl _ _ _ (fun s e => by split <;> simp)).trans ?_
    simp
  repeat' split
  all_goals simp [h]

@[simp] theorem State.restoreWork_clock (s : State) (l q img : Nat) (im : SaveImage) (ms : List Nat) (map : List (Nat × Nat)) (key : Nat → Nat) :
    (s.restoreWork l q img im ms map key).clock = s.clock := (rfl)

@[simp] theorem State.restoreCopies_clock (s : State) (l q : Nat) (im : SaveImage) (ms : List Nat) :
    (s.restoreCopies l q im ms).clock = s.clock := by
  unfold State.restoreCopies
  simp

@[simp] theorem State.restoreThreads_clock (s : State) (im : SaveImage) (map : List (Nat × Nat)) (b : Nat) (key : Nat → Nat) :
    (s.restoreThreads im map b key).clock = s.clock := by
  unfold State.restoreThreads
  simp

end Sys2Proof.Machine
end

section
/-! PROOFS. What a mill's pond, scoreboard and full/empty bits hold after a restore (R375, step 1). -/

namespace Sys2Proof.Machine

open Sys2Proof

/-! The bytes of a pond's image in the pond. -/

/-- The bytes of a pond's image, written into the pond of a mill. -/
def pondImage (nm : Nat) (image p : Memory) : Memory := image.foldl (fun p kb => memSet p (pondAt nm kb.1) kb.2) p

theorem pondImage_cons (nm : Nat) (kb : Nat × Byte) (image p : Memory) :
    pondImage nm (kb :: image) p = pondImage nm image (memSet p (pondAt nm kb.1) kb.2) := rfl

theorem memByte_pondImage_other {nm a : Nat} {image p : Memory} (hp : p.wf = true) (h : ∀ kb ∈ image, a ≠ pondAt nm kb.1) :
    memByte (pondImage nm image p) a = memByte p a := by
  induction image generalizing p with
  | nil => rfl
  | cons kb image ih =>
    rw [pondImage_cons, ih (memSet_wf p _ _ hp) fun o ho => h o (List.mem_cons_of_mem _ ho),
      memByte_memSet_other p _ _ _ hp (h kb List.mem_cons_self)]

theorem pondAt_inj {nm off off' : Nat} : pondAt nm off = pondAt nm off' ↔ off = off' := by
  rw [pondAt, pondAt, Nat.add_left_cancel_iff]

theorem memByte_cons_other {k off : Nat} {v : Byte} {m : Memory} (w : Memory.wf ((k, v) :: m) = true) (h : off ≠ k) :
    memByte ((k, v) :: m) off = memByte m off := by
  obtain ⟨-, habove, -⟩ := (Tab.wf_cons 0 k v m).mp w
  by_cases hlt : off < k
  · rw [memByte, memByte, tget_above 0 m k off habove hlt.le]
    simp [tget, h, hlt]
  · simp [memByte, tget, h, hlt]

/-- Where nothing stood before, the pond then holds its image. -/
theorem memByte_pondImage {nm off : Nat} {image p : Memory} (hi : image.wf = true) (hp : p.wf = true)
    (h0 : memByte p (pondAt nm off) = 0) : memByte (pondImage nm image p) (pondAt nm off) = memByte image off := by
  induction image generalizing p with
  | nil => exact h0
  | cons kb image ih =>
    obtain ⟨k, v⟩ := kb
    obtain ⟨-, habove, hw⟩ := (Tab.wf_cons 0 k v image).mp hi
    rw [pondImage_cons]
    by_cases hk : off = k
    · subst hk
      have hrest : ∀ kb ∈ image, pondAt nm off ≠ pondAt nm kb.1 := fun kb hkb e =>
        (of_decide_eq_true (List.all_eq_true.mp habove kb hkb)).ne (pondAt_inj.mp e)
      rw [memByte_pondImage_other (memSet_wf p _ _ hp) hrest, memByte_memSet_same p _ _ hp]
      simp [memByte, tget]
    · rw [ih hw (memSet_wf p _ _ hp) ((memByte_memSet_other p _ _ _ hp (mt pondAt_inj.mp hk)).trans h0), memByte_cons_other hi hk]

/-! The state of a mill that an image goes into. -/

/-- The bytes of mill `k` of an image that do not stand in a dry bank. -/
def State.wetImage (s : State) (im : SaveImage) (k nm : Nat) : Memory :=
  ((im.pond[k]?).getD []).filter (fun kb => !(s.mill nm).isDry kb.1)

/-- The pond without the bytes of a mill. -/
def State.otherPonds (s : State) (nm : Nat) : Memory := s.pond.filter (fun kb => kb.1 / 2 ^ 21 != nm)

@[simp] theorem State.wakeEngine_mills (s : State) (c : Nat) : (s.wakeEngine c).mills = s.mills := by
  unfold State.wakeEngine
  split <;> rfl

section
variable (s : State) (im : SaveImage) (k nm : Nat) (new : Nat → Nat)

/-- The pond and the mill with what the image holds of them, before the cores and clusters have theirs. -/
def State.putBanks (s : State) (im : SaveImage) (k nm : Nat) : State :=
  { s with pond := pondImage nm (s.wetImage im k nm) (s.otherPonds nm) }.updMill nm
    (fun x => { x with full := (im.full[k]?).getD [], sb := (im.sb[k]?).getD [] })

theorem State.putMill_mills : (s.putMill im k nm new).mills = (s.putBanks im k nm).mills := by
  unfold State.putMill
  refine (State.mills_foldl _ _ _ fun t kc => ?_).trans ((State.mills_foldl _ _ _ fun t kc => ?_).trans ?_)
  · exact State.wakeEngine_mills ..
  · rfl
  · rfl

theorem State.putMill_bytes : (s.putMill im k nm new).bytes = (s.putBanks im k nm).bytes := by
  unfold State.putMill
  refine (State.bytes_foldl _ _ _ fun t kc => ?_).trans ((State.bytes_foldl _ _ _ fun t kc => ?_).trans ?_)
  · exact State.wakeEngine_bytes ..
  · rfl
  · rfl

theorem State.putMill_pond : (s.putMill im k nm new).pond = pondImage nm (s.wetImage im k nm) (s.otherPonds nm) :=
  congrArg (·.2.1) (s.putMill_bytes im k nm new)

end

section
variable {s : State} {im : SaveImage} {k nm : Nat} (new : Nat → Nat)

theorem State.putMill_mill (w : Tab.wf {} s.mills = true) : ((s.putMill im k nm new).mill nm).sb = (im.sb[k]?).getD []
    ∧ ((s.putMill im k nm new).mill nm).full = (im.full[k]?).getD [] := by
  rw [State.mill, State.putMill_mills, State.putBanks, State.updMill, State.setMill, tget_tput_same _ _ _ _ w]
  exact ⟨rfl, rfl⟩

variable (hp : s.pond.wf = true)
include hp

theorem State.otherPonds_wf : (s.otherPonds nm).wf = true := memFilter_wf _ _ hp

theorem State.memByte_otherPonds (a : Nat) :
    memByte (s.otherPonds nm) a = if a / 2 ^ 21 = nm then 0 else memByte s.pond a := by
  refine (tget_filter_keys (0 : Byte) s.pond (fun a => a / 2 ^ 21 != nm) hp a).trans ?_
  simp only [bne_iff_ne, ite_not]
  rfl

/-- A mill's pond holds its image, but for dry banks. -/
theorem State.memByte_putMill (hi : ((im.pond[k]?).getD []).wf = true) {off : Nat} (hoff : off < 2 ^ 21) :
    memByte (s.putMill im k nm new).pond (2 ^ 21 * nm + off) =
      if (s.mill nm).isDry off then 0 else memByte ((im.pond[k]?).getD []) off := by
  have hempty : memByte (s.otherPonds nm) (pondAt nm off) = 0 := by
    rw [State.memByte_otherPonds hp, if_pos (by rw [pondAt]; omega)]
  have hdry := tget_filter_keys (0 : Byte) ((im.pond[k]?).getD []) (fun o => !(s.mill nm).isDry o) hi off
  have hwet : (s.wetImage im k nm).wf = true := memFilter_wf _ _ hi
  rw [Nat.mul_comm, ← pondAt, State.putMill_pond, memByte_pondImage hwet (State.otherPonds_wf hp) hempty]
  refine hdry.trans ?_
  cases (s.mill nm).isDry off <;> rfl

theorem State.memByte_putMill_other (hk : ∀ kb ∈ (im.pond[k]?).getD [], kb.1 < 2 ^ 21) {a : Nat} (ha : a / 2 ^ 21 ≠ nm) :
    memByte (s.putMill im k nm new).pond a = memByte s.pond a := by
  have hapart : ∀ kb ∈ s.wetImage im k nm, a ≠ pondAt nm kb.1 := fun kb hkb e => by
    have hlt := hk kb (List.mem_filter.mp hkb).1
    rw [e, pondAt] at ha
    omega
  rw [State.putMill_pond, memByte_pondImage_other (State.otherPonds_wf hp) hapart, State.memByte_otherPonds hp, if_neg ha]

end

end Sys2Proof.Machine
end

section
/-! PROOFS. A restore as an event, and a thread that takes its place in it (R375). -/

namespace Sys2Proof.Machine

open Sys2Proof

@[simp] theorem State.putMill_clock (s : State) (im : SaveImage) (k nm : Nat) (new : Nat → Nat) :
    (s.putMill im k nm new).clock = s.clock := by
  unfold State.putMill
  refine (State.clock_foldl _ _ _ fun t kc => ?_).trans ((State.clock_foldl _ _ _ fun t kc => ?_).trans ?_)
  · exact State.wakeEngine_clock ..
  · rfl
  · rfl

@[simp] theorem State.restoreMills_clock (s : State) (im : SaveImage) (ms : List Nat) (map : List (Nat × Nat)) (key : Nat → Nat) :
    (s.restoreMills im ms map key).clock = s.clock := by
  unfold State.restoreMills
  simp

/-- The first round boundary after a cycle. -/
theorem nextAt_round_after (t : Nat) : nextAt (t + 1) 32 0 = (t + 32) / 32 * 32 := nextAt_round_from (t + 1)

theorem execRestore_eq {s : State} {l q img : Nat} {ms : List Nat} (ha : s.arg = [l, q, img])
    (hms : ((s.launchOf l).crews[q]?).getD none = some ms) :
    let im : SaveImage := tget {} s.saves img
    let map := s.placeSaved im ms
    let key := s.rekey im ms q
    let t := (s.restoreMills im ms map key).restoreWork l q img im ms map key
    let t := (t.restoreCopies l q im ms).restoreThreads im map ((t.cycle + 32) / 32 * 32) key
    execRestore s = .next (((t.restoreNotices map).restartSlice l).post (s.cycle + 1) 8 q .taskEnd [l, q]) := by
  intro im map key t u
  have hclock : u.clock = s.clock := by simp only [u, t, State.restoreThreads_clock, State.restoreCopies_clock, State.restoreWork_clock,
    State.restoreMills_clock]
  have hcycle : u.cycle = s.cycle := hclock
  simp only [execRestore, ha, List.headD_cons, List.getD_cons_zero, List.getD_cons_succ, hms, nextAt_round_after]
  rw [← hcycle]

/-! A thread that takes its place. -/

/-- An entry of the receive buffer in a thread's new slot. -/
def Entry.refit (g : Nat) (key : Nat → Nat) (e : Entry) : Entry :=
  { e with
    acc := e.acc.map (fun (a : Access) => { a with slot := g })
    form := (match e.form with | .bar k n => EForm.bar (key k) n | f => f)
    job := e.job.map (fun j => g / 512 * 2 ^ 21 + j % 2 ^ 21) }

/-- A thread's state in its new slot, from which it goes on. -/
def Slot.refit (x : Slot) (open_ : List Pending) (g : Nat) (new key : Nat → Nat) : Slot :=
  { x with
    link := x.link.map new, due := none, lastLine := none, heldLate := [], open_ := open_
    gens := x.gens.foldl (fun t (kv : Nat × Nat) => tput 0 t (key kv.1) kv.2) [], rb := x.rb.map (fun e => e.refit g key) }

/-- A restored entry still waits. -/
def Entry.waits (e : Entry) : Bool := !e.landed && !e.claimed

/-- A wait is entered again in the slot `g`. -/
def State.enterWait (s : State) (g : Nat) (e : Entry) : State :=
  match e.form, e.acc with
  | .fe, some a => s.issueAccess a
  | .feG, some a => s.issueAccess a
  | .chk _, some a => s.issueAccess a
  | .bar k _, _ => s.landBar g k (s.barrier k).completed
  | _, _ => s

section
variable (s : State) {x : Slot} (g b : Nat) (new key : Nat → Nat) (hlate : x.heldLate = [])
include hlate

/-- A thread that runs or is parked, and is held for no late fault: its waits are entered again, and its turn is the boundary's. -/
theorem State.putSlot_goes (hst : x.st = .running ∨ ∃ w, x.st = .parked w) : s.putSlot x g b new key =
    let y := x.refit (s.slot g).open_ g new key
    let waits := y.rb.filter (fun e => e.waits)
    ((waits.foldl (fun t e => t.enterWait g e) (waits.foldl (fun t e => t.rebindWait g e) (s.setSlot g y))).turnAt g b).claims g := by
  unfold State.putSlot
  obtain hst | ⟨w, hst⟩ := hst
  · simp only [hst, hlate, Slot.refit, Entry.refit, Entry.waits, State.enterWait, millOf, List.foldl_nil] <;>
    rfl
  · simp only [hst, hlate, Slot.refit, Entry.refit, Entry.waits, State.enterWait, millOf, List.foldl_nil] <;>
    rfl

/-- A thread without a wait goes on from the boundary. -/
theorem State.putSlot_of_landed (hst : x.st = .running ∨ ∃ w, x.st = .parked w)
    (hrb : ∀ e ∈ x.rb, e.landed = true ∨ e.claimed = true) :
    s.putSlot x g b new key = ((s.setSlot g (x.refit (s.slot g).open_ g new key)).turnAt g b).claims g := by
  have hnone : (x.refit (s.slot g).open_ g new key).rb.filter (fun e => e.waits) = [] := by
    refine List.filter_eq_nil_iff.mpr fun e' he' => ?_
    obtain ⟨e, he, rfl⟩ := List.mem_map.mp he'
    obtain h | h := hrb e he <;> simp [Entry.waits, Entry.refit, h]
  rw [State.putSlot_goes s g b new key hlate hst]
  simp only [hnone, List.foldl_nil]

variable {e : Entry} {a : Access} (hst : ∃ w, x.st = .parked w) (hrb : x.rb = [e]) (hl : e.landed = false) (hc : e.claimed = false)
  (hacc : e.acc = some a)
include hst hrb hl hc hacc

/-- A thread that waits for a word has its access issued again from its new slot; one that acquires does so by the binding table as it
stands. -/
theorem State.putSlot_of_wait (hform : e.form = .fe ∨ e.form = .feG ∨ ∃ w, e.form = .chk w) :
    let a' : Access := { a with slot := g }
    let t := s.setSlot g (x.refit (s.slot g).open_ g new key)
    let ranges := rangesOf (t.bindsOfWord (t.launchOfSlot g) a.addr)
    let u := if e.form = .feG then t.updEntry g e.uid (fun z => { z with acq := ranges.1, acqWide := ranges.2 }) else t
    s.putSlot x g b new key = ((u.issueAccess a').turnAt g b).claims g := by
  intro a' t ranges u
  have hwaits : (x.refit (s.slot g).open_ g new key).rb.filter (fun e => e.waits) = [e.refit g key] := by
    simp [Slot.refit, hrb, Entry.refit, Entry.waits, hl, hc]
  rw [State.putSlot_goes s g b new key hlate (Or.inr hst)]
  simp only [hwaits, List.foldl_cons, List.foldl_nil]
  have hrebind : t.rebindWait g (e.refit g key) = u := by
    obtain h | h | ⟨w, h⟩ := hform <;> simp only [u, State.rebindWait, Entry.refit, h, hacc, Option.map_some] <;> rfl
  have henter : u.enterWait g (e.refit g key) = u.issueAccess a' := by
    obtain h | h | ⟨w, h⟩ := hform <;> simp only [State.enterWait, Entry.refit, h, hacc, Option.map_some] <;> rfl
  rw [hrebind, henter]

end

/-- The slot of a thread that waits for a word, written out. -/
theorem Slot.refit_of_wait {x : Slot} {e : Entry} {a : Access} (g : Nat) (new key : Nat → Nat) (hrb : x.rb = [e]) (hacc : e.acc = some a)
    (hform : e.form = .fe ∨ e.form = .feG ∨ ∃ w, e.form = .chk w) (open_ : List Pending) :
    x.refit open_ g new key = { x with
      link := x.link.map new, due := none, lastLine := none, heldLate := [], open_ := open_
      gens := x.gens.foldl (fun t (kv : Nat × Nat) => tput 0 t (key kv.1) kv.2) []
      rb := [{ e with acc := some { a with slot := g }, job := e.job.map (fun j => g / 512 * 2 ^ 21 + j % 2 ^ 21) }] } := by
  obtain h | h | ⟨w, h⟩ := hform <;> simp only [Slot.refit, Entry.refit, hrb, List.map_cons, List.map_nil, h, hacc, Option.map_some]

end Sys2Proof.Machine
end

section
/-! PROOFS. Restores, and the commands of the management path and of contexts (R352 to R354, R373 to R376, R380). -/

namespace Sys2Proof.Machine

open Sys2Proof

theorem restores_hold : Claims.Restores := by
  refine ⟨fun s l q img ms ha hms => execRestore_eq ha hms, fun s im k nm new w hp hi hk => ?_,
    fun s x g b new key hst hrb hlate => State.putSlot_of_landed s g b new key hlate hst hrb,
    fun s x g b new key e a hst hlate hrb hl hc hacc hform => ?_⟩
  · obtain ⟨hsb, hfull⟩ := State.putMill_mill (im := im) (k := k) (nm := nm) new w
    exact ⟨fun off hoff => State.memByte_putMill new hp hi hoff, fun a ha => State.memByte_putMill_other new hp hk ha, hsb, hfull⟩
  · rw [State.putSlot_of_wait s g b new key hlate ⟨_, hst⟩ hrb hl hc hacc hform, Slot.refit_of_wait g new key hrb hacc hform]

end Sys2Proof.Machine
end

section
/-! PROOFS. The obligation of the host's commands. -/

open Sys2Proof Sys2Proof.Machine

/-- Settles O58, a lemma for each command; for a restore, the clock stands still while its parts are put in place. -/
theorem hostCommandEvents : Obligations.HostCommandEvents := by
  refine ⟨?sessions, ?refused, ?looksAgain, ?drop, ?preempt, ?switches, ?resume, ?handler, ?kill, ?budget, ?spent, ?vacate,
    restores_hold, ?session, ?reads⟩
  case sessions =>
    intro s node iv tag bytes ct key x ha hs ho
    exact ⟨execCreate_authentic ha hs ho, execDestroy_authentic ha hs ho, execLoadkey_authentic ha hs ho, execQuote_authentic ha hs ho⟩
  case refused =>
    intro s node iv tag bytes ct i ha hi
    obtain ⟨f, hf⟩ := session_commands ha hi
    refine ⟨fun hs => ?_, fun key hs ho => ?_⟩
    · rw [hf, State.command_noSession ha f hs]
    · rw [hf, State.command_notAuthentic ha f hs ho]
  case looksAgain => exact fun s node ctx ha => execDestroy_looksAgain ha
  case drop =>
    intro s ctx ls wl wd
    refine ⟨s.dropContext_contexts ctx ls, s.dropContext_pond ctx ls, fun k hk => ?_, fun k hk hl hone => ?_,
      s.dropContext_launchOf ctx ls wl, s.dropContext_pool ctx ls wd⟩
    · obtain ⟨hmem, hnot⟩ := (s.mem_dropContext_saves ctx ls k).mp hk
      exact hnot k hmem rfl
    · refine (s.mem_dropContext_saves ctx ls k).mpr ⟨hk, fun j hj he => ?_⟩
      rw [hone j hj he]
      exact hl
  case preempt =>
    intro s die ctx tag l mask count ha pick
    exact ⟨execPreempt_vacates ha, execPreempt_refused ha⟩
  case switches => exact fun s die ctx tag ha => ⟨execSwitchout_eq ha, execSwitchin_eq ha⟩
  case resume => exact fun s die ctx tag g mode ha hm hg ht hsup hc => execResume_goes ha hm hg ht hsup hc
  case handler => exact fun s die ctx tag fpol hslot ha hf hs => execHandler_writes ha hf hs
  case kill => exact fun s die ctx tag l ha => execKill_eq ha
  case budget =>
    intro s die ctx tag l wait slice ha
    exact ⟨execBudget_refused ha, execBudget_writes ha⟩
  case spent => exact State.checkBudget_cases
  case vacate => exact fun s l q ms hms => ⟨execVacate_begins hms, execVacate_polls hms⟩
  case session => exact fun s node share ha => execAuthenticatedSession_eq ha
  case reads => exact execManagementPathRead_reads

end
